-- ==== Sys2Proof/Word.lean ====
section
/-! DEFINITION. The word types of the ZB9616 and their plainest arithmetic (spec/00_scope.md R3, R4). -/
namespace Sys2Proof

/-- A 64-bit register or instruction word. -/
abbrev Word := BitVec 64
/-- One byte of memory. -/
abbrev Byte := BitVec 8
/-- A 2048-bit vector register or queue entry (R200, R114). -/
abbrev Vec := BitVec 2048

/-- `sx(v)` of R94: a 64-bit value read as `sint(64)`. -/
def sx (v : Word) : Int := v.toInt
/-- `ux(v)` of R94: a 64-bit value read as `nat(64)`. -/
def ux (v : Word) : Nat := v.toNat

end Sys2Proof
end

