-- ==== Sys2Proof/Syntax.lean ====
section
/-! DEFINITION. The instruction set as syntax: one constructor of `Instr` for each row of the opcode table
(spec/opcode_table.json), with the operands of spec/02_encoding.md R31 to R46. -/
namespace Sys2Proof

/-- The five engines of a core, in stream-index order (R9). -/
inductive Engine where | c | a | v | m | d
deriving DecidableEq, Repr, Inhabited

/-- The C engine's register codes (R31, R80). -/
inductive CReg where
  | k (i : Fin 8) | p (i : Fin 8) | l (i : Fin 16) | q (i : Fin 8) | zr
deriving DecidableEq, Repr, Inhabited

/-- A scalar register of any engine: C registers, x, e, h and c registers (R31). -/
inductive SReg where
  | c (r : CReg) | x (r : Fin 16) | e (r : Fin 16) | h (r : Fin 16) | d (r : Fin 16)
deriving DecidableEq, Repr, Inhabited

/-- The queues of R16, R32 and R114. -/
inductive Queue where
  | av (i : Fin 4) | am (i : Fin 2) | va0 | mv0 | ca0 | cv0 | cm0 | cd0 | bq | fq
deriving DecidableEq, Repr, Inhabited

/-- Scope codes (R33, R181). -/
inductive Scope where | stream | seat | core | cluster | die | package | system
deriving DecidableEq, Repr, Inhabited

/-- Access sizes (R33). -/
inductive Size where | b1 | b2 | b4 | b8
deriving DecidableEq, Repr, Inhabited

/-- The 28 format codes (R54), in code order. -/
inductive Fmt where
  | t6e0 | t6e1 | t6e0b | t6e1b | t8e0 | t8e1 | t8e2 | t8e1b | t8e2b | t16e1 | t16e2
  | bf16 | fp16 | fp32 | e4 | e5 | bin | trit5 | trit2 | i4 | n4 | i4b | i8 | n8 | i8b | i16 | n16 | i32
deriving DecidableEq, Repr, Inhabited

/-- Rounding modes (R66). -/
inductive Rnd where | rne | rtz | up | down | rna
deriving DecidableEq, Repr, Inhabited

/-- The wait a word names (R24): none, kind 01, kind 10, kind 11. -/
inductive Wait where | none | clr (n : Fin 64) | keep (n : Fin 64) | tag (n : Fin 64)
deriving DecidableEq, Repr, Inhabited

/-- The signal a word sets (R24): none, at issue (kind 01), when its effects are performed (kind 10). -/
inductive Sig where | none | issue (n : Fin 64) | done (n : Fin 64)
deriving DecidableEq, Repr, Inhabited

/-- The wait and signal bytes of a word (R24). -/
structure Ann where
  wait : Wait
  sig : Sig
deriving DecidableEq, Repr, Inhabited

/-- The special registers of R46. -/
inductive SpecialReg where
  | trapc | trapnpc | trapcause | trapaddr | trapstrm | trapfl
  | seatid | coreid | clustid | dieid | vfid | compart
  | pm | pmwaitlim | spmode | spillbase | spilllim | winptr | vctl | vstat | mstat | tagbits
  | tickno | timebase | tickper | tokmax | tokrate | tokens | blst | rlo | rhi
  | cring | aring | vring | mring | dring
deriving DecidableEq, Repr, Inhabited

/-- Operands of form CM (R34). -/
structure CmArgs where
  d : CReg
  a : CReg
  size : Size
  x : Bool
  disp : BitVec 24
deriving DecidableEq, Repr, Inhabited

/-- Operands of form CN (R34). -/
structure CnArgs where
  d : CReg
  a : CReg
  size : Size
  x : Bool
  scope : Scope
  disp : BitVec 21
deriving DecidableEq, Repr, Inhabited

/-- Operands of form CA, without c (R34). -/
structure CaArgs where
  d : CReg
  a : CReg
  b : CReg
  scope : Scope
  acq : Bool
  rel : Bool
  size : Size
deriving DecidableEq, Repr, Inhabited

/-- Cache treatment of a streaming instruction (R35). -/
inductive CacheMode where | normal | stream | keep
deriving DecidableEq, Repr, Inhabited

/-- Operands of form AS (R35). -/
structure AsArgs where
  queue : Queue
  base : Fin 16
  aux : Fin 16
  size : Size
  mode : CacheMode
  count : BitVec 12
  scope : Scope
  acq : Bool
  rel : Bool
deriving DecidableEq, Repr, Inhabited

/-- The control fields of a VR word (R36). -/
structure VMod where
  type : Fmt
  rnd : Rnd
  fzi : Bool
  fzo : Bool
  sat : Bool
  m : Bool
deriving DecidableEq, Repr, Inhabited

/-- The conditions of VCMP (R43, R212). -/
inductive VCond where | eq | ne | lt | le | uo
deriving DecidableEq, Repr, Inhabited

/-- The A operand of a product (R37): an h register (Q = 0) or a queue (Q = 1). -/
inductive AOp where | h (r : Fin 16) | q (q : Queue)
deriving DecidableEq, Repr, Inhabited

/-- Operands of form DC (R38). -/
structure DcArgs where
  dst : Fin 16
  src : Fin 16
  len : Fin 16
  tag : Fin 64
  acq : Bool
  rel : Bool
  scope : Scope
  ep : Fin 4
deriving DecidableEq, Repr, Inhabited

/-- What a peer package sends to a pending receive or add (R300): the sender's length, format code and bytes, and the offsets / 8 of
the parts that it sends poisoned (R281).
It is an input of the machine. -/
structure PeerData where
  len : Nat
  fmt : Nat
  collective : Bool
  bytes : List Byte
  bad : List Nat := []
deriving DecidableEq, Repr, Inhabited

/-- The kinds of counter-tree reports the firmware finds (R357): one run of GPA-contiguous pages of one VF. -/
structure PageRun where
  vf : Nat
  gpa : Nat
  pages : Nat
deriving DecidableEq, Repr, Inhabited

/-- What an event of the machine acts on and what it brings from outside: the unit it names (core, seat, partition, VF,
die, hardware slot, entry of a list) and, for a host write or a peer's answer, the value written. Each event reads the
fields it needs; the others are zero. -/
structure EventIn where
  core : Nat := 0
  seat : Nat := 0
  part : Nat := 0
  vf : Nat := 0
  die : Nat := 0
  slot : Nat := 0
  idx : Nat := 0
  quad : Nat := 0
  fromPf : Bool := false
  val : Word := 0
  bytes : List Byte := []
  peer : PeerData := default
  runs : List PageRun := []
deriving DecidableEq, Repr, Inhabited

/-- One constructor for each row of the opcode table. The constructors from `pmAllocate` on are the table's events:
steps of the machine that have no instruction word of their own. -/
inductive Instr where
  -- every engine, or several (R40)
  | nop | sigset (n : Fin 64) | sigclr (n : Fin 64) | sigwait (n : Fin 64) | qcnt (d : SReg) (q : Queue) | rdv
  | join (a : SReg) | leave (a : SReg) | gbar (a : SReg) | fence (scope : Scope) (kinds : BitVec 4)
  | bqput (a : SReg) | bqbr (disp : Int) | pmset (a : SReg) | pmget (d : SReg)
  | twany (a : SReg) | twall (a : SReg) | tffr (d a : SReg) | tclr (a : SReg) | brk (code : BitVec 16)
  -- control engine (R41)
  | add (d a b : CReg) | sub (d a b : CReg) | mul (d a b : CReg) | mulh (d a b : CReg) | mulhn (d a b : CReg)
  | div (d a b : CReg) | divn (d a b : CReg) | rem (d a b : CReg) | remn (d a b : CReg)
  | and (d a b : CReg) | or (d a b : CReg) | xor (d a b : CReg) | shl (d a b : CReg) | shr (d a b : CReg)
  | sra (d a b : CReg) | seq (d a b : CReg) | slt (d a b : CReg) | sltn (d a b : CReg) | min (d a b : CReg)
  | max (d a b : CReg) | sel (d a b c : CReg) | clz (d a : CReg) | popc (d a : CReg)
  | addi (d a : CReg) (imm : BitVec 28) | andi (d a : CReg) (imm : BitVec 28) | ori (d a : CReg) (imm : BitVec 28)
  | xori (d a : CReg) (imm : BitVec 28) | shli (d a : CReg) (n : Fin 64) | shri (d a : CReg) (n : Fin 64)
  | srai (d a : CReg) (n : Fin 64) | slti (d a : CReg) (imm : BitVec 28)
  | ldi (d : CReg) (imm : BitVec 34) | ldih (d : CReg) (imm : BitVec 32)
  | b (disp : BitVec 28) | beq (a b : CReg) (disp : BitVec 28) | bne (a b : CReg) (disp : BitVec 28)
  | blt (a b : CReg) (disp : BitVec 28) | bge (a b : CReg) (disp : BitVec 28)
  | bltn (a b : CReg) (disp : BitVec 28) | bgen (a b : CReg) (disp : BitVec 28)
  | jr (a : CReg) | call (disp : BitVec 28) | callr (a : CReg) | ret
  | mfs (d : CReg) (r : SpecialReg) | mts (r : SpecialReg) (a : CReg) | wsync
  | ld (o : CmArgs) | st (o : CmArgs) | sld (o : CmArgs) | sst (o : CmArgs) | wld (o : CmArgs) | wst (o : CmArgs)
  | spalloc (a b : CReg) | lda (o : CnArgs) | stl (o : CnArgs)
  | amoadd (o : CaArgs) | amoand (o : CaArgs) | amoor (o : CaArgs) | amoxor (o : CaArgs) | amomin (o : CaArgs)
  | amomax (o : CaArgs) | amominn (o : CaArgs) | amomaxn (o : CaArgs) | amoswp (o : CaArgs)
  | amocas (o : CaArgs) (c : CReg) | afadd (o : CaArgs)
  | pmalloc (d : CReg) | pmret (a : CReg) (scope : Scope) | pmretw (a : CReg) (scope : Scope)
  | pmldx (d a b : CReg) | pmprobe (d a : CReg)
  | sigx (a : CReg) (n : Fin 64) | qput (a : CReg) (q : Queue) | sstep | rnext (d a : CReg) | rsteal (a : CReg)
  | tickwait (a : CReg) | fqput (a : CReg) | fqclose
  | wprog (a b : CReg) (tag : Fin 64) | wpstat (d a : CReg) | wwear (d a : CReg) | wrmap (d a : CReg) | wseal (a : CReg)
  | trap (code : BitVec 16) | rte (k : Fin 8) | tlbi (a : CReg) | tlbia | gpafl (a : CReg) | swapb (a : CReg)
  | bankld (a b : CReg) | bankst (a b : CReg) | errpop (d : CReg) | monrd (d a : CReg) | wfe | gate (a b : CReg)
  | keyld (a b : CReg) | keyzap (a : CReg) | zscrub (a : CReg)
  -- access engine (R42)
  | xldi (d : Fin 16) (imm : BitVec 28) | xadd (d a b : Fin 16) | xaddi (d a : Fin 16) (imm : BitVec 28)
  | xsub (d a b : Fin 16) | xmul (d a b : Fin 16) | xshl (d a : Fin 16) (n : Fin 64) | xshr (d a : Fin 16) (n : Fin 64)
  | xand (d a b : Fin 16) | xb (disp : BitVec 32) | xbne (a b : Fin 16) (disp : BitVec 32)
  | xblt (a b : Fin 16) (disp : BitVec 32) | xloop (a : Fin 16) (disp : BitVec 32)
  | ald (o : AsArgs) | alds (o : AsArgs) | aldg (o : AsArgs) | ast (o : AsArgs) | asts (o : AsArgs) | astg (o : AsArgs)
  | apf (base : Fin 16) (size : Size) (mode : CacheMode) (count : BitVec 12) | apmld (o : AsArgs)
  | qget (d : Fin 16) (q : Queue)
  -- vector engine (R43)
  | vadd (d a b : Fin 32) (o : VMod) | vsub (d a b : Fin 32) (o : VMod) | vmul (d a b : Fin 32) (o : VMod)
  | vfma (d a b c : Fin 32) (o : VMod) | vmin (d a b : Fin 32) (o : VMod) | vmax (d a b : Fin 32) (o : VMod)
  | vabs (d a : Fin 32) (o : VMod) | vneg (d a : Fin 32) (o : VMod)
  | vand (d a b : Fin 32) (m : Bool) | vor (d a b : Fin 32) (m : Bool) | vxor (d a b : Fin 32) (m : Bool)
  | vshl (d a b : Fin 32) (t : Fmt) (m : Bool) | vshr (d a b : Fin 32) (t : Fmt) (m : Bool)
  | vsra (d a b : Fin 32) (t : Fmt) (m : Bool)
  | vcmp (a b : Fin 32) (cond : VCond) (t : Fmt) (fzi m : Bool) | vsel (d a b : Fin 32)
  | vcvt (d a : Fin 32) (src : Fmt) (o : VMod) | vunpk3 (d a : Fin 32) (m : Bool)
  | vtacc (d a b : Fin 32) (sat m : Bool) | vdot4 (d a b : Fin 32) (t : Fmt) (sat m : Bool)
  | vredadd (d : Fin 16) (a : Fin 32) (o : VMod) | vredmax (d : Fin 16) (a : Fin 32) (o : VMod)
  | vredmin (d : Fin 16) (a : Fin 32) (o : VMod)
  | vexp2 (d a : Fin 32) (o : VMod) | vrcp (d a : Fin 32) (o : VMod) | vrsq (d a : Fin 32) (o : VMod)
  | vperm (d a b : Fin 32) (t : Fmt) (m : Bool) | vbcast (d : Fin 32) (a : Fin 16) (t : Fmt) (m : Bool)
  | vext (d : Fin 16) (a : Fin 32) (t : Fmt) (idx : BitVec 24)
  | vslide (d a : Fin 32) (t : Fmt) (m : Bool) (s : BitVec 24)
  | vqget (v : Fin 32) (q : Queue) | vqput (v : Fin 32) (q : Queue)
  | mpush (a : Fin 16) | minv | mpop | bmskip (disp : BitVec 36)
  | sldi (d : Fin 16) (imm : BitVec 24) | sadd (d a b : Fin 16) | smul (d a b : Fin 16)
  | vloop (e : Fin 16) (disp : BitVec 36) | vb (disp : BitVec 36)
  -- matrix engine (R44)
  | seamb | seame | mldw (b tab : Fin 16) (k : Fin 64) | mlds (b tab : Fin 16) (k : Fin 64) (r : Bool)
  | mma (z : Fin 4) (a : AOp) (tab : Fin 16) (k : Fin 64) (r : Bool)
  | mmag (z : Fin 4) (a : AOp) (tab : Fin 16) (k : Fin 64) (r : Bool)
  | mzero (z : Fin 4) | mstz (z : Fin 4) (a : Fin 16) (r : Bool) | mstq (z : Fin 4) | mldz (z : Fin 4) (a : Fin 16)
  | mwpf (b : Fin 16) (k : Fin 64) | mtok (d : Fin 16)
  | stclr | stin (a : Fin 16) (batch : Fin 64) | sthdr (b : Fin 16) | steval (a b : Fin 16)
  | stout (z : Fin 4) (kind : Fin 64) (tab : Fin 16) | ststat (d : Fin 16) (n : Fin 3)
  | mldi (d : Fin 16) (imm : BitVec 32) | maddi (d a : Fin 16) (imm : BitVec 32) | mqget (d : Fin 16) (q : Queue)
  | mloop (a : Fin 16) (disp : BitVec 32) | mbnz (a : Fin 16) (disp : BitVec 32)
  -- copy engine (R45)
  | dcopy (o : DcArgs) | dfill (o : DcArgs) | dgath (o : DcArgs) | dpfa (o : DcArgs)
  | dbtw (o : DcArgs) | dbtr (o : DcArgs) | dbtsh (o : DcArgs) | dbtfree (o : DcArgs)
  | dxfer (o : DcArgs) | dcoll (o : DcArgs)
  | dldi (d : Fin 16) (imm : BitVec 32) | daddi (d a : Fin 16) (imm : BitVec 32) | dqget (d : Fin 16) (q : Queue)
  | dloop (a : Fin 16) (disp : BitVec 32) | dbnz (a : Fin 16) (disp : BitVec 32)
  -- MTS to the special registers that have a row of their own
  | winptrWrite (a : CReg) | spillbaseWrite (a : CReg) | spilllimWrite (a : CReg) | vstatWrite (a : CReg)
  | tokmaxWrite (a : CReg) | tickperWrite (a : CReg)
  -- an opcode with no entry in the engine's map (R39)
  | unassignedOpcode (op : BitVec 8) (operands : BitVec 40)
  -- events: their inputs stand in `State.cur` (see `EventIn`)
  | pmAllocate | poolLineReturn | pmpool | sigxDelivery | tickEdge | weightUpdate | wprogComplete | wpfail
  | backgroundSaveDone | zscrubComplete | bankscrub | streamBlockRequest | seamRelocate | slotFill | slotFillDone
  | kstepStart | kstepApply | stitchRuleEval | xferSlotOpen | xferDataArrival | abortFlit | copyComplete
  | windowSpill | windowSpillDone | windowFill | windowFillDone | trapDiversion | jobRetire | schedRoundStart
  | tokenRefill | tokrateUpdate | thermalShutdown | thermalRecovery | stage2Answer | integNodeFailure | integReport
  | nopPacket | launch | launchPlace | shadowLoaded | graph | graphNodeComplete | slotQuantum | qdoorWrite
  | qdoorxWrite | qdescWrite | qpageWrite | fwctlGo | fwctlUpdate | liveUpdateTakeover | partitionDescWrite
  | vfDescWrite | regionDescWrite | pfWindowWrite | vfResetRequest | flr | vfReset | slotReclaim | partitionResize
  | powerUp | startUp | powerLoss | getMeasurements | packageKeyExport | migrationTransfer | migrationErase
  | migrationConfirm | migrationLost | accessPerformed | bankOperationDone
deriving DecidableEq, Repr, Inhabited

end Sys2Proof
end

