-- ==== Sys2Proof/WellFormed.lean ====
section
/-! DEFINITION. Which instructions an encoding exists for: the checks of R25 steps 1 and 3 (R31 to R38, R40 to R46, R107)
read as conditions on the syntax. An instruction is well formed for one engine. -/
namespace Sys2Proof

/-- The engine a scalar register belongs to. -/
def SReg.engine : SReg → Engine
  | .c _ => .c | .x _ => .a | .e _ => .v | .h _ => .m | .d _ => .d

/-- Element widths in bits of the formats a vector word may name (R54, R76); TRIT5 counts its byte. -/
def Fmt.width : Fmt → Nat
  | .t6e0 | .t6e1 | .t6e0b | .t6e1b => 6
  | .t8e0 | .t8e1 | .t8e2 | .t8e1b | .t8e2b | .e4 | .e5 | .i8 | .n8 | .i8b | .trit5 => 8
  | .t16e1 | .t16e2 | .bf16 | .fp16 | .i16 | .n16 => 16
  | .fp32 | .i32 => 32
  | .bin => 1 | .trit2 => 2 | .i4 | .n4 | .i4b => 4

/-- The types of R209: the formats with vector arithmetic and reductions (R76). -/
def Fmt.isVArith : Fmt → Bool
  | .fp32 | .i32 | .bf16 | .fp16 | .i16 | .n16 | .i8 | .n8 => true | _ => false
/-- The formats the VCVT column of R76 marks yes. -/
def Fmt.isVCvt : Fmt → Bool
  | .e4 | .e5 | .t8e0 | .t8e1 | .t8e2 | .t16e1 | .t16e2 | .i4 | .n4 => true | f => f.isVArith
/-- The integer formats of R76 without the 4-bit ones. -/
def Fmt.isVInt : Fmt → Bool | .i32 | .i16 | .n16 | .i8 | .n8 => true | _ => false
/-- The types of R211. -/
def Fmt.isVFloat : Fmt → Bool | .fp32 | .bf16 | .fp16 => true | _ => false
/-- The types of R220: formats of R76 with a width of 8, 16 or 32 (TRIT5 is for VUNPK3 only). -/
def Fmt.isVMove (f : Fmt) : Bool := f.isVCvt && (f.width == 8 || f.width == 16 || f.width == 32)

/-- Queue codes 14 and 15 have no constructor; every queue is encodable. -/
def CaArgs.scopeOk (o : CaArgs) : Bool := o.acq || o.rel || o.scope == .stream
/-- AMO sizes are 4 and 8 bytes (R197). -/
def CaArgs.amoOk (o : CaArgs) : Bool := o.scopeOk && (o.size == .b4 || o.size == .b8)
/-- AFADD sizes are 2 and 4 bytes (R199). -/
def CaArgs.afaddOk (o : CaArgs) : Bool := o.scopeOk && (o.size == .b2 || o.size == .b4)
/-- X = 1 with size 3 raises ILLEGAL, and so does X = 1 in a store (R34). -/
def CmArgs.loadOk (o : CmArgs) : Bool := !(o.x && o.size == .b8)
/-- The scope field of form AS is a zero-field when acquire and release are both 0 (R154). -/
def AsArgs.scopeOk (o : AsArgs) : Bool := o.acq || o.rel || o.scope == .stream
/-- Form AS without aux: ALD and AST (R35). -/
def AsArgs.plainOk (o : AsArgs) : Bool := o.scopeOk && o.aux == 0
/-- k-steps of 1 to 63 (R37). -/
def kOk (k : Fin 64) : Bool := k != 0
/-- The registers that no level may write, and those whose MTS is a row of its own, are no MTS (R46, R103). -/
def SpecialReg.mtsOk : SpecialReg → Bool
  | .seatid | .coreid | .clustid | .dieid | .vfid | .compart | .tagbits | .tickno | .timebase | .tokrate | .tokens
  | .cring | .aring | .vring | .mring | .dring => false
  | .winptr | .spillbase | .spilllim | .vstat | .tokmax | .tickper => false
  | _ => true
/-- ERRPOP's d is an even register code (R331). -/
def CReg.isEven : CReg → Bool
  | .k i | .p i | .q i => i.val % 2 == 0 | .l i => i.val % 2 == 0 | .zr => false
/-- A signed field of n bits. -/
def fitsS (n : Nat) (i : Int) : Bool := -(2 ^ (n - 1) : Int) ≤ i && i < (2 ^ (n - 1) : Int)
/-- SK with WK and SN, WN are always encodable in an `Ann`. BQBR's displacement is 32 bits in A and 36 in V (R40). -/
def bqbrOk (e : Engine) (disp : Int) : Bool :=
  match e with | .a => fitsS 32 disp | .v => fitsS 36 disp | _ => false
/-- The opcodes each engine's map assigns (R40 to R45). -/
def opAssigned (e : Engine) (op : Nat) : Bool :=
  let shared := op == 0 || (0xC0 ≤ op && op ≤ 0xC8) || op == 0xFE
  let tags := 0xD0 ≤ op && op ≤ 0xD3
  match e with
  | .c => shared || tags || op == 0xC9 || op == 0xCB || op == 0xCC || (1 ≤ op && op ≤ 0x21) || (0x28 ≤ op && op ≤ 0x2E)
      || (0x30 ≤ op && op ≤ 0x33) || (0x38 ≤ op && op ≤ 0x3A) || (0x40 ≤ op && op ≤ 0x46) || op == 0x49 || op == 0x4A
      || (0x50 ≤ op && op ≤ 0x5A) || (0x60 ≤ op && op ≤ 0x64) || (0x70 ≤ op && op ≤ 0x75) || op == 0x88 || op == 0x89
      || (0x90 ≤ op && op ≤ 0x94) || (0xA0 ≤ op && op ≤ 0xAA) || (0xB0 ≤ op && op ≤ 0xB3)
  | .a => shared || tags || (0xC9 ≤ op && op ≤ 0xCC) || (1 ≤ op && op ≤ 8) || (0x10 ≤ op && op ≤ 0x13)
      || (0x20 ≤ op && op ≤ 0x28)
  | .v => shared || tags || op == 0xC9 || op == 0xCA || (1 ≤ op && op ≤ 8) || (0x10 ≤ op && op ≤ 0x15)
      || (0x18 ≤ op && op ≤ 0x1A) || (0x20 ≤ op && op ≤ 0x22) || (0x28 ≤ op && op ≤ 0x2A) || (0x30 ≤ op && op ≤ 0x32)
      || (0x38 ≤ op && op ≤ 0x3D) || (0x40 ≤ op && op ≤ 0x43) || (0x48 ≤ op && op ≤ 0x4C)
  | .m => shared || tags || op == 1 || op == 2 || (8 ≤ op && op ≤ 0x11) || (0x20 ≤ op && op ≤ 0x25) || (0x30 ≤ op && op ≤ 0x34)
  | .d => shared || op == 0xCB || op == 0xCC || (1 ≤ op && op ≤ 4) || (8 ≤ op && op ≤ 0xB) || op == 0x10 || op == 0x11
      || (0x20 ≤ op && op ≤ 0x24)

/-- The engines that have an instruction (R40 to R45); none of them has an event. -/
def Instr.inEngine (e : Engine) : Instr → Bool
  | .nop | .sigset _ | .sigclr _ | .sigwait _ | .rdv | .fence _ _ | .brk _ => true
  | .qcnt d _ => d.engine == e
  | .join a | .leave a | .gbar a => a.engine == e
  | .bqput a => a.engine == e && (e == .c || e == .a || e == .v)
  | .bqbr _ => e == .a || e == .v
  | .pmset a | .pmget a => a.engine == e && (e == .c || e == .a || e == .d)
  | .twany a | .twall a | .tclr a => a.engine == e && e != .d
  | .tffr d a => d.engine == e && a.engine == e && e != .d
  | .unassignedOpcode op _ => !opAssigned e op.toNat
  | .xldi .. | .xadd .. | .xaddi .. | .xsub .. | .xmul .. | .xshl .. | .xshr .. | .xand .. | .xb .. | .xbne .. | .xblt ..
  | .xloop .. | .ald .. | .alds .. | .aldg .. | .ast .. | .asts .. | .astg .. | .apf .. | .apmld .. | .qget .. => e == .a
  | .vadd .. | .vsub .. | .vmul .. | .vfma .. | .vmin .. | .vmax .. | .vabs .. | .vneg .. | .vand .. | .vor .. | .vxor ..
  | .vshl .. | .vshr .. | .vsra .. | .vcmp .. | .vsel .. | .vcvt .. | .vunpk3 .. | .vtacc .. | .vdot4 .. | .vredadd ..
  | .vredmax .. | .vredmin .. | .vexp2 .. | .vrcp .. | .vrsq .. | .vperm .. | .vbcast .. | .vext .. | .vslide ..
  | .vqget .. | .vqput .. | .mpush .. | .minv | .mpop | .bmskip .. | .sldi .. | .sadd .. | .smul .. | .vloop ..
  | .vb .. => e == .v
  | .seamb | .seame | .mldw .. | .mlds .. | .mma .. | .mmag .. | .mzero .. | .mstz .. | .mstq .. | .mldz .. | .mwpf ..
  | .mtok .. | .stclr | .stin .. | .sthdr .. | .steval .. | .stout .. | .ststat .. | .mldi .. | .maddi .. | .mqget ..
  | .mloop .. | .mbnz .. => e == .m
  | .dcopy .. | .dfill .. | .dgath .. | .dpfa .. | .dbtw .. | .dbtr .. | .dbtsh .. | .dbtfree .. | .dxfer .. | .dcoll ..
  | .dldi .. | .daddi .. | .dqget .. | .dloop .. | .dbnz .. => e == .d
  | .pmAllocate | .poolLineReturn | .pmpool | .sigxDelivery | .tickEdge | .weightUpdate | .wprogComplete | .wpfail
  | .backgroundSaveDone | .zscrubComplete | .bankscrub | .streamBlockRequest | .seamRelocate | .slotFill
  | .slotFillDone | .kstepStart | .kstepApply | .stitchRuleEval | .xferSlotOpen | .xferDataArrival | .abortFlit
  | .copyComplete | .windowSpill | .windowSpillDone | .windowFill | .windowFillDone | .trapDiversion | .jobRetire
  | .schedRoundStart | .tokenRefill | .tokrateUpdate | .thermalShutdown | .thermalRecovery | .stage2Answer
  | .integNodeFailure | .integReport | .nopPacket | .launch | .launchPlace | .shadowLoaded | .graph
  | .graphNodeComplete | .slotQuantum | .qdoorWrite | .qdoorxWrite | .qdescWrite | .qpageWrite | .fwctlGo
  | .fwctlUpdate | .liveUpdateTakeover | .partitionDescWrite | .vfDescWrite | .regionDescWrite | .pfWindowWrite
  | .vfResetRequest | .flr | .vfReset | .slotReclaim | .partitionResize | .powerUp | .startUp | .powerLoss
  | .getMeasurements | .packageKeyExport | .migrationTransfer | .migrationErase | .migrationConfirm
  | .migrationLost | .accessPerformed | .bankOperationDone => false
  | _ => e == .c

/-- The operand checks of R25 step 3 that the operand types do not already make. -/
def Instr.operandsOk (e : Engine) : Instr → Bool
  | .fence _ kinds => kinds != 0
  | .bqbr disp => bqbrOk e disp
  | .mts r _ => r.mtsOk
  | .ld o | .sld o | .wld o => o.loadOk
  | .st o | .sst o | .wst o => !o.x
  | .lda o => !(o.x && o.size == .b8)
  | .stl o => !o.x
  | .amoadd o | .amoand o | .amoor o | .amoxor o | .amomin o | .amomax o | .amominn o | .amomaxn o | .amoswp o
  | .amocas o _ => o.amoOk
  | .afadd o => o.afaddOk
  | .errpop d => d.isEven
  | .ald o | .ast o => o.plainOk
  | .alds o | .aldg o | .asts o | .astg o | .apmld o => o.scopeOk
  | .vadd _ _ _ o | .vsub _ _ _ o | .vmul _ _ _ o | .vfma _ _ _ _ o | .vmin _ _ _ o | .vmax _ _ _ o
  | .vabs _ _ o | .vneg _ _ o | .vredadd _ _ o | .vredmax _ _ o | .vredmin _ _ o => o.type.isVArith
  | .vexp2 _ _ o | .vrcp _ _ o | .vrsq _ _ o => o.type.isVFloat
  | .vshl _ _ _ t _ | .vshr _ _ _ t _ | .vsra _ _ _ t _ => t.isVInt
  | .vcmp _ _ cond t _ _ => t.isVArith && !(cond == .uo && t.isVInt)
  | .vcvt _ _ src o => src.isVCvt && o.type.isVCvt
  | .vdot4 _ _ _ t _ _ => t == .i8 || t == .n8
  | .vperm _ _ _ t _ | .vbcast _ _ t _ | .vext _ _ t _ | .vslide _ _ t _ _ => t.isVMove
  | .vqget v q => q != .cv0 || v.val < 16
  | .mldw _ _ k | .mlds _ _ k _ | .mma _ _ _ k _ | .mmag _ _ _ k _ | .mwpf _ k => kOk k
  | .stin _ batch => 1 ≤ batch.val && batch.val ≤ 8
  | .stout z kind tab => (kind == 0 && tab == 0) || (kind == 1 && z == 0)
  | .dpfa o => !o.acq && !o.rel
  | .dbtfree o => o.src == 0
  | _ => true

/-- An instruction that has a word in engine `e` (R24 to R46). -/
def wf (e : Engine) (i : Instr) : Bool := i.inEngine e && i.operandsOk e

end Sys2Proof
end

