-- ==== Sys2Proof/Decode.lean ====
section
/-! DEFINITION. Decoding and encoding of instruction words (spec/02_encoding.md R24, R25 steps 1 to 3, R31 to R46, R107).
`decode` is total on every word of every engine and rejects by name; `encode` is written from the same encoding tables. -/
namespace Sys2Proof

/-- Why a word is not an instruction: the checks of R25 that fail. Each raises ILLEGAL with TRAPADDR 0 (R318). -/
inductive DecodeError where
  | waitSignal    -- R25 step 1: SK = 11, or WN or SN nonzero with its kind 00
  | zeroField     -- R5, R25 step 3
  | register      -- a reserved register code (R31)
  | code          -- a reserved size, scope, queue, format, rounding, condition, count or mode code
  | specialReg    -- an unknown special-register number, or an MTS to a register that no level may write (R46, R103)
deriving DecidableEq, Repr, Inhabited

/-- The result of decoding a piece of a word. -/
abbrev Dec (α : Type) := Except DecodeError α

/-- The n bits of `w` from bit `lo` up. -/
def fld (w lo n : Nat) : Nat := w / 2 ^ lo % 2 ^ n
/-- A bit. -/
def flag (w i : Nat) : Bool := w / 2 ^ i % 2 == 1
/-- A zero-field (R5). -/
def zero (n : Nat) : Dec Unit := if n = 0 then .ok () else .error .zeroField
/-- One bit as a number. -/
def b2n (b : Bool) : Nat := if b then 1 else 0

/-! ## Codes of operands -/

/-- C register code (R31). -/
def CReg.code : CReg → Nat
  | .k i => i | .p i => 8 + i | .l i => 16 + i | .q i => 32 + i | .zr => 63
/-- C register of a 6-bit code (R31). -/
def creg (n : Nat) : Dec CReg :=
  if h : n < 8 then .ok (.k ⟨n, h⟩)
  else if h : n < 16 then .ok (.p ⟨n - 8, by omega⟩)
  else if h : n < 32 then .ok (.l ⟨n - 16, by omega⟩)
  else if h : n < 40 then .ok (.q ⟨n - 32, by omega⟩)
  else if n = 63 then .ok .zr else .error .register
/-- A 4-bit register code. -/
def r4 (n : Nat) : Fin 16 := Fin.ofNat 16 n
/-- A 5-bit V register code. -/
def r5 (n : Nat) : Fin 32 := Fin.ofNat 32 n
/-- An e register in a 5-bit field (R31). -/
def ereg (n : Nat) : Dec (Fin 16) := if h : n < 16 then .ok ⟨n, h⟩ else .error .register
/-- A 6-bit number. -/
def r6 (n : Nat) : Fin 64 := Fin.ofNat 64 n

/-- Queue codes (R32). -/
def Queue.code : Queue → Nat
  | .av i => i | .am i => 4 + i | .va0 => 6 | .mv0 => 7 | .ca0 => 8 | .cv0 => 9 | .cm0 => 10 | .cd0 => 11
  | .bq => 12 | .fq => 13
def queueOf (n : Nat) : Dec Queue :=
  match n with
  | 0 => .ok (.av 0) | 1 => .ok (.av 1) | 2 => .ok (.av 2) | 3 => .ok (.av 3)
  | 4 => .ok (.am 0) | 5 => .ok (.am 1) | 6 => .ok .va0 | 7 => .ok .mv0
  | 8 => .ok .ca0 | 9 => .ok .cv0 | 10 => .ok .cm0 | 11 => .ok .cd0 | 12 => .ok .bq | 13 => .ok .fq
  | _ => .error .code

/-- Scope codes (R33). -/
def Scope.code : Scope → Nat
  | .stream => 0 | .seat => 1 | .core => 2 | .cluster => 3 | .die => 4 | .package => 5 | .system => 6
def scopeOf (n : Nat) : Dec Scope :=
  match n with
  | 0 => .ok .stream | 1 => .ok .seat | 2 => .ok .core | 3 => .ok .cluster | 4 => .ok .die | 5 => .ok .package
  | 6 => .ok .system | _ => .error .code

/-- Access-size codes (R33). -/
def Size.code : Size → Nat | .b1 => 0 | .b2 => 1 | .b4 => 2 | .b8 => 3
def sizeOf (n : Nat) : Dec Size :=
  match n with | 0 => .ok .b1 | 1 => .ok .b2 | 2 => .ok .b4 | 3 => .ok .b8 | _ => .error .code
/-- Bytes of an access size. -/
def Size.bytes : Size → Nat | .b1 => 1 | .b2 => 2 | .b4 => 4 | .b8 => 8

/-- Format codes (R54). -/
def Fmt.code : Fmt → Nat
  | .t6e0 => 0 | .t6e1 => 1 | .t6e0b => 2 | .t6e1b => 3 | .t8e0 => 4 | .t8e1 => 5 | .t8e2 => 6 | .t8e1b => 7
  | .t8e2b => 8 | .t16e1 => 9 | .t16e2 => 10 | .bf16 => 11 | .fp16 => 12 | .fp32 => 13 | .e4 => 14 | .e5 => 15
  | .bin => 16 | .trit5 => 17 | .trit2 => 18 | .i4 => 19 | .n4 => 20 | .i4b => 21 | .i8 => 22 | .n8 => 23
  | .i8b => 24 | .i16 => 25 | .n16 => 26 | .i32 => 27
/-- The formats in code order (R54). -/
def Fmt.all : List Fmt :=
  [.t6e0, .t6e1, .t6e0b, .t6e1b, .t8e0, .t8e1, .t8e2, .t8e1b, .t8e2b, .t16e1, .t16e2, .bf16, .fp16, .fp32, .e4, .e5,
   .bin, .trit5, .trit2, .i4, .n4, .i4b, .i8, .n8, .i8b, .i16, .n16, .i32]
def fmtOf (n : Nat) : Dec Fmt := match Fmt.all[n]? with | some f => .ok f | none => .error .code

/-- Rounding codes (R66). -/
def Rnd.code : Rnd → Nat | .rne => 0 | .rtz => 1 | .up => 2 | .down => 3 | .rna => 4
def rndOf (n : Nat) : Dec Rnd :=
  match n with
  | 0 => .ok .rne | 1 => .ok .rtz | 2 => .ok .up | 3 => .ok .down | 4 => .ok .rna | _ => .error .code

/-- Condition codes of VCMP (R43). -/
def VCond.code : VCond → Nat | .eq => 0 | .ne => 1 | .lt => 2 | .le => 3 | .uo => 4
def vcondOf (n : Nat) : Dec VCond :=
  match n with
  | 0 => .ok .eq | 1 => .ok .ne | 2 => .ok .lt | 3 => .ok .le | 4 => .ok .uo | _ => .error .code

/-- Cache-mode codes (R35). -/
def CacheMode.code : CacheMode → Nat | .normal => 0 | .stream => 1 | .keep => 2
def modeOf (n : Nat) : Dec CacheMode :=
  match n with | 0 => .ok .normal | 1 => .ok .stream | 2 => .ok .keep | _ => .error .code

/-- Special-register numbers (R46). -/
def SpecialReg.code : SpecialReg → Nat
  | .trapc => 0 | .trapnpc => 1 | .trapcause => 2 | .trapaddr => 3 | .trapstrm => 4 | .trapfl => 5
  | .seatid => 0x10 | .coreid => 0x11 | .clustid => 0x12 | .dieid => 0x13 | .vfid => 0x14 | .compart => 0x15
  | .pm => 0x20 | .pmwaitlim => 0x21 | .spmode => 0x30 | .spillbase => 0x31 | .spilllim => 0x32 | .winptr => 0x33
  | .vctl => 0x40 | .vstat => 0x41 | .mstat => 0x42 | .tagbits => 0x50 | .tickno => 0x60 | .timebase => 0x61
  | .tickper => 0x62 | .tokmax => 0x70 | .tokrate => 0x71 | .tokens => 0x72 | .blst => 0x80 | .rlo => 0x90
  | .rhi => 0x91 | .cring => 0xA0 | .aring => 0xA1 | .vring => 0xA2 | .mring => 0xA3 | .dring => 0xA4
def specialOf (n : Nat) : Dec SpecialReg :=
  match n with
  | 0 => .ok .trapc | 1 => .ok .trapnpc | 2 => .ok .trapcause | 3 => .ok .trapaddr | 4 => .ok .trapstrm | 5 => .ok .trapfl
  | 0x10 => .ok .seatid | 0x11 => .ok .coreid | 0x12 => .ok .clustid | 0x13 => .ok .dieid | 0x14 => .ok .vfid
  | 0x15 => .ok .compart | 0x20 => .ok .pm | 0x21 => .ok .pmwaitlim | 0x30 => .ok .spmode | 0x31 => .ok .spillbase
  | 0x32 => .ok .spilllim | 0x33 => .ok .winptr | 0x40 => .ok .vctl | 0x41 => .ok .vstat | 0x42 => .ok .mstat
  | 0x50 => .ok .tagbits | 0x60 => .ok .tickno | 0x61 => .ok .timebase | 0x62 => .ok .tickper | 0x70 => .ok .tokmax
  | 0x71 => .ok .tokrate | 0x72 => .ok .tokens | 0x80 => .ok .blst | 0x90 => .ok .rlo | 0x91 => .ok .rhi
  | 0xA0 => .ok .cring | 0xA1 => .ok .aring | 0xA2 => .ok .vring | 0xA3 => .ok .mring | 0xA4 => .ok .dring
  | _ => .error .specialReg

/-- Register number of a scalar register, and its engine's register of a number. -/
def SReg.code : SReg → Nat
  | .c r => r.code | .x r | .e r | .h r | .d r => r

/-! ## The wait and signal bytes (R24, R25 step 1) -/

def annOf (w : Nat) : Dec Ann :=
  let wn := r6 (fld w 56 6)
  let sn := r6 (fld w 48 6)
  match fld w 62 2, fld w 54 2 with
  | _, 3 => .error .waitSignal
  | wk, sk =>
    if (wk = 0 ∧ wn ≠ 0) ∨ (sk = 0 ∧ sn ≠ 0) then .error .waitSignal
    else .ok ⟨match wk with | 0 => .none | 1 => .clr wn | 2 => .keep wn | _ => .tag wn,
              match sk with | 0 => .none | 1 => .issue sn | _ => .done sn⟩

/-- WK:WN as 8 bits. -/
def Wait.code : Wait → Nat | .none => 0 | .clr n => 64 + n | .keep n => 128 + n | .tag n => 192 + n
/-- SK:SN as 8 bits. -/
def Sig.code : Sig → Nat | .none => 0 | .issue n => 64 + n | .done n => 128 + n
def Ann.code (a : Ann) : Nat := a.wait.code * 256 + a.sig.code

/-! ## The formats: one decoder and one encoder of the low 40 bits each (R34 to R38, R40, R107) -/

-- C engine (R34)
def decCR (k : CReg → CReg → CReg → CReg → Dec Instr) (o : Nat) : Dec Instr := do
  let d ← creg (fld o 34 6); let a ← creg (fld o 28 6); let b ← creg (fld o 22 6); let c ← creg (fld o 16 6)
  zero (fld o 0 16); k d a b c
def encCR (d a b c : Nat) : Nat := d * 2 ^ 34 + a * 2 ^ 28 + b * 2 ^ 22 + c * 2 ^ 16
def decCR3 (k : CReg → CReg → CReg → Instr) (o : Nat) : Dec Instr := do
  let d ← creg (fld o 34 6); let a ← creg (fld o 28 6); let b ← creg (fld o 22 6); zero (fld o 0 22); .ok (k d a b)
def decCRda (k : CReg → CReg → Instr) (o : Nat) : Dec Instr := do
  let d ← creg (fld o 34 6); let a ← creg (fld o 28 6); zero (fld o 0 28); .ok (k d a)
def decCRab (k : CReg → CReg → Instr) (o : Nat) : Dec Instr := do
  let a ← creg (fld o 28 6); let b ← creg (fld o 22 6); zero (fld o 34 6); zero (fld o 0 22); .ok (k a b)
def decCRa (k : CReg → Instr) (o : Nat) : Dec Instr := do
  let a ← creg (fld o 28 6); zero (fld o 34 6); zero (fld o 0 28); .ok (k a)
def decCRd (k : CReg → Instr) (o : Nat) : Dec Instr := do
  let d ← creg (fld o 34 6); zero (fld o 0 34); .ok (k d)
def dec0 (i : Instr) (o : Nat) : Dec Instr := do zero (fld o 0 40); .ok i
def decCI (k : CReg → CReg → BitVec 28 → Instr) (o : Nat) : Dec Instr := do
  let d ← creg (fld o 34 6); let a ← creg (fld o 28 6); .ok (k d a (BitVec.ofNat 28 (fld o 0 28)))
def decCIsh (k : CReg → CReg → Fin 64 → Instr) (o : Nat) : Dec Instr := do
  let d ← creg (fld o 34 6); let a ← creg (fld o 28 6); zero (fld o 6 22); .ok (k d a (r6 (fld o 0 6)))
def encCI (d a imm : Nat) : Nat := d * 2 ^ 34 + a * 2 ^ 28 + imm
def decCIaScope (k : CReg → Scope → Instr) (o : Nat) : Dec Instr := do
  let a ← creg (fld o 28 6); let s ← scopeOf (fld o 0 3); zero (fld o 34 6); zero (fld o 3 25); .ok (k a s)
def decCIaN (k : CReg → Fin 64 → Instr) (o : Nat) : Dec Instr := do
  let a ← creg (fld o 28 6); zero (fld o 34 6); zero (fld o 6 22); .ok (k a (r6 (fld o 0 6)))
def decCIaQ (k : CReg → Queue → Instr) (o : Nat) : Dec Instr := do
  let a ← creg (fld o 28 6); let q ← queueOf (fld o 0 4); zero (fld o 34 6); zero (fld o 4 24); .ok (k a q)
def decTrap (o : Nat) : Dec Instr := do zero (fld o 16 24); .ok (.trap (BitVec.ofNat 16 (fld o 0 16)))
def decRte (o : Nat) : Dec Instr := do zero (fld o 3 37); .ok (.rte (Fin.ofNat 8 (fld o 0 3)))
def decCB (k : CReg → CReg → BitVec 28 → Instr) (o : Nat) : Dec Instr := do
  let a ← creg (fld o 34 6); let b ← creg (fld o 28 6); .ok (k a b (BitVec.ofNat 28 (fld o 0 28)))
def decCB0 (k : BitVec 28 → Instr) (o : Nat) : Dec Instr := do
  zero (fld o 28 12); .ok (k (BitVec.ofNat 28 (fld o 0 28)))
def decLdi (o : Nat) : Dec Instr := do
  let d ← creg (fld o 34 6); .ok (.ldi d (BitVec.ofNat 34 (fld o 0 34)))
def decLdih (o : Nat) : Dec Instr := do
  let d ← creg (fld o 34 6); zero (fld o 32 2); .ok (.ldih d (BitVec.ofNat 32 (fld o 0 32)))
def decMfs (o : Nat) : Dec Instr := do
  let d ← creg (fld o 34 6); let r ← specialOf (fld o 16 12); zero (fld o 28 6); zero (fld o 0 16); .ok (.mfs d r)
def mtsOf (r : SpecialReg) (a : CReg) : Dec Instr :=
  match r with
  | .winptr => .ok (.winptrWrite a) | .spillbase => .ok (.spillbaseWrite a) | .spilllim => .ok (.spilllimWrite a)
  | .vstat => .ok (.vstatWrite a) | .tokmax => .ok (.tokmaxWrite a) | .tickper => .ok (.tickperWrite a)
  | r => if r.mtsOk then .ok (.mts r a) else .error .specialReg
def decMts (o : Nat) : Dec Instr := do
  let a ← creg (fld o 28 6); let r ← specialOf (fld o 16 12); zero (fld o 34 6); zero (fld o 0 16); mtsOf r a
def encCS (d a n : Nat) : Nat := d * 2 ^ 34 + a * 2 ^ 28 + n * 2 ^ 16
def decCM (load : Bool) (k : CmArgs → Instr) (o : Nat) : Dec Instr := do
  let d ← creg (fld o 34 6); let a ← creg (fld o 28 6); let s ← sizeOf (fld o 25 3)
  let x := flag o 24
  if x && (!load || s == .b8) then .error .code else .ok (k ⟨d, a, s, x, BitVec.ofNat 24 (fld o 0 24)⟩)
def encCM (o : CmArgs) : Nat :=
  o.d.code * 2 ^ 34 + o.a.code * 2 ^ 28 + o.size.code * 2 ^ 25 + b2n o.x * 2 ^ 24 + o.disp.toNat
def decCN (load : Bool) (k : CnArgs → Instr) (o : Nat) : Dec Instr := do
  let d ← creg (fld o 34 6); let a ← creg (fld o 28 6); let s ← sizeOf (fld o 25 3); let sc ← scopeOf (fld o 21 3)
  let x := flag o 24
  if x && (!load || s == .b8) then .error .code else .ok (k ⟨d, a, s, x, sc, BitVec.ofNat 21 (fld o 0 21)⟩)
def encCN (o : CnArgs) : Nat :=
  o.d.code * 2 ^ 34 + o.a.code * 2 ^ 28 + o.size.code * 2 ^ 25 + b2n o.x * 2 ^ 24 + o.scope.code * 2 ^ 21 + o.disp.toNat
def decCA (ok : CaArgs → Bool) (k : CaArgs → CReg → Instr) (useC : Bool) (o : Nat) : Dec Instr := do
  let d ← creg (fld o 34 6); let a ← creg (fld o 28 6); let b ← creg (fld o 22 6)
  let c ← if useC then creg (fld o 16 6) else (do zero (fld o 16 6); .ok .zr)
  let sc ← scopeOf (fld o 13 3); let s ← sizeOf (fld o 9 2); zero (fld o 0 9)
  let args : CaArgs := ⟨d, a, b, sc, flag o 12, flag o 11, s⟩
  if ok args then .ok (k args c) else .error .code
def encCA (o : CaArgs) (c : Nat) : Nat :=
  o.d.code * 2 ^ 34 + o.a.code * 2 ^ 28 + o.b.code * 2 ^ 22 + c * 2 ^ 16 + o.scope.code * 2 ^ 13
    + b2n o.acq * 2 ^ 12 + b2n o.rel * 2 ^ 11 + o.size.code * 2 ^ 9
def decWprog (o : Nat) : Dec Instr := do
  let a ← creg (fld o 28 6); let b ← creg (fld o 22 6); zero (fld o 34 6); zero (fld o 0 16)
  .ok (.wprog a b (r6 (fld o 16 6)))
def decErrpop (o : Nat) : Dec Instr := do
  let d ← creg (fld o 34 6); zero (fld o 0 34); if d.isEven then .ok (.errpop d) else .error .register

-- AX, AB (R35) and MX, DX (R37, R38): d [39:36], a [35:32]
def decAX3 (k : Fin 16 → Fin 16 → Fin 16 → Instr) (o : Nat) : Dec Instr := do
  zero (fld o 0 28); .ok (k (r4 (fld o 36 4)) (r4 (fld o 32 4)) (r4 (fld o 28 4)))
def encAX (d a b imm : Nat) : Nat := d * 2 ^ 36 + a * 2 ^ 32 + b * 2 ^ 28 + imm
def decAXdi (k : Fin 16 → BitVec 28 → Instr) (o : Nat) : Dec Instr := do
  zero (fld o 28 8); .ok (k (r4 (fld o 36 4)) (BitVec.ofNat 28 (fld o 0 28)))
def decAXdai (k : Fin 16 → Fin 16 → BitVec 28 → Instr) (o : Nat) : Dec Instr := do
  zero (fld o 28 4); .ok (k (r4 (fld o 36 4)) (r4 (fld o 32 4)) (BitVec.ofNat 28 (fld o 0 28)))
def decAXsh (k : Fin 16 → Fin 16 → Fin 64 → Instr) (o : Nat) : Dec Instr := do
  zero (fld o 6 26); .ok (k (r4 (fld o 36 4)) (r4 (fld o 32 4)) (r6 (fld o 0 6)))
def decAB (k : Fin 16 → Fin 16 → BitVec 32 → Instr) (o : Nat) : Dec Instr :=
  .ok (k (r4 (fld o 36 4)) (r4 (fld o 32 4)) (BitVec.ofNat 32 (fld o 0 32)))
def encAB (a b disp : Nat) : Nat := a * 2 ^ 36 + b * 2 ^ 32 + disp
def decABa (k : Fin 16 → BitVec 32 → Instr) (o : Nat) : Dec Instr := do
  zero (fld o 32 4); .ok (k (r4 (fld o 36 4)) (BitVec.ofNat 32 (fld o 0 32)))
def decAB0 (k : BitVec 32 → Instr) (o : Nat) : Dec Instr := do
  zero (fld o 32 8); .ok (k (BitVec.ofNat 32 (fld o 0 32)))
/-- MLOOP, MBNZ, DLOOP, DBNZ: a [35:32], imm32, d zero. -/
def decMXai (k : Fin 16 → BitVec 32 → Instr) (o : Nat) : Dec Instr := do
  zero (fld o 36 4); .ok (k (r4 (fld o 32 4)) (BitVec.ofNat 32 (fld o 0 32)))
/-- QGET, MQGET, DQGET: d, and the a field holds a queue code; the rest zero. -/
def decPop (k : Fin 16 → Queue → Instr) (o : Nat) : Dec Instr := do
  let q ← queueOf (fld o 32 4); zero (fld o 0 32); .ok (k (r4 (fld o 36 4)) q)
/-- A register form with one or both of d and a, in A, M and D. -/
def decXd (k : Fin 16 → Instr) (o : Nat) : Dec Instr := do zero (fld o 0 36); .ok (k (r4 (fld o 36 4)))
def decXa (k : Fin 16 → Instr) (o : Nat) : Dec Instr := do
  zero (fld o 36 4); zero (fld o 0 32); .ok (k (r4 (fld o 32 4)))
def decXda (k : Fin 16 → Fin 16 → Instr) (o : Nat) : Dec Instr := do
  zero (fld o 0 32); .ok (k (r4 (fld o 36 4)) (r4 (fld o 32 4)))
def decStstat (o : Nat) : Dec Instr := do
  zero (fld o 32 4)
  if h : fld o 0 32 < 3 then .ok (.ststat (r4 (fld o 36 4)) ⟨fld o 0 32, h⟩) else .error .code
def decAS (ok : AsArgs → Bool) (k : AsArgs → Instr) (o : Nat) : Dec Instr := do
  let q ← queueOf (fld o 36 4); let s ← sizeOf (fld o 26 2); let m ← modeOf (fld o 24 2); let sc ← scopeOf (fld o 9 3)
  zero (fld o 0 7)
  let args : AsArgs := ⟨q, r4 (fld o 32 4), r4 (fld o 28 4), s, m, BitVec.ofNat 12 (fld o 12 12), sc, flag o 8, flag o 7⟩
  if ok args then .ok (k args) else .error .zeroField
def encAS (o : AsArgs) : Nat :=
  o.queue.code * 2 ^ 36 + o.base.val * 2 ^ 32 + o.aux.val * 2 ^ 28 + o.size.code * 2 ^ 26 + o.mode.code * 2 ^ 24
    + o.count.toNat * 2 ^ 12 + o.scope.code * 2 ^ 9 + b2n o.acq * 2 ^ 8 + b2n o.rel * 2 ^ 7
def decApf (o : Nat) : Dec Instr := do
  let s ← sizeOf (fld o 26 2); let m ← modeOf (fld o 24 2)
  zero (fld o 36 4); zero (fld o 28 4); zero (fld o 0 12)
  .ok (.apf (r4 (fld o 32 4)) s m (BitVec.ofNat 12 (fld o 12 12)))

-- V engine (R36): VR d [39:35], a [34:30], b [29:25], c [24:20], type [19:15], rnd [14:12], FZI, FZO, SAT, M, zero [7:0]
def encVR (d a b c ty rnd fzi fzo sat m : Nat) : Nat :=
  d * 2 ^ 35 + a * 2 ^ 30 + b * 2 ^ 25 + c * 2 ^ 20 + ty * 2 ^ 15 + rnd * 2 ^ 12 + fzi * 2 ^ 11 + fzo * 2 ^ 10
    + sat * 2 ^ 9 + m * 2 ^ 8
def encVMod (d a b c : Nat) (o : VMod) : Nat :=
  encVR d a b c o.type.code o.rnd.code (b2n o.fzi) (b2n o.fzo) (b2n o.sat) (b2n o.m)
def vmodOf (ok : Fmt → Bool) (o : Nat) : Dec VMod := do
  let t ← fmtOf (fld o 15 5); let r ← rndOf (fld o 12 3); zero (fld o 0 8)
  if ok t then .ok ⟨t, r, flag o 11, flag o 10, flag o 9, flag o 8⟩ else .error .code
def decVR3 (ok : Fmt → Bool) (k : Fin 32 → Fin 32 → Fin 32 → VMod → Instr) (o : Nat) : Dec Instr := do
  let md ← vmodOf ok o; zero (fld o 20 5); .ok (k (r5 (fld o 35 5)) (r5 (fld o 30 5)) (r5 (fld o 25 5)) md)
def decVR4 (ok : Fmt → Bool) (k : Fin 32 → Fin 32 → Fin 32 → Fin 32 → VMod → Instr) (o : Nat) : Dec Instr := do
  let md ← vmodOf ok o
  .ok (k (r5 (fld o 35 5)) (r5 (fld o 30 5)) (r5 (fld o 25 5)) (r5 (fld o 20 5)) md)
def decVR2 (ok : Fmt → Bool) (k : Fin 32 → Fin 32 → VMod → Instr) (o : Nat) : Dec Instr := do
  let md ← vmodOf ok o; zero (fld o 20 10); .ok (k (r5 (fld o 35 5)) (r5 (fld o 30 5)) md)
def decVRed (k : Fin 16 → Fin 32 → VMod → Instr) (o : Nat) : Dec Instr := do
  let d ← ereg (fld o 35 5); let md ← vmodOf Fmt.isVArith o; zero (fld o 20 10); .ok (k d (r5 (fld o 30 5)) md)
def decVcvt (o : Nat) : Dec Instr := do
  let md ← vmodOf Fmt.isVCvt o; let src ← fmtOf (fld o 20 5); zero (fld o 25 5)
  if src.isVCvt then .ok (.vcvt (r5 (fld o 35 5)) (r5 (fld o 30 5)) src md) else .error .code
def decVcmp (o : Nat) : Dec Instr := do
  let cond ← vcondOf (fld o 20 5); let t ← fmtOf (fld o 15 5)
  zero (fld o 35 5); zero (fld o 12 3); zero (fld o 9 2); zero (fld o 0 8)
  if t.isVArith && !(cond == .uo && t.isVInt)
  then .ok (.vcmp (r5 (fld o 30 5)) (r5 (fld o 25 5)) cond t (flag o 11) (flag o 8)) else .error .code
/-- d, a, b, M only: VAND, VOR, VXOR. -/
def decVlog (k : Fin 32 → Fin 32 → Fin 32 → Bool → Instr) (o : Nat) : Dec Instr := do
  zero (fld o 9 16); zero (fld o 0 8)
  .ok (k (r5 (fld o 35 5)) (r5 (fld o 30 5)) (r5 (fld o 25 5)) (flag o 8))
/-- d, a, b, type, M: shifts and VPERM. -/
def decVtm (ok : Fmt → Bool) (k : Fin 32 → Fin 32 → Fin 32 → Fmt → Bool → Instr) (o : Nat) : Dec Instr := do
  let t ← fmtOf (fld o 15 5); zero (fld o 20 5); zero (fld o 9 6); zero (fld o 0 8)
  if ok t then .ok (k (r5 (fld o 35 5)) (r5 (fld o 30 5)) (r5 (fld o 25 5)) t (flag o 8)) else .error .code
/-- d, a, b, type, SAT, M: VDOT4 and VTACC. -/
def decVdot (ok : Fmt → Bool) (k : Fin 32 → Fin 32 → Fin 32 → Fmt → Bool → Bool → Instr) (o : Nat) : Dec Instr := do
  let t ← fmtOf (fld o 15 5); zero (fld o 20 5); zero (fld o 10 5); zero (fld o 0 8)
  if ok t then .ok (k (r5 (fld o 35 5)) (r5 (fld o 30 5)) (r5 (fld o 25 5)) t (flag o 9) (flag o 8)) else .error .code
def decVunpk3 (o : Nat) : Dec Instr := do
  zero (fld o 20 10); zero (fld o 9 6); zero (fld o 0 8)
  if fld o 15 5 = 17 then .ok (.vunpk3 (r5 (fld o 35 5)) (r5 (fld o 30 5)) (flag o 8)) else .error .code
def decVsel (o : Nat) : Dec Instr := do
  zero (fld o 0 25); .ok (.vsel (r5 (fld o 35 5)) (r5 (fld o 30 5)) (r5 (fld o 25 5)))
def decVa (k : Fin 16 → Instr) (o : Nat) : Dec Instr := do
  let a ← ereg (fld o 30 5); zero (fld o 35 5); zero (fld o 0 30); .ok (k a)
def decVda (k : Fin 16 → Fin 16 → Instr) (o : Nat) : Dec Instr := do
  let d ← ereg (fld o 35 5); let a ← ereg (fld o 30 5); zero (fld o 0 30); .ok (k d a)
def decVe3 (k : Fin 16 → Fin 16 → Fin 16 → Instr) (o : Nat) : Dec Instr := do
  let d ← ereg (fld o 35 5); let a ← ereg (fld o 30 5); let b ← ereg (fld o 25 5); zero (fld o 0 25); .ok (k d a b)
-- VI d [39:35], a [34:30], type [29:25], M [24], imm24 [23:0]
def encVI (d a ty m imm : Nat) : Nat := d * 2 ^ 35 + a * 2 ^ 30 + ty * 2 ^ 25 + m * 2 ^ 24 + imm
def decVbcast (o : Nat) : Dec Instr := do
  let a ← ereg (fld o 30 5); let t ← fmtOf (fld o 25 5); zero (fld o 0 24)
  if t.isVMove then .ok (.vbcast (r5 (fld o 35 5)) a t (flag o 24)) else .error .code
def decVext (o : Nat) : Dec Instr := do
  let d ← ereg (fld o 35 5); let t ← fmtOf (fld o 25 5); zero (fld o 24 1)
  if t.isVMove then .ok (.vext d (r5 (fld o 30 5)) t (BitVec.ofNat 24 (fld o 0 24))) else .error .code
def decVslide (o : Nat) : Dec Instr := do
  let t ← fmtOf (fld o 25 5)
  if t.isVMove then .ok (.vslide (r5 (fld o 35 5)) (r5 (fld o 30 5)) t (flag o 24) (BitVec.ofNat 24 (fld o 0 24)))
  else .error .code
def decSldi (o : Nat) : Dec Instr := do
  let d ← ereg (fld o 35 5); zero (fld o 24 11); .ok (.sldi d (BitVec.ofNat 24 (fld o 0 24)))
def decVqget (o : Nat) : Dec Instr := do
  let q ← queueOf (fld o 31 4); zero (fld o 0 31)
  if q == .cv0 && 16 ≤ fld o 35 5 then .error .register else .ok (.vqget (r5 (fld o 35 5)) q)
def decVqput (o : Nat) : Dec Instr := do
  let q ← queueOf (fld o 31 4); zero (fld o 0 31); .ok (.vqput (r5 (fld o 35 5)) q)
def encVQ (v q : Nat) : Nat := v * 2 ^ 35 + q * 2 ^ 31
-- VB e [39:36], disp36
def decVB0 (k : BitVec 36 → Instr) (o : Nat) : Dec Instr := do
  zero (fld o 36 4); .ok (k (BitVec.ofNat 36 (fld o 0 36)))
def decVloop (o : Nat) : Dec Instr := .ok (.vloop (r4 (fld o 36 4)) (BitVec.ofNat 36 (fld o 0 36)))

-- MT z [39:38], A [37:34], B [33:30], table [29:26], k [25:20], R [19], Q [18], queue [17:16], zero [15:0] (R37)
def encMT (z a b tab k r q : Nat) : Nat :=
  z * 2 ^ 38 + a * 2 ^ 34 + b * 2 ^ 30 + tab * 2 ^ 26 + k * 2 ^ 20 + r * 2 ^ 19 + q * 2 ^ 18
def kOf (n : Nat) : Dec (Fin 64) := if n % 64 = 0 then .error .code else .ok (r6 n)
def decMldw (o : Nat) : Dec Instr := do
  let k ← kOf (fld o 20 6); zero (fld o 34 6); zero (fld o 0 20); .ok (.mldw (r4 (fld o 30 4)) (r4 (fld o 26 4)) k)
def decMlds (o : Nat) : Dec Instr := do
  let k ← kOf (fld o 20 6); zero (fld o 34 6); zero (fld o 0 19)
  .ok (.mlds (r4 (fld o 30 4)) (r4 (fld o 26 4)) k (flag o 19))
def aopOf (o : Nat) : Dec AOp :=
  if flag o 18 then (do let q ← queueOf (fld o 34 4); .ok (.q q)) else .ok (.h (r4 (fld o 34 4)))
def AOp.code : AOp → Nat | .h r => r | .q x => x.code
def AOp.qbit : AOp → Nat | .h _ => 0 | .q _ => 1
def decMma (k : Fin 4 → AOp → Fin 16 → Fin 64 → Bool → Instr) (o : Nat) : Dec Instr := do
  let ks ← kOf (fld o 20 6); let a ← aopOf o; zero (fld o 30 4); zero (fld o 0 18)
  .ok (k (Fin.ofNat 4 (fld o 38 2)) a (r4 (fld o 26 4)) ks (flag o 19))
def decMz (k : Fin 4 → Instr) (o : Nat) : Dec Instr := do zero (fld o 0 38); .ok (k (Fin.ofNat 4 (fld o 38 2)))
def decMstz (o : Nat) : Dec Instr := do
  zero (fld o 20 14); zero (fld o 0 19); .ok (.mstz (Fin.ofNat 4 (fld o 38 2)) (r4 (fld o 34 4)) (flag o 19))
def decMldz (o : Nat) : Dec Instr := do
  zero (fld o 0 34); .ok (.mldz (Fin.ofNat 4 (fld o 38 2)) (r4 (fld o 34 4)))
def decMwpf (o : Nat) : Dec Instr := do
  let k ← kOf (fld o 20 6); zero (fld o 34 6); zero (fld o 26 4); zero (fld o 0 20); .ok (.mwpf (r4 (fld o 30 4)) k)
def decStin (o : Nat) : Dec Instr := do
  zero (fld o 38 2); zero (fld o 26 8); zero (fld o 0 20)
  if 1 ≤ fld o 20 6 ∧ fld o 20 6 ≤ 8 then .ok (.stin (r4 (fld o 34 4)) (r6 (fld o 20 6))) else .error .code
def decSthdr (o : Nat) : Dec Instr := do zero (fld o 34 6); zero (fld o 0 30); .ok (.sthdr (r4 (fld o 30 4)))
def decSteval (o : Nat) : Dec Instr := do
  zero (fld o 38 2); zero (fld o 0 30); .ok (.steval (r4 (fld o 34 4)) (r4 (fld o 30 4)))
def decStout (o : Nat) : Dec Instr := do
  let z := Fin.ofNat 4 (fld o 38 2); let tab := r4 (fld o 26 4); let kind := r6 (fld o 20 6)
  zero (fld o 30 8); zero (fld o 0 20)
  if (kind == 0 && tab == 0) || (kind == 1 && z == 0) then .ok (.stout z kind tab) else .error .code

-- DC dst [39:36], src [35:32], length [31:28], tag [27:22], acquire [21], release [20], scope [19:17], ep [16:15] (R38)
def encDC (o : DcArgs) : Nat :=
  o.dst.val * 2 ^ 36 + o.src.val * 2 ^ 32 + o.len.val * 2 ^ 28 + o.tag.val * 2 ^ 22 + b2n o.acq * 2 ^ 21
    + b2n o.rel * 2 ^ 20 + o.scope.code * 2 ^ 17 + o.ep.val * 2 ^ 15
def decDC (ok : DcArgs → Bool) (k : DcArgs → Instr) (o : Nat) : Dec Instr := do
  let sc ← scopeOf (fld o 17 3); zero (fld o 0 15)
  let args : DcArgs := ⟨r4 (fld o 36 4), r4 (fld o 32 4), r4 (fld o 28 4), r6 (fld o 22 6), flag o 21, flag o 20, sc,
    Fin.ofNat 4 (fld o 15 2)⟩
  if ok args then .ok (k args) else .error .zeroField

/-! ## The shared forms in each engine (R40, R107) -/

/-- Immediate width of the engine's immediate form. -/
def immBits : Engine → Nat | .c | .a => 28 | .v => 24 | .m | .d => 32
/-- A shared immediate instruction without d: everything above its `n` low bits is zero. -/
def decImm (n : Nat) (k : Nat → Instr) (o : Nat) : Dec Instr := do
  zero (fld o n (40 - n)); .ok (k (fld o 0 n))
/-- The scalar register of engine `e` whose code stands in the d field (bits from `lo`), or the a field. -/
def sregAt (e : Engine) (dField : Bool) (o : Nat) : Dec SReg :=
  match e, dField with
  | .c, true => (creg (fld o 34 6)).map .c
  | .c, false => (creg (fld o 28 6)).map .c
  | .v, true => (ereg (fld o 35 5)).map .e
  | .v, false => (ereg (fld o 30 5)).map .e
  | .a, true => .ok (.x (r4 (fld o 36 4)))
  | .a, false => .ok (.x (r4 (fld o 32 4)))
  | .m, true => .ok (.h (r4 (fld o 36 4)))
  | .m, false => .ok (.h (r4 (fld o 32 4)))
  | .d, true => .ok (.d (r4 (fld o 36 4)))
  | .d, false => .ok (.d (r4 (fld o 32 4)))
/-- Where the d and the a field of the register form begin, and their width. -/
def dLo : Engine → Nat | .c => 34 | .v => 35 | _ => 36
def aLo : Engine → Nat | .c => 28 | .v => 30 | _ => 32
/-- Register form with a only. -/
def decRegA (e : Engine) (k : SReg → Instr) (o : Nat) : Dec Instr := do
  let a ← sregAt e false o
  zero (fld o (dLo e) (40 - dLo e)); zero (fld o 0 (aLo e)); .ok (k a)
/-- Register form with d only. -/
def decRegD (e : Engine) (k : SReg → Instr) (o : Nat) : Dec Instr := do
  let d ← sregAt e true o; zero (fld o 0 (dLo e)); .ok (k d)
/-- Register form with d and a. -/
def decRegDA (e : Engine) (k : SReg → SReg → Instr) (o : Nat) : Dec Instr := do
  let d ← sregAt e true o; let a ← sregAt e false o; zero (fld o 0 (aLo e)); .ok (k d a)
/-- QCNT: d and a queue code in imm[3:0]. -/
def decQcnt (e : Engine) (o : Nat) : Dec Instr := do
  let d ← sregAt e true o; let q ← queueOf (fld o 0 4); zero (fld o 4 (dLo e - 4)); .ok (.qcnt d q)
def decFence (o : Nat) : Dec Instr := do
  let s ← scopeOf (fld o 0 3); zero (fld o 7 33)
  if fld o 3 4 = 0 then .error .code else .ok (.fence s (BitVec.ofNat 4 (fld o 3 4)))
/-- BQBR: disp32 in A, disp36 in V (R119). -/
def sext (n m : Nat) : Int := if m < 2 ^ (n - 1) then m else (m : Int) - 2 ^ n
def decBqbr (e : Engine) (o : Nat) : Dec Instr :=
  match e with
  | .a => do zero (fld o 32 8); .ok (.bqbr (sext 32 (fld o 0 32)))
  | _ => do zero (fld o 36 4); .ok (.bqbr (sext 36 (fld o 0 36)))

/-- The opcodes that several engines share (R40); none when the opcode is not one of them or not in this engine. -/
def decShared (e : Engine) (op o : Nat) : Option (Dec Instr) :=
  match op with
  | 0x00 => some (dec0 .nop o)
  | 0xC0 => some (decImm 6 (fun n => .sigset (r6 n)) o)
  | 0xC1 => some (decImm 6 (fun n => .sigclr (r6 n)) o)
  | 0xC2 => some (decImm 6 (fun n => .sigwait (r6 n)) o)
  | 0xC3 => some (decQcnt e o)
  | 0xC4 => some (dec0 .rdv o)
  | 0xC5 => some (decRegA e .join o)
  | 0xC6 => some (decRegA e .leave o)
  | 0xC7 => some (decRegA e .gbar o)
  | 0xC8 => some (decFence o)
  | 0xFE => some (decImm 16 (fun n => .brk (BitVec.ofNat 16 n)) o)
  | 0xC9 => if e == .c || e == .a || e == .v then some (decRegA e .bqput o) else none
  | 0xCA => if e == .a || e == .v then some (decBqbr e o) else none
  | 0xCB => if e == .c || e == .a || e == .d then some (decRegA e .pmset o) else none
  | 0xCC => if e == .c || e == .a || e == .d then some (decRegD e .pmget o) else none
  | 0xD0 => if e != .d then some (decRegA e .twany o) else none
  | 0xD1 => if e != .d then some (decRegA e .twall o) else none
  | 0xD2 => if e != .d then some (decRegDA e .tffr o) else none
  | 0xD3 => if e != .d then some (decRegA e .tclr o) else none
  | _ => none

/-! ## The opcode maps (R41 to R45) -/

def decC (op o : Nat) : Option (Dec Instr) :=
  match op with
  | 0x01 => some (decCR3 .add o) | 0x02 => some (decCR3 .sub o) | 0x03 => some (decCR3 .mul o)
  | 0x04 => some (decCR3 .mulh o) | 0x05 => some (decCR3 .mulhn o) | 0x06 => some (decCR3 .div o)
  | 0x07 => some (decCR3 .divn o) | 0x08 => some (decCR3 .rem o) | 0x09 => some (decCR3 .remn o)
  | 0x0A => some (decCR3 .and o) | 0x0B => some (decCR3 .or o) | 0x0C => some (decCR3 .xor o)
  | 0x0D => some (decCR3 .shl o) | 0x0E => some (decCR3 .shr o) | 0x0F => some (decCR3 .sra o)
  | 0x10 => some (decCR3 .seq o) | 0x11 => some (decCR3 .slt o) | 0x12 => some (decCR3 .sltn o)
  | 0x13 => some (decCR3 .min o) | 0x14 => some (decCR3 .max o)
  | 0x15 => some (decCR (fun d a b c => .ok (.sel d a b c)) o)
  | 0x16 => some (decCRda .clz o) | 0x17 => some (decCRda .popc o)
  | 0x18 => some (decCI .addi o) | 0x19 => some (decCI .andi o) | 0x1A => some (decCI .ori o)
  | 0x1B => some (decCI .xori o) | 0x1C => some (decCIsh .shli o) | 0x1D => some (decCIsh .shri o)
  | 0x1E => some (decCIsh .srai o) | 0x1F => some (decCI .slti o)
  | 0x20 => some (decLdi o) | 0x21 => some (decLdih o)
  | 0x28 => some (decCB0 .b o) | 0x29 => some (decCB .beq o) | 0x2A => some (decCB .bne o)
  | 0x2B => some (decCB .blt o) | 0x2C => some (decCB .bge o) | 0x2D => some (decCB .bltn o)
  | 0x2E => some (decCB .bgen o)
  | 0x30 => some (decCRa .jr o) | 0x31 => some (decCB0 .call o) | 0x32 => some (decCRa .callr o)
  | 0x33 => some (dec0 .ret o)
  | 0x38 => some (decMfs o) | 0x39 => some (decMts o) | 0x3A => some (dec0 .wsync o)
  | 0x40 => some (decCM true .ld o) | 0x41 => some (decCM false .st o) | 0x42 => some (decCM true .sld o)
  | 0x43 => some (decCM false .sst o) | 0x44 => some (decCM true .wld o) | 0x45 => some (decCM false .wst o)
  | 0x46 => some (decCRab .spalloc o)
  | 0x49 => some (decCN true .lda o) | 0x4A => some (decCN false .stl o)
  | 0x50 => some (decCA CaArgs.amoOk (fun x _ => .amoadd x) false o)
  | 0x51 => some (decCA CaArgs.amoOk (fun x _ => .amoand x) false o)
  | 0x52 => some (decCA CaArgs.amoOk (fun x _ => .amoor x) false o)
  | 0x53 => some (decCA CaArgs.amoOk (fun x _ => .amoxor x) false o)
  | 0x54 => some (decCA CaArgs.amoOk (fun x _ => .amomin x) false o)
  | 0x55 => some (decCA CaArgs.amoOk (fun x _ => .amomax x) false o)
  | 0x56 => some (decCA CaArgs.amoOk (fun x _ => .amominn x) false o)
  | 0x57 => some (decCA CaArgs.amoOk (fun x _ => .amomaxn x) false o)
  | 0x58 => some (decCA CaArgs.amoOk (fun x _ => .amoswp x) false o)
  | 0x59 => some (decCA CaArgs.amoOk .amocas true o)
  | 0x5A => some (decCA CaArgs.afaddOk (fun x _ => .afadd x) false o)
  | 0x60 => some (decCRd .pmalloc o) | 0x61 => some (decCIaScope .pmret o) | 0x62 => some (decCR3 .pmldx o)
  | 0x63 => some (decCRda .pmprobe o) | 0x64 => some (decCIaScope .pmretw o)
  | 0x70 => some (decCIaN .sigx o) | 0x71 => some (decCIaQ .qput o) | 0x72 => some (dec0 .sstep o)
  | 0x73 => some (decCRda .rnext o) | 0x74 => some (decCRa .rsteal o) | 0x75 => some (decCRa .tickwait o)
  | 0x88 => some (decCRa .fqput o) | 0x89 => some (dec0 .fqclose o)
  | 0x90 => some (decWprog o) | 0x91 => some (decCRda .wpstat o) | 0x92 => some (decCRda .wwear o)
  | 0x93 => some (decCRda .wrmap o) | 0x94 => some (decCRa .wseal o)
  | 0xA0 => some (decTrap o) | 0xA1 => some (decRte o) | 0xA2 => some (decCRa .tlbi o) | 0xA3 => some (dec0 .tlbia o)
  | 0xA4 => some (decCRa .gpafl o) | 0xA5 => some (decCRa .swapb o) | 0xA6 => some (decCRab .bankld o)
  | 0xA7 => some (decCRab .bankst o) | 0xA8 => some (decErrpop o) | 0xA9 => some (decCRda .monrd o)
  | 0xAA => some (dec0 .wfe o)
  | 0xB0 => some (decCRab .gate o) | 0xB1 => some (decCRab .keyld o) | 0xB2 => some (decCRa .keyzap o)
  | 0xB3 => some (decCRa .zscrub o)
  | _ => none

def decA (op o : Nat) : Option (Dec Instr) :=
  match op with
  | 0x01 => some (decAXdi .xldi o) | 0x02 => some (decAX3 .xadd o) | 0x03 => some (decAXdai .xaddi o)
  | 0x04 => some (decAX3 .xsub o) | 0x05 => some (decAX3 .xmul o) | 0x06 => some (decAXsh .xshl o)
  | 0x07 => some (decAXsh .xshr o) | 0x08 => some (decAX3 .xand o)
  | 0x10 => some (decAB0 .xb o) | 0x11 => some (decAB .xbne o) | 0x12 => some (decAB .xblt o)
  | 0x13 => some (decABa .xloop o)
  | 0x20 => some (decAS AsArgs.plainOk .ald o) | 0x21 => some (decAS AsArgs.scopeOk .alds o)
  | 0x22 => some (decAS AsArgs.scopeOk .aldg o) | 0x23 => some (decAS AsArgs.plainOk .ast o)
  | 0x24 => some (decAS AsArgs.scopeOk .asts o) | 0x25 => some (decAS AsArgs.scopeOk .astg o)
  | 0x26 => some (decApf o) | 0x27 => some (decAS AsArgs.scopeOk .apmld o)
  | 0x28 => some (decPop .qget o)
  | _ => none

def decV (op o : Nat) : Option (Dec Instr) :=
  match op with
  | 0x01 => some (decVR3 Fmt.isVArith .vadd o) | 0x02 => some (decVR3 Fmt.isVArith .vsub o)
  | 0x03 => some (decVR3 Fmt.isVArith .vmul o) | 0x04 => some (decVR4 Fmt.isVArith .vfma o)
  | 0x05 => some (decVR3 Fmt.isVArith .vmin o) | 0x06 => some (decVR3 Fmt.isVArith .vmax o)
  | 0x07 => some (decVR2 Fmt.isVArith .vabs o) | 0x08 => some (decVR2 Fmt.isVArith .vneg o)
  | 0x10 => some (decVlog .vand o) | 0x11 => some (decVlog .vor o) | 0x12 => some (decVlog .vxor o)
  | 0x13 => some (decVtm Fmt.isVInt .vshl o) | 0x14 => some (decVtm Fmt.isVInt .vshr o)
  | 0x15 => some (decVtm Fmt.isVInt .vsra o)
  | 0x18 => some (decVcmp o) | 0x19 => some (decVsel o) | 0x1A => some (decVcvt o)
  | 0x20 => some (decVunpk3 o) | 0x21 => some (decVdot (· == .i8) (fun d a b _ s m => .vtacc d a b s m) o)
  | 0x22 => some (decVdot (fun t => t == .i8 || t == .n8) .vdot4 o)
  | 0x28 => some (decVRed .vredadd o) | 0x29 => some (decVRed .vredmax o) | 0x2A => some (decVRed .vredmin o)
  | 0x30 => some (decVR2 Fmt.isVFloat .vexp2 o) | 0x31 => some (decVR2 Fmt.isVFloat .vrcp o)
  | 0x32 => some (decVR2 Fmt.isVFloat .vrsq o)
  | 0x38 => some (decVtm Fmt.isVMove .vperm o) | 0x39 => some (decVbcast o) | 0x3A => some (decVext o)
  | 0x3B => some (decVslide o) | 0x3C => some (decVqget o) | 0x3D => some (decVqput o)
  | 0x40 => some (decVa .mpush o) | 0x41 => some (dec0 .minv o) | 0x42 => some (dec0 .mpop o)
  | 0x43 => some (decVB0 .bmskip o)
  | 0x48 => some (decSldi o) | 0x49 => some (decVe3 .sadd o) | 0x4A => some (decVe3 .smul o)
  | 0x4B => some (decVloop o) | 0x4C => some (decVB0 .vb o)
  | _ => none

def decM (op o : Nat) : Option (Dec Instr) :=
  match op with
  | 0x01 => some (dec0 .seamb o) | 0x02 => some (dec0 .seame o)
  | 0x08 => some (decMldw o) | 0x09 => some (decMlds o) | 0x0A => some (decMma .mma o) | 0x0B => some (decMma .mmag o)
  | 0x0C => some (decMz .mzero o) | 0x0D => some (decMstz o) | 0x0E => some (decMz .mstq o) | 0x0F => some (decMldz o)
  | 0x10 => some (decMwpf o) | 0x11 => some (decXd .mtok o)
  | 0x20 => some (dec0 .stclr o) | 0x21 => some (decStin o) | 0x22 => some (decSthdr o) | 0x23 => some (decSteval o)
  | 0x24 => some (decStout o) | 0x25 => some (decStstat o)
  | 0x30 => some (decABa .mldi o)
  | 0x31 => some (decAB .maddi o) | 0x32 => some (decPop .mqget o) | 0x33 => some (decMXai .mloop o)
  | 0x34 => some (decMXai .mbnz o)
  | _ => none

def decD (op o : Nat) : Option (Dec Instr) :=
  match op with
  | 0x01 => some (decDC (fun _ => true) .dcopy o) | 0x02 => some (decDC (fun _ => true) .dfill o)
  | 0x03 => some (decDC (fun _ => true) .dgath o) | 0x04 => some (decDC (fun a => !a.acq && !a.rel) .dpfa o)
  | 0x08 => some (decDC (fun _ => true) .dbtw o) | 0x09 => some (decDC (fun _ => true) .dbtr o)
  | 0x0A => some (decDC (fun _ => true) .dbtsh o) | 0x0B => some (decDC (fun a => a.src == 0) .dbtfree o)
  | 0x10 => some (decDC (fun _ => true) .dxfer o) | 0x11 => some (decDC (fun _ => true) .dcoll o)
  | 0x20 => some (decABa .dldi o) | 0x21 => some (decAB .daddi o) | 0x22 => some (decPop .dqget o)
  | 0x23 => some (decMXai .dloop o) | 0x24 => some (decMXai .dbnz o)
  | _ => none

/-- An engine's own opcode map. -/
def decOwn (e : Engine) (op o : Nat) : Option (Dec Instr) :=
  match e with
  | .c => decC op o | .a => decA op o | .v => decV op o | .m => decM op o | .d => decD op o

/-- The operands of a word whose opcode and low 40 bits are given (R25 steps 2 and 3). An opcode with no entry in the
engine's map is `unassignedOpcode` (R39). -/
def decodeOp (e : Engine) (op o : Nat) : Dec Instr :=
  match decShared e op o with
  | some r => r
  | none => match decOwn e op o with
    | some r => r
    | none => .ok (.unassignedOpcode (BitVec.ofNat 8 op) (BitVec.ofNat 40 o))

/-- A word of engine `e` (R24). -/
def decodeNat (e : Engine) (w : Nat) : Dec (Ann × Instr) := do
  let ann ← annOf w
  let i ← decodeOp e (fld w 40 8) (fld w 0 40)
  .ok (ann, i)
def decode (e : Engine) (w : Word) : Dec (Ann × Instr) := decodeNat e w.toNat

/-! ## Encoding, from the same tables -/

/-- The shared immediate or register forms: opcode and operands. -/
def encS (e : Engine) (d a : Nat) : Nat := d * 2 ^ dLo e + a * 2 ^ aLo e

/-- Opcode and low 40 bits of an instruction in engine `e`; (0, 0) for an event. -/
def encodeOp (e : Engine) : Instr → Nat × Nat
  | .nop => (0, 0)
  | .sigset n => (0xC0, n) | .sigclr n => (0xC1, n) | .sigwait n => (0xC2, n)
  | .qcnt d q => (0xC3, encS e d.code 0 + q.code)
  | .rdv => (0xC4, 0)
  | .join a => (0xC5, encS e 0 a.code) | .leave a => (0xC6, encS e 0 a.code) | .gbar a => (0xC7, encS e 0 a.code)
  | .fence s k => (0xC8, s.code + k.toNat * 8)
  | .bqput a => (0xC9, encS e 0 a.code)
  | .bqbr disp => (0xCA, (disp % (2 ^ (if e = .a then 32 else 36) : Nat)).toNat)
  | .pmset a => (0xCB, encS e 0 a.code) | .pmget d => (0xCC, encS e d.code 0)
  | .twany a => (0xD0, encS e 0 a.code) | .twall a => (0xD1, encS e 0 a.code)
  | .tffr d a => (0xD2, encS e d.code a.code) | .tclr a => (0xD3, encS e 0 a.code)
  | .brk c => (0xFE, c.toNat)
  | .add d a b => (0x01, encCR d.code a.code b.code 0) | .sub d a b => (0x02, encCR d.code a.code b.code 0)
  | .mul d a b => (0x03, encCR d.code a.code b.code 0) | .mulh d a b => (0x04, encCR d.code a.code b.code 0)
  | .mulhn d a b => (0x05, encCR d.code a.code b.code 0) | .div d a b => (0x06, encCR d.code a.code b.code 0)
  | .divn d a b => (0x07, encCR d.code a.code b.code 0) | .rem d a b => (0x08, encCR d.code a.code b.code 0)
  | .remn d a b => (0x09, encCR d.code a.code b.code 0) | .and d a b => (0x0A, encCR d.code a.code b.code 0)
  | .or d a b => (0x0B, encCR d.code a.code b.code 0) | .xor d a b => (0x0C, encCR d.code a.code b.code 0)
  | .shl d a b => (0x0D, encCR d.code a.code b.code 0) | .shr d a b => (0x0E, encCR d.code a.code b.code 0)
  | .sra d a b => (0x0F, encCR d.code a.code b.code 0) | .seq d a b => (0x10, encCR d.code a.code b.code 0)
  | .slt d a b => (0x11, encCR d.code a.code b.code 0) | .sltn d a b => (0x12, encCR d.code a.code b.code 0)
  | .min d a b => (0x13, encCR d.code a.code b.code 0) | .max d a b => (0x14, encCR d.code a.code b.code 0)
  | .sel d a b c => (0x15, encCR d.code a.code b.code c.code)
  | .clz d a => (0x16, encCR d.code a.code 0 0) | .popc d a => (0x17, encCR d.code a.code 0 0)
  | .addi d a i => (0x18, encCI d.code a.code i.toNat) | .andi d a i => (0x19, encCI d.code a.code i.toNat)
  | .ori d a i => (0x1A, encCI d.code a.code i.toNat) | .xori d a i => (0x1B, encCI d.code a.code i.toNat)
  | .shli d a n => (0x1C, encCI d.code a.code n) | .shri d a n => (0x1D, encCI d.code a.code n)
  | .srai d a n => (0x1E, encCI d.code a.code n) | .slti d a i => (0x1F, encCI d.code a.code i.toNat)
  | .ldi d i => (0x20, d.code * 2 ^ 34 + i.toNat) | .ldih d i => (0x21, d.code * 2 ^ 34 + i.toNat)
  | .b i => (0x28, i.toNat) | .beq a b i => (0x29, encCI a.code b.code i.toNat)
  | .bne a b i => (0x2A, encCI a.code b.code i.toNat) | .blt a b i => (0x2B, encCI a.code b.code i.toNat)
  | .bge a b i => (0x2C, encCI a.code b.code i.toNat) | .bltn a b i => (0x2D, encCI a.code b.code i.toNat)
  | .bgen a b i => (0x2E, encCI a.code b.code i.toNat)
  | .jr a => (0x30, encCR 0 a.code 0 0) | .call i => (0x31, i.toNat) | .callr a => (0x32, encCR 0 a.code 0 0)
  | .ret => (0x33, 0)
  | .mfs d r => (0x38, encCS d.code 0 r.code) | .mts r a => (0x39, encCS 0 a.code r.code) | .wsync => (0x3A, 0)
  | .winptrWrite a => (0x39, encCS 0 a.code 0x33) | .spillbaseWrite a => (0x39, encCS 0 a.code 0x31)
  | .spilllimWrite a => (0x39, encCS 0 a.code 0x32) | .vstatWrite a => (0x39, encCS 0 a.code 0x41)
  | .tokmaxWrite a => (0x39, encCS 0 a.code 0x70) | .tickperWrite a => (0x39, encCS 0 a.code 0x62)
  | .ld o => (0x40, encCM o) | .st o => (0x41, encCM o) | .sld o => (0x42, encCM o) | .sst o => (0x43, encCM o)
  | .wld o => (0x44, encCM o) | .wst o => (0x45, encCM o)
  | .spalloc a b => (0x46, encCR 0 a.code b.code 0)
  | .lda o => (0x49, encCN o) | .stl o => (0x4A, encCN o)
  | .amoadd o => (0x50, encCA o 0) | .amoand o => (0x51, encCA o 0) | .amoor o => (0x52, encCA o 0)
  | .amoxor o => (0x53, encCA o 0) | .amomin o => (0x54, encCA o 0) | .amomax o => (0x55, encCA o 0)
  | .amominn o => (0x56, encCA o 0) | .amomaxn o => (0x57, encCA o 0) | .amoswp o => (0x58, encCA o 0)
  | .amocas o c => (0x59, encCA o c.code) | .afadd o => (0x5A, encCA o 0)
  | .pmalloc d => (0x60, encCR d.code 0 0 0) | .pmret a s => (0x61, encCI 0 a.code s.code)
  | .pmldx d a b => (0x62, encCR d.code a.code b.code 0) | .pmprobe d a => (0x63, encCR d.code a.code 0 0)
  | .pmretw a s => (0x64, encCI 0 a.code s.code)
  | .sigx a n => (0x70, encCI 0 a.code n) | .qput a q => (0x71, encCI 0 a.code q.code) | .sstep => (0x72, 0)
  | .rnext d a => (0x73, encCR d.code a.code 0 0) | .rsteal a => (0x74, encCR 0 a.code 0 0)
  | .tickwait a => (0x75, encCR 0 a.code 0 0) | .fqput a => (0x88, encCR 0 a.code 0 0) | .fqclose => (0x89, 0)
  | .wprog a b t => (0x90, encCR 0 a.code b.code t) | .wpstat d a => (0x91, encCR d.code a.code 0 0)
  | .wwear d a => (0x92, encCR d.code a.code 0 0) | .wrmap d a => (0x93, encCR d.code a.code 0 0)
  | .wseal a => (0x94, encCR 0 a.code 0 0)
  | .trap c => (0xA0, c.toNat) | .rte k => (0xA1, k) | .tlbi a => (0xA2, encCR 0 a.code 0 0) | .tlbia => (0xA3, 0)
  | .gpafl a => (0xA4, encCR 0 a.code 0 0) | .swapb a => (0xA5, encCR 0 a.code 0 0)
  | .bankld a b => (0xA6, encCR 0 a.code b.code 0) | .bankst a b => (0xA7, encCR 0 a.code b.code 0)
  | .errpop d => (0xA8, encCR d.code 0 0 0) | .monrd d a => (0xA9, encCR d.code a.code 0 0) | .wfe => (0xAA, 0)
  | .gate a b => (0xB0, encCR 0 a.code b.code 0) | .keyld a b => (0xB1, encCR 0 a.code b.code 0)
  | .keyzap a => (0xB2, encCR 0 a.code 0 0) | .zscrub a => (0xB3, encCR 0 a.code 0 0)
  | .xldi d i => (0x01, encAX d 0 0 i.toNat) | .xadd d a b => (0x02, encAX d a b 0)
  | .xaddi d a i => (0x03, encAX d a 0 i.toNat) | .xsub d a b => (0x04, encAX d a b 0)
  | .xmul d a b => (0x05, encAX d a b 0) | .xshl d a n => (0x06, encAX d a 0 n) | .xshr d a n => (0x07, encAX d a 0 n)
  | .xand d a b => (0x08, encAX d a b 0)
  | .xb i => (0x10, i.toNat) | .xbne a b i => (0x11, encAB a b i.toNat) | .xblt a b i => (0x12, encAB a b i.toNat)
  | .xloop a i => (0x13, encAB a 0 i.toNat)
  | .ald o => (0x20, encAS o) | .alds o => (0x21, encAS o) | .aldg o => (0x22, encAS o) | .ast o => (0x23, encAS o)
  | .asts o => (0x24, encAS o) | .astg o => (0x25, encAS o)
  | .apf b s m c => (0x26, encAS ⟨.av 0, b, 0, s, m, c, .stream, false, false⟩)
  | .apmld o => (0x27, encAS o) | .qget d q => (0x28, encAX d q.code 0 0)
  | .vadd d a b o => (0x01, encVMod d a b 0 o) | .vsub d a b o => (0x02, encVMod d a b 0 o)
  | .vmul d a b o => (0x03, encVMod d a b 0 o) | .vfma d a b c o => (0x04, encVMod d a b c o)
  | .vmin d a b o => (0x05, encVMod d a b 0 o) | .vmax d a b o => (0x06, encVMod d a b 0 o)
  | .vabs d a o => (0x07, encVMod d a 0 0 o) | .vneg d a o => (0x08, encVMod d a 0 0 o)
  | .vand d a b m => (0x10, encVR d a b 0 0 0 0 0 0 (b2n m)) | .vor d a b m => (0x11, encVR d a b 0 0 0 0 0 0 (b2n m))
  | .vxor d a b m => (0x12, encVR d a b 0 0 0 0 0 0 (b2n m))
  | .vshl d a b t m => (0x13, encVR d a b 0 t.code 0 0 0 0 (b2n m))
  | .vshr d a b t m => (0x14, encVR d a b 0 t.code 0 0 0 0 (b2n m))
  | .vsra d a b t m => (0x15, encVR d a b 0 t.code 0 0 0 0 (b2n m))
  | .vcmp a b c t f m => (0x18, encVR 0 a b c.code t.code 0 (b2n f) 0 0 (b2n m))
  | .vsel d a b => (0x19, encVR d a b 0 0 0 0 0 0 0) | .vcvt d a s o => (0x1A, encVMod d a 0 s.code o)
  | .vunpk3 d a m => (0x20, encVR d a 0 0 17 0 0 0 0 (b2n m))
  | .vtacc d a b s m => (0x21, encVR d a b 0 22 0 0 0 (b2n s) (b2n m))
  | .vdot4 d a b t s m => (0x22, encVR d a b 0 t.code 0 0 0 (b2n s) (b2n m))
  | .vredadd d a o => (0x28, encVMod d a 0 0 o) | .vredmax d a o => (0x29, encVMod d a 0 0 o)
  | .vredmin d a o => (0x2A, encVMod d a 0 0 o)
  | .vexp2 d a o => (0x30, encVMod d a 0 0 o) | .vrcp d a o => (0x31, encVMod d a 0 0 o)
  | .vrsq d a o => (0x32, encVMod d a 0 0 o)
  | .vperm d a b t m => (0x38, encVR d a b 0 t.code 0 0 0 0 (b2n m))
  | .vbcast d a t m => (0x39, encVI d a t.code (b2n m) 0) | .vext d a t i => (0x3A, encVI d a t.code 0 i.toNat)
  | .vslide d a t m s => (0x3B, encVI d a t.code (b2n m) s.toNat)
  | .vqget v q => (0x3C, encVQ v q.code) | .vqput v q => (0x3D, encVQ v q.code)
  | .mpush a => (0x40, encVR 0 a 0 0 0 0 0 0 0 0) | .minv => (0x41, 0) | .mpop => (0x42, 0)
  | .bmskip i => (0x43, i.toNat) | .sldi d i => (0x48, encVI d 0 0 0 i.toNat)
  | .sadd d a b => (0x49, encVR d a b 0 0 0 0 0 0 0) | .smul d a b => (0x4A, encVR d a b 0 0 0 0 0 0 0)
  | .vloop e i => (0x4B, e * 2 ^ 36 + i.toNat) | .vb i => (0x4C, i.toNat)
  | .seamb => (0x01, 0) | .seame => (0x02, 0)
  | .mldw b t k => (0x08, encMT 0 0 b t k 0 0) | .mlds b t k r => (0x09, encMT 0 0 b t k (b2n r) 0)
  | .mma z a t k r => (0x0A, encMT z a.code 0 t k (b2n r) a.qbit)
  | .mmag z a t k r => (0x0B, encMT z a.code 0 t k (b2n r) a.qbit)
  | .mzero z => (0x0C, encMT z 0 0 0 0 0 0) | .mstz z a r => (0x0D, encMT z a 0 0 0 (b2n r) 0)
  | .mstq z => (0x0E, encMT z 0 0 0 0 0 0) | .mldz z a => (0x0F, encMT z a 0 0 0 0 0)
  | .mwpf b k => (0x10, encMT 0 0 b 0 k 0 0) | .mtok d => (0x11, encAB d 0 0)
  | .stclr => (0x20, 0) | .stin a n => (0x21, encMT 0 a 0 0 n 0 0) | .sthdr b => (0x22, encMT 0 0 b 0 0 0 0)
  | .steval a b => (0x23, encMT 0 a b 0 0 0 0) | .stout z k t => (0x24, encMT z 0 0 t k 0 0)
  | .ststat d n => (0x25, encAB d 0 n)
  | .mldi d i => (0x30, encAB d 0 i.toNat) | .maddi d a i => (0x31, encAB d a i.toNat)
  | .mqget d q => (0x32, encAB d q.code 0) | .mloop a i => (0x33, encAB 0 a i.toNat)
  | .mbnz a i => (0x34, encAB 0 a i.toNat)
  | .dcopy o => (0x01, encDC o) | .dfill o => (0x02, encDC o) | .dgath o => (0x03, encDC o) | .dpfa o => (0x04, encDC o)
  | .dbtw o => (0x08, encDC o) | .dbtr o => (0x09, encDC o) | .dbtsh o => (0x0A, encDC o) | .dbtfree o => (0x0B, encDC o)
  | .dxfer o => (0x10, encDC o) | .dcoll o => (0x11, encDC o)
  | .dldi d i => (0x20, encAB d 0 i.toNat) | .daddi d a i => (0x21, encAB d a i.toNat)
  | .dqget d q => (0x22, encAB d q.code 0) | .dloop a i => (0x23, encAB 0 a i.toNat) | .dbnz a i => (0x24, encAB 0 a i.toNat)
  | .unassignedOpcode op o => (op.toNat, o.toNat)
  | _ => (0, 0)

/-- The word of an instruction with its annotations (R24). -/
def encodeNat (e : Engine) (ann : Ann) (i : Instr) : Nat :=
  ann.code * 2 ^ 48 + (encodeOp e i).1 * 2 ^ 40 + (encodeOp e i).2
def encode (e : Engine) (ann : Ann) (i : Instr) : Word := BitVec.ofNat 64 (encodeNat e ann i)

/-- The instruction the decoder reads from a word of the opcode table: the table does not say which engine's word it is,
so the engines are tried in stream-index order and the first that has the word is taken. -/
def decodeTableEngine (w : Nat) : Option (Engine × Instr) :=
  let try1 (e : Engine) : Option (Engine × Instr) :=
    match decodeNat e (w % 2 ^ 64) with
    | .ok (_, .unassignedOpcode _ _) => none
    | .ok (_, i) => some (e, i)
    | .error _ => none
  (try1 .c) <|> (try1 .a) <|> (try1 .v) <|> (try1 .m) <|> (try1 .d)
/-- The instruction of a table word; every word is 64 bits, and the bits above `nbits` are zero. -/
def decodeTableWord (nbits w : Nat) : Option Instr :=
  (decodeTableEngine (w % 2 ^ Nat.min nbits 64)).map (·.2)

end Sys2Proof
end

