-- ==== Sys2Proof/Config.lean ====
section
/-! DEFINITION. What an implementation fixes and the free values the manual leaves open: opaque constants with no body, so
that no proof can see a value of them (notes/assumptions say which rule leaves each one open). -/
namespace Sys2Proof

/-- A free value of the n-th draw: any natural number (assumption 3). -/
opaque Config.free : Nat → Nat
/-- Free values of the n-th draw, one for each index (the fresh registers after a CALL, the parts of a stopped copy). -/
opaque Config.freeAt : Nat → Nat → Nat
/-- Nanoseconds that pass in the n-th step (assumption 4). -/
opaque Config.elapsed : Nat → Nat
/-- Whether an image carries a valid RSA-4096 PSS signature (R378). -/
opaque Config.imageOk : List Byte → Bool
/-- Whether a firmware image accepts the active complex's state-table version (R379). -/
opaque Config.acceptsTable : List Byte → Bool
/-- Bytes 16 and up of the n-th sealed bank image (R335: the layout is the device's own). -/
opaque Config.sealedByte : (n : Nat) → (off : Nat) → Byte
/-- The GCM tag of the n-th sealed bank image, over its 16 header bytes and the sealed bank (R335). -/
opaque Config.imageTag : (n : Nat) → (header : List Byte) → BitVec 128
/-- The signature over measurement blocks under the device identity key (R381). -/
opaque Config.sign : List Byte → BitVec 4096
/-- The package key-wrapping key of the n-th power-up (R381). -/
opaque Config.packageKey : Nat → Nat
/-- The boot ROM's digest (R381). -/
opaque Config.romDigest : BitVec 512
/-- The package key-wrapping key as exported under the keys of a secured session (R381). -/
opaque Config.exportKey : (packageKey : Nat) → (session : List Byte) → List Byte
/-- The BCH check bytes over a row's ciphertext (R302, R308: the code is not given; assumption 115). -/
opaque Config.bchCheck : (cipher : BitVec 512) → BitVec 64
/-- The plaintext that a row not written under the key now in its region's slot gives (R354: unpredictable), by core, row and key
generation. -/
opaque Config.staleRow : (core row gen : Nat) → BitVec 512
/-- A key as the firmware wraps it for a migration's destination (R361; assumption 120). -/
opaque Config.wrapKey : (packageKey slot key kind : Nat) → (mo : Bool) → List Byte
/-- The first-stage root through which the command processor translates a graph's VA-to-VA copies (R375 names none), by VF (assumption 17). -/
opaque Config.transformRoot : (vf : Nat) → Nat
/-- Which SRAM-die bank (die × 256 + bank) holds a line (R355 names banks, no rule gives the mapping). -/
opaque Config.llcBank : (part gpa : Nat) → Nat

end Sys2Proof
end

