-- ==== Sys2Proof/Machine/Memory.lean ====
section
/-! DEFINITION. Sparse data in canonical form: tables sorted by key, and byte memory as a list of `Host.Cell` with strictly
rising addresses and no entry equal to what an unlisted address reads as, which is 0 (assumption 5). Little-endian (R3). -/
namespace Sys2Proof.Machine

/-- A sparse table: key and value pairs, keys strictly rising. -/
abbrev Table (α : Type) := List (Nat × α)

/-- The entry of a key. -/
def Table.find? {α : Type} : Table α → Nat → Option α
  | [], _ => none
  | (k, v) :: t, a => if k = a then some v else Table.find? t a
/-- The entry of a key, or a default. -/
def Table.get {α : Type} (t : Table α) (a : Nat) (d : α) : α := (Table.find? t a).getD d
/-- Sets the entry of a key. -/
def Table.put {α : Type} : Table α → Nat → α → Table α
  | [], a, v => [(a, v)]
  | (k, w) :: t, a, v => if a < k then (a, v) :: (k, w) :: t else if a = k then (a, v) :: t else (k, w) :: Table.put t a v
/-- Removes the entry of a key. -/
def Table.del {α : Type} (t : Table α) (a : Nat) : Table α := t.filter (fun e => e.1 ≠ a)

/-- Byte memory: listed bytes, addresses strictly rising, none of them 0. -/
abbrev Memory := List Host.Cell

/-- What an unlisted address reads as (assumption 5). -/
def Memory.unlisted : Byte := 0

/-- The byte at an address. -/
def Memory.read : Memory → Nat → Byte
  | [], _ => Memory.unlisted
  | (k, v) :: m, a => if k = a then v else Memory.read m a

/-- Removes the entry of an address from a list of rising addresses. -/
def Memory.erase : Memory → Nat → Memory
  | [], _ => []
  | (k, v) :: m, a => if k = a then m else (k, v) :: Memory.erase m a
/-- Inserts a nonzero byte. -/
def Memory.insert : Memory → Nat → Byte → Memory
  | [], a, v => [(a, v)]
  | (k, w) :: m, a, v => if a < k then (a, v) :: (k, w) :: m else if a = k then (a, v) :: m else (k, w) :: Memory.insert m a v
/-- Writes one byte; writing what an unlisted address reads as removes the entry. -/
def Memory.write (m : Memory) (a : Nat) (v : Byte) : Memory :=
  if v = Memory.unlisted then Memory.erase m a else Memory.insert m a v

/-- The canonical form: strictly rising addresses from `lo` up, no listed 0. -/
def Memory.wfFrom : Memory → Nat → Bool
  | [], _ => true
  | (k, v) :: m, lo => decide (lo ≤ k) && decide (v ≠ Memory.unlisted) && Memory.wfFrom m (k + 1)
def Memory.wf (m : Memory) : Bool := Memory.wfFrom m 0

/-- `n` bytes from `a`, lowest address first. -/
def Memory.readBytes (m : Memory) (a : Nat) : Nat → List Byte
  | 0 => []
  | n + 1 => m.read a :: Memory.readBytes m (a + 1) n
/-- Writes bytes from `a` up. -/
def Memory.writeBytes (m : Memory) (a : Nat) : List Byte → Memory
  | [] => m
  | b :: bs => Memory.writeBytes (m.write a b) (a + 1) bs

/-- The value of little-endian bytes (R3). -/
def leNat : List Byte → Nat
  | [] => 0
  | b :: bs => b.toNat + 256 * leNat bs
/-- The `n` little-endian bytes of a number (R3). -/
def leBytes (x : Nat) : Nat → List Byte
  | 0 => []
  | n + 1 => BitVec.ofNat 8 x :: leBytes (x / 256) n
/-- A little-endian number of `n` bytes at `a`. -/
def Memory.readLe (m : Memory) (a n : Nat) : Nat := leNat (m.readBytes a n)

end Sys2Proof.Machine
end

