-- ==== Sys2Proof/Machine/State.lean ====
section
/-! DEFINITION. The state of a package as plain data: cores with their seats and banks, scratchpads, the weight tier, LPDDR-6
memory, the pending accesses and requests, partitions, VFs, the host windows and the command processor; and the machine
right after reset. INVENTORY.md lists each field with its rule and reset value. -/
namespace Sys2Proof.Machine

/-- Why the machine stops. -/
inductive Fault where
  /-- Raised by a meaning when the seat that `cur` names holds no live bank. `step` never dispatches such an instruction.
  Safe: the hardware issues nothing there either. -/
  | noStream
deriving DecidableEq, Repr, Inhabited

/-- Instructions without a meaning. -/
inductive Refusal where
  /-- Raised by an arm of `exec` that is not written yet. Safe. -/
  | notModelled (mnemonic : String)
deriving DecidableEq, Repr

/-! ## Streams, traps and jobs -/

/-- Levels (R315). -/
inductive Lvl where | u | s | h
deriving DecidableEq, Repr, Inhabited

/-- A ring descriptor (R27): LEN in words and BASE. -/
structure Ring where
  base : Nat
  len : Nat
deriving DecidableEq, Repr, Inhabited

/-- What a fetch met (R30): a word, an invalid 4-byte part, or an uncorrectable error. -/
inductive Fetched where | word (w : Word) | invalid (part : Nat) | uncorr (addr : Nat)
deriving DecidableEq, Repr, Inhabited

/-- How far an instruction that takes several attempts has come (the model's own record of an instruction in progress). -/
inductive Stage where
  | fresh                            -- nothing of the instruction has happened
  | posted (mark : Nat)              -- its first part is done and is repeated after a diversion or swap (TLBI past step 2)
  | checked                          -- a copy request that has passed its checks and waits to be accepted (R280)
  | second                           -- its first part is done for good (PMRETW past T, an arrival at a barrier, a bank operation)
  | answered (v : Word)              -- its answer has come (PMALLOC's tag, RSTEAL's range)
deriving DecidableEq, Repr, Inhabited

/-- A stall on a refusing target (R356): its place in the order of arrival, the target and the address. -/
structure Stall where
  order : Nat
  target : Nat
  addr : Word
deriving DecidableEq, Repr, Inhabited

/-- The control state of one stream of a seat. -/
structure Ctl where
  started : Bool := false            -- the job starts this stream (R108)
  done : Bool := false               -- it has executed RDV (R109)
  trapped : Bool := false            -- it is stopped at a trapping instruction (R319)
  mo : Bool := false                 -- COMPART (R46): true = model owner
  pc : Nat := 0                      -- ring address of the next word
  npc : Nat := 0                     -- C: the word after it (R91)
  ds : Bool := false                 -- C: the next word lies in a delay slot (R92)
  wd : Bool := false                 -- the next word's wait has been performed (R26)
  wclr : Bool := false               -- and it was of kind 01
  stage : Stage := .fresh
  fetched : Table Fetched := []      -- words fetched ahead, by address (R29)
  failed : List Nat := []            -- words whose fetch ahead has failed and that the stream has not reached since (R325)
  s2stall : Option Nat := none       -- stalled on a second-stage fault: SEQ of the report (R137)
  scrub : Option Stall := none       -- stalled on a refusing target (R356)
deriving DecidableEq, Repr, Inhabited

/-- A trap record: the contents of the six trap registers (R317). -/
structure TrapRec where
  strm : Engine := .c
  cause : Nat := 0
  pc : Nat := 0
  npc : Nat := 0
  addr : Word := 0
  prog : Nat := 0
  pfk : Nat := 0
  wd : Bool := false
  ds : Bool := false
  wpfail : Option Nat := none        -- a WPFAIL record names its weight request (R311)
deriving DecidableEq, Repr, Inhabited

/-- The trap registers as MFS reads them, but for TRAPFL.PEND, which is read from the waiting records (R317, R321). -/
structure TrapRegs where
  c : Word := 0
  npc : Word := 0
  cause : Word := 0
  addr : Word := 0
  strm : Word := 0
  fl : Word := 0
deriving DecidableEq, Repr, Inhabited

/-- The C stream's kept position while its handler runs (R319). -/
structure Kept where
  pc : Nat
  npc : Nat
  ds : Bool
  wd : Bool
  wclr : Bool
  stage : Stage
  started : Bool
  done : Bool
deriving DecidableEq, Repr, Inhabited

/-- A resident window: p0-p7 and l0-l15 (R80). -/
structure Win where
  p : Vector Word 8
  l : Vector Word 16
deriving DecidableEq, Repr

/-- A spill or fill in flight (R84); a spill with the 8-byte words it has written early, one bit each (R87). -/
inductive SpillOp where | spill (written : Nat) | fill
deriving DecidableEq, Repr, Inhabited

/-- A queue entry: 2048 bits (64-bit and 1-bit queues use the low bits), its poison and frame marks (R114, R292, R326). -/
structure QEntry where
  data : Vec
  poison : Bool := false
  frame : Bool := false
deriving DecidableEq, Repr, Inhabited

/-- BLST (R339). -/
structure Blst where
  prog : Nat := 0
  fail : Bool := false
  act : Bool := false
  tseat : Nat := 0
  op : Nat := 0
  step : Nat := 0
deriving DecidableEq, Repr, Inhabited

/-- A gate-table entry (R350): crossings left, size in 4 KiB units, direction (true = out, MO to DO). -/
structure Gate where
  count : Nat
  units : Nat
  out : Bool
deriving DecidableEq, Repr, Inhabited

/-- A WPSTAT record (R312): OUT and the iteration nibbles. -/
structure WpRec where
  out : Nat
  iter : Nat
deriving DecidableEq, Repr, Inhabited

/-! ## The access stream's instruction in progress (R155, R158) -/

/-- Which streaming instruction. -/
inductive AKind where | ald | alds | aldg | ast | asts | astg | apmld
deriving DecidableEq, Repr, Inhabited

structure AInst where
  kind : AKind
  queue : Queue
  base : Word
  aux : Word
  size : Size
  count : Nat
  pm : BitVec 16
  acq : Bool
  rel : Bool
  scope : Scope := .stream
  prog : Nat := 0                    -- blocks already requested
  id : Nat := 0                      -- program-order number of the instruction
  clr : Bool := false                -- its word's wait is of kind 01
  sig : Option (Fin 64) := none      -- the signal its last block sets
deriving DecidableEq, Repr, Inhabited

/-! ## The matrix stream (R226) -/

/-- An accumulator tile: element (i, n) is bits [32(64i+n)+31 : 32(64i+n)]. -/
abbrev Tile := BitVec 131072
/-- A k-step block of up to 16 KiB, byte 0 in the low bits (R228). -/
abbrev Block := BitVec 131072

/-- The condition of a slot: filled; to be filled afresh after a swap, or being so (R259); or why the k-step that consumes it
will trap (R236, R239, R259, R356). -/
inductive SlotMark where
  | ok | refill | filling | invalid (part : Nat) | poison (addr : Nat) | unfillable (addr : Word) | scrub (addr : Word)
deriving DecidableEq, Repr, Inhabited

/-- A stationary slot (R235). -/
structure Slot where
  fromWeight : Bool
  addr : Word                        -- address of the block
  scaleAddr : Option Word
  fmt : Fmt
  bsc : Int
  data : Block
  scales : BitVec 1024
  mark : SlotMark := .ok
deriving DecidableEq, Repr, Inhabited

/-- A load request whose k-steps are not yet all in slots (R235). -/
structure LoadReq where
  id : Nat
  fromWeight : Bool
  addr : Word
  scaleAddr : Option Word
  fmt : Fmt
  bsc : Int
  k : Nat
  filled : Nat := 0
  filling : Bool := false            -- a fill has started (its tokens are spent)
  pre : Table Slot := []             -- blocks read before a later write of the stream overwrites them (R230)
  warned : Bool := false             -- its UNINIT entry is made
  sig : Option (Fin 64) := none
deriving DecidableEq, Repr, Inhabited

/-- Where a product's A operand comes from (R240). -/
inductive ASrc where | sp (addr : Word) | queue (am : Fin 2)
deriving DecidableEq, Repr, Inhabited

/-- What an entry of the array's work is: a product, or an MZERO or MSTZ of a seam that may be relocatable
(R249), or the reads of an MLDZ (R227). -/
inductive TileOp where | mma | mmag | zero | store | load
deriving DecidableEq, Repr, Inhabited

/-- A product (or deferred tile operation) with k-steps not yet applied (R227, R240, R241, R249). -/
structure Product where
  id : Nat
  op : TileOp
  pc : Nat
  z : Fin 4
  src : ASrc
  scaleAddr : Option Word
  k : Nat
  fw : Word
  ptrs : Option (List Word) := none  -- MMAG's table, kept through a resume (R409)
  started : Nat := 0                 -- k-steps started, one bit each
  applied : Nat := 0                 -- k-steps applied, one bit each (a seam may apply them in any order)
  passed : Bool := false             -- the stream has issued past it
  seam : Nat := 0                    -- the number of the seam it stands in, 0 for none
  trapped : Bool := false            -- one of its k-steps has trapped (R258)
  clr : Bool := false                -- its word's wait is of kind 01
  warned : Bool := false             -- its UNINIT entry is made
  sig : Option (Fin 64) := none
deriving DecidableEq, Repr, Inhabited

/-- The instruction the M stream is at, once it has popped its word (R231), with its progress. -/
structure MInst where
  fw : Word
  prog : Nat := 0
  paid : Bool := false               -- an MSTQ that has spent its tokens
deriving DecidableEq, Repr, Inhabited

/-- An aligned 8-byte part of a scratchpad operand that the M stream has read before the rest (R192), or a row that its weight port has
read before the rest (R236, R269): the request or product, its block or k-step, the address or row, and the bytes. Number 0 has the slot
that is filled afresh (0) and the rule of an STEVAL: its inputs (1) and its rows (2). The model's own field. -/
structure MPart where
  id : Nat
  step : Nat
  addr : Nat
  bytes : List Byte
deriving DecidableEq, Repr, Inhabited

/-- What a recalled seam goes back to (R249). -/
structure SeamSnap where
  slots : List Slot
  reqs : List LoadReq
  z : Vector Tile 4
  zk : BitVec 4
deriving DecidableEq, Repr

/-- An open seam, or one that SEAME waits for (R246 to R249). -/
structure Seam where
  id : Nat                           -- its place in program order
  pc : Nat                           -- address of its SEAMB
  fits : Bool := true                -- no condition of R248 is broken so far
  issued : Nat := 0                  -- instructions issued since and with its SEAMB
  count : Nat := 1                   -- those of them that a relocatable seam may hold
  tiles : Nat := 0                   -- tile instructions
  zeroed : BitVec 4 := 0             -- tiles cleared by an MZERO of the seam
  used : BitVec 4 := 0               -- tiles used
  words : List Word := []            -- format words popped in it, oldest first
  closing : Bool := false            -- SEAME waits for it
  performer : Option Nat := none     -- another core that performs it
  snap : Option SeamSnap := none     -- kept when it is relocated
  home : Bool := false               -- a fault or a swap has ended its relocation: it goes on locally
deriving DecidableEq, Repr

/-- One elastic queue at the A port (R250, R292). -/
structure Elastic where
  entries : List QEntry := []
  part : List Byte := []             -- expanded bytes short of an entry
  prev : Option (List Byte) := none  -- the previous expanded block
  pos : Nat := 0                     -- blocks of the frame at the head already expanded
deriving DecidableEq, Repr, Inhabited

/-- A stitch-file entry: eight FP32 values and the depth (R263). An entry that is absent is not valid. -/
structure StEntry where
  vals : List (BitVec 32)
  depth : Nat
deriving DecidableEq, Repr, Inhabited

/-- The batch descriptor of STIN (R263). -/
structure StBatch where
  base : Word
  b : Nat
  fmt : Fmt
  asc : Int
deriving DecidableEq, Repr, Inhabited

/-- The header descriptor of STHDR (R260). -/
structure StHeader where
  addr : Word
  rules : Nat
  tops : Nat
  vfmt : Fmt
  vsc : Int
  width : Nat
  dlim : Nat
  ocol : Nat
  seglen : Nat
deriving DecidableEq, Repr, Inhabited

/-- An STEVAL in progress: the rule it is at and its last rule. -/
structure StEval where
  rule : Nat
  last : Nat
  fw : Word
  paid : Bool := false               -- the rule's tokens are spent
  warned : Bool := false             -- its UNINIT entry is made
deriving DecidableEq, Repr, Inhabited

/-- The stitch state of a seat (R263, R265). -/
structure Stitch where
  file : Table StEntry := []
  batch : Option StBatch := none
  header : Option StHeader := none
  rulesEvaluated : Word := 0
  refsReused : Word := 0
  cycles : Word := 0
  eval : Option StEval := none
  claim : Bool := false              -- the bank holds a saved claim (R265)
deriving DecidableEq, Repr, Inhabited

/-! ## Banks (R334) -/

/-- On-core state that an uncorrectable error has poisoned, but for queue entries (R327): a scalar or vector register, a tile, the
stitch file, or a p or l register of an older resident window, the youngest of which is number 0. -/
inductive BadElem where | reg (r : SReg) | vec (r : Fin 32) | tile (z : Fin 4) | stitch | win (n : Nat) (r : CReg)
deriving DecidableEq, Repr, Inhabited

/-- What the command processor keeps with a job (R372 to R376). -/
structure JobInfo where
  cmpl : Nat := 0                    -- GPA of the completion word, 0 for none
  pktId : Word := 0
  deadTick : Nat := 0
  deadDone : Bool := false
  die : Nat := 0
  queue : Nat := 0
  graph : Option (Nat × Nat) := none -- the graph and node this job serves
deriving DecidableEq, Repr, Inhabited

/-- A bank: everything the manual places in a seat's context (R334). `job` is the bank's identity. -/
structure Bank where
  job : Nat
  vf : Nat
  part : Nat
  lvl : Lvl
  cS : Ctl
  aS : Ctl
  vS : Ctl
  mS : Ctl
  dS : Ctl
  -- control registers and windows (R80 to R89)
  k : Vector Word 8
  win : Win
  q : Vector Word 8
  older : List Win                   -- the other resident windows, youngest first
  spd : Nat
  spill : Option SpillOp
  spillBase : Nat
  spillLim : Nat
  fillTrap : Option (Nat × Word)     -- a fill that met an error: cause and address (R86)
  -- other registers
  x : Vector Word 16
  v : Vector Vec 32
  e : Vector Word 16
  h : Vector Word 16
  d : Vector Word 16
  mask : List Word                   -- the mask stack, top first (R206)
  vmz : Bool                         -- VCTL.MZ
  vtrapIbc : Bool                    -- VCTL.TRAPIBC
  vflags : BitVec 7                  -- VSTAT [6:0]
  -- matrix state (R226)
  z : Vector Tile 4
  zk : BitVec 4                      -- kinds: bit t is 1 when tile t is I32
  slots : List Slot
  reqs : List LoadReq
  prods : List Product
  staging : List QEntry              -- entries of am0 taken for A blocks, and those of am1 (R226)
  staging1 : List QEntry
  mbuf : List MPart                  -- parts of operands read ahead (R192)
  wbuf : Table (List Byte)           -- 8-byte parts of the source of the WPROG that C stands at, read before the rest (R192)
  mwpf : List (Word × Nat)           -- prefetches with parts that have not started: next address and parts left (R238)
  seamHome : Bool                    -- the next seam is one that a swap has recalled: it runs locally (R249)
  minst : Option MInst
  seam : Option Seam
  bubbles : BitVec 32
  ibc : Bool
  elastic0 : Elastic
  elastic1 : Elastic
  stitch : Stitch
  -- stream-scope and seat-scope special registers
  pmC : BitVec 16
  pmA : BitVec 16
  pmD : BitVec 16
  pmWaitLim : BitVec 32
  ut : Bool                          -- SPMODE.UT
  cring : Ring
  aring : Ring
  vring : Ring
  mring : Ring
  dring : Ring
  rlo : Word
  rhi : Word
  blst : Blst
  -- supervisor block (R316)
  hring : Ring
  saveva : Word
  root : Nat                         -- first-stage root GPA (R132)
  -- signals, tags, queues
  sg : BitVec 64
  tagbits : BitVec 64
  status : Table (BitVec 8)          -- STATUS (R281); a tag not listed holds 0
  queues : Table (List QEntry)       -- by queue code, head first
  qhead : Table Nat                  -- HEAD by queue code: entries popped, modulo the depth (R408)
  fqClosed : Bool
  bad : List BadElem                 -- registers, tiles and stitch file poisoned by an uncorrectable error (R326, R327)
  ainst : Option AInst
  hints : Nat                        -- entries of the hint queue in use (R293)
  wpstat : Table WpRec               -- WPSTAT records; a tag not listed reads none
  wfe : Bool                         -- WFE's event latch (R343)
  -- traps (R317 to R323)
  trap : TrapRegs
  handling : Bool                    -- the trap registers hold a trap that no RTE has ended
  handler : Bool                     -- C is in handler mode
  kept : Option Kept
  waiting : List TrapRec
  stopped : Bool                     -- SEATSTOP (R322)
  ended : Bool                       -- RTE with TRAPFL.END (R323)
  -- job data
  gates : List Gate
  ssPart : Bool                      -- superstep participant
  sslot : Nat
  t0 : Option Nat                    -- TIMEBASE at the last SSTEP left (R299)
  info : JobInfo
  steals : List (Nat × Bool)         -- pending steal requests on this seat, oldest first: the requesters' jobs, and whether their handlers ask (R126)
  -- background save (R337)
  saving : Bool
  saved : Bool                       -- the last background save completed
  saveStall : Option Nat             -- the save is stalled on a second-stage fault: SEQ of the report
  saveProg : Nat                     -- 4 KiB units it has written
  saveLine : Nat                     -- 64-byte lines of the next unit that it has written
  saveN : Nat                        -- the number of the image it writes
  evict : Option Nat                 -- the firmware evicts it (R359): 0 from the live bank, 1 from the shadow
  -- a SWAPB that has issued (R336)
  swapping : Bool                    -- its C stream is in a SWAPB
  frozen : Option Nat                -- the job whose SWAPB stops its streams
deriving DecidableEq, Repr

/-- A seat's shadow bank (R334): EMPTY, LOADING or LOADED. -/
inductive Shadow where | empty | loading (b : Option Bank) | loaded (b : Bank)
deriving DecidableEq, Repr

/-- A seat: its live bank (none when the seat is empty) and its shadow bank. -/
structure Seat where
  live : Option Bank
  shadow : Shadow
deriving DecidableEq, Repr

/-! ## Cores -/

/-- The scheduler state of one engine of a core (R129). -/
structure Sched where
  cyc : Nat := 0
  refilled : Bool := false           -- the round start of this cycle is done
  c : Table Int := []                -- deficit counters by VF
  vp : Nat := 3
  sp : Table Nat := []               -- last seat by VF
deriving DecidableEq, Repr, Inhabited

/-- A log entry (R330). -/
structure LogEntry where
  kind : Nat
  spec : Bool
  strm : Nat
  cid : Nat
  detail : Nat
  addr : Word
deriving DecidableEq, Repr, Inhabited

/-- One seat's part of the core error log (R329). -/
structure LogPart where
  entries : List (Nat × LogEntry) := [] -- oldest first with their order of arrival, at most 63
  dropped : Nat := 0
  dropOrder : Nat := 0
  dropCid : Nat := 0
deriving DecidableEq, Repr, Inhabited

/-- A weight-programming request (R308). -/
structure WReq where
  id : Nat
  job : Nat
  vf : Nat
  part : Nat
  seat : Nat
  tag : Fin 64
  row : Nat                          -- logical row
  addr : Word
  data : BitVec 512
  out : Nat := 1                     -- OUT of R312: 1 in flight, then 2, 3 or 4
  iter : Nat := 0
  remapped : Bool := false           -- a REMAP has been made for it
  target : Option Nat := none        -- the physical row it is programming (R306)
  recorded : Bool := false           -- its WPFAIL record exists
  begun : Bool := false              -- its programming has begun (R310)
deriving DecidableEq, Repr, Inhabited

/-- A WSEAL in progress (R314): its job, its region's place in the table, and its place among the accepted WPROGs. -/
structure Seal where
  job : Nat
  region : Nat
  order : Nat
deriving DecidableEq, Repr, Inhabited

/-- A stream waiting for heat tokens of a column, in the order they began to wait (R253). -/
structure TokWait where
  core : Nat
  job : Nat
  what : Nat                         -- program-order number of the waiting action
deriving DecidableEq, Repr, Inhabited

/-- A core (R7, R9, R11): four seats, scratchpad with valid bits, unit owners, schedulers, tokens, log, weight engine. -/
structure Core where
  seats : Vector Seat 4
  sp : Memory
  valid : BitVec 98304               -- one bit per aligned 4-byte part (R144)
  poison : BitVec 98304              -- poisoned parts (R326)
  owner : Table (Nat × Nat)          -- unit to (seat, VF) (R143)
  mo : BitVec 96                     -- units labelled MO (R347)
  scrubbing : BitVec 96              -- units refusing access (R355)
  schedC : Sched
  schedA : Sched
  schedV : Sched
  schedM : Sched
  schedD : Sched
  tokens : Nat
  tokmax : Nat
  tokrate : Nat
  tokWait : List TokWait
  stOwner : Option Nat               -- seat that owns the stitch file (R264)
  stWait : List Nat                  -- jobs waiting for it, oldest first
  log : Vector LogPart 4
  wreqs : List WReq
  seals : List Seal
  lanes : Table Nat                  -- spare bus lanes in use, each with the lane that it stands for (R328)
deriving DecidableEq, Repr

/-! ## The weight tier: non-volatile (R302 to R307) -/

/-- A physical row (R302). -/
structure PhysRow where
  data : BitVec 512 := 0
  version : BitVec 32 := 0
  wear : Nat := 0
  failed : Bool := false
  bad : Bool := false                -- uncorrectable when read
  check : BitVec 64 := 0             -- the BCH check bytes over the ciphertext (R302)
  under : Option (Nat × Nat) := none -- the key slot and key it is encrypted under, none once that key is erased (R354)
deriving DecidableEq, Repr, Inhabited

/-- A row-map entry: physical rows and the row version (R305). -/
structure MapEntry where
  cur : Nat
  alt : Nat
  version : Nat
deriving DecidableEq, Repr, Inhabited

/-- A weight region (R304, R390). -/
structure Region where
  base : Nat := 0
  len : Nat := 0
  vf : Nat := 0xFF
  key : Nat := 0
  dirty : Bool := false
  digest : BitVec 512 := 0
deriving DecidableEq, Repr, Inhabited

/-- One core's slice of the weight tier. -/
structure Slice where
  phys : Table PhysRow := []
  map : Table MapEntry := []
  nextSpare : Nat := 0x140000        -- spare rows are taken in rising order
  spares : Nat := 131072
  regions : Table Region := []
  wlim : Nat := 1000000
  fwArea : Memory := []              -- the firmware state area (R303)
deriving DecidableEq, Repr, Inhabited

/-! ## Memory beyond the cores -/

/-- The ordering kind of a page (R133), or scratchpad and cluster window (R184). -/
inductive OrdKind where | so | rc | uo | sp
deriving DecidableEq, Repr, Inhabited

/-- A location an access reaches (R18, R180): scratchpad of a core; a GPA of a partition under a postmark (0 for the base) with the PA
and key slot its translation gave; a weight-space byte of a core. -/
inductive Loc where
  | sp (core off : Nat)
  | mem (part m gpa pa key : Nat)
  | wt (core off : Nat)
deriving DecidableEq, Repr, Inhabited

/-- One element of an access (R180, R192): its location, its length, its ordering kind; a store's bytes or a load's result. -/
structure Elem where
  loc : Loc
  len : Nat
  ord : OrdKind
  write : Bool
  bytes : List Byte
  done : Bool := false
  poison : Bool := false
  frame : Bool := false              -- the line carried the frame flag when it was read (R292)
  seen : Nat := 0                    -- a store not yet done: the widest scope it is performed at, 0 for none (R182, R186)
deriving DecidableEq, Repr, Inhabited

/-- The atomic operations (R197, R199). -/
inductive AmoOp where | add | and | or | xor | min | max | minn | maxn | swp | cas | fadd
deriving DecidableEq, Repr, Inhabited

/-- What an access is for. -/
inductive AccKind where
  | load (d : CReg) (size : Size) (x : Bool)
  | store
  | amo (op : AmoOp) (d : CReg) (size : Size) (y z : Word)
  | blockLoad (queue : Queue) (size : Size) (frame : Bool)
  | blockStore
  | tile                             -- writes of MSTZ and STOUT
  | fence (kinds : BitVec 4)
  | sigset                           -- a SIGSET, or a kind-10 annotation waiting for earlier accesses
deriving DecidableEq, Repr, Inhabited

/-- An access that has issued and is not yet performed (R182, R184). -/
structure Access where
  id : Nat
  inst : Nat := 0                    -- the streaming instruction it belongs to (its program-order number)
  job : Nat
  core : Nat
  seat : Nat
  eng : Engine
  vf : Nat
  part : Nat
  kind : AccKind
  elems : List Elem
  acq : Bool := false
  rel : Bool := false
  scope : Scope := .stream
  sig : Option (Fin 64) := none      -- signal to set when performed
  va : Word := 0                     -- the address the instruction gave
  pc : Nat := 0
  npc : Nat := 0
  ds : Bool := false
  wd : Bool := false
deriving DecidableEq, Repr, Inhabited

/-- A key slot, the same on every die (R352, R353): its key, kind and generation. -/
structure KeySlot where
  key : Nat
  kind : Nat
  vf : Nat
  mo : Bool
  gen : Nat
deriving DecidableEq, Repr, Inhabited

/-- What LPDDR-6 holds with a 64-byte line: the key slot and generation it was sealed under (none in the zero state, R355),
poison (R326), the frame flag (R292). -/
structure LineMeta where
  keygen : Option (Nat × Nat) := none
  poison : Bool := false
  frame : Bool := false
deriving DecidableEq, Repr, Inhabited

/-- An LLC line: its tag, a cell line with its postmark; the translation kept with it (R136), and what LPDDR-6 held when it was allocated. -/
structure LlcLine where
  part : Nat
  m : Nat := 0
  gpa : Nat                          -- line-aligned
  pa : Nat
  key : Nat
  r : Bool
  w : Bool
  vf : Nat                           -- the VF of its containment ID
  clean : List Byte
  cleanMeta : LineMeta := {}
deriving DecidableEq, Repr, Inhabited

/-- A TLB entry (R132, R138): the engine's TLB that holds it and the leaf. -/
structure TlbEntry where
  core : Nat
  eng : Engine
  vf : Nat
  root : Nat
  va : Nat                           -- page-aligned 55-bit address
  big : Bool                         -- a 512 MiB page
  leaf : Word
deriving DecidableEq, Repr, Inhabited

/-- A materialised cell line (R19, R169, R193): its postmark location and its pool line. -/
structure Cell where
  m : Nat
  gpa : Nat
  line : Nat
  key : Nat := 0                     -- the key slot the line was sealed under when it was materialised (R193)
deriving DecidableEq, Repr, Inhabited

/-- States of a postmark value (R162); a value not listed is free. -/
inductive PmState where | live (vf : Nat) | dead
deriving DecidableEq, Repr, Inhabited

/-- A write stalled for a pool line (R166): its place in the order and who waits. -/
structure PoolWait where
  id : Nat
  job : Nat
  eng : Engine
  m : Nat
  gpa : Nat
  va : Word
  lim : Nat                          -- PMWAITLIM as read when the stall began (R167)
  granted : Option Nat := none       -- the pool line given to it
deriving DecidableEq, Repr, Inhabited

/-- A stream named by its bank and engine; `pkg` is 0 for this package, else it names another package of the partition, whose
own number for the bank `job` then is (R120). -/
structure StreamId where
  job : Nat
  eng : Engine
  pkg : Nat := 0
deriving DecidableEq, Repr, Inhabited

/-- A group (R15, R120, R123). -/
structure Group where
  id : Nat
  members : List StreamId
  required : List StreamId := []
  arrived : List StreamId := []
  released : List StreamId := []     -- released by the last completed episode and not yet past their GBAR
  episode : Nat := 0
  isOpen : Bool := false             -- someone has arrived in the open episode
deriving DecidableEq, Repr, Inhabited

/-- A partition (R344, R365): its descriptor and what the device holds for it. -/
structure Partition where
  clusters : BitVec 96 := 0
  s2root : Nat := 0
  pmtags : Nat := 4096
  poolBase : Nat := 0
  poolLines : Nat := 0
  btBase : Nat := 0
  btBlocks : Nat := 0
  btKey : Nat := 0
  tickper : Nat := 33333333
  pkgCount : Nat := 0
  pkgIndex : Nat := 0
  sslotMax : Nat := 0
  valid : Bool := false
  tickno : Nat := 0
  nextEdge : Nat := 0                -- TIMEBASE of the next tick edge
  pm : Table PmState := []
  pmNext : Nat := 1
  pmReqs : List (Nat × Nat) := []    -- waiting PMALLOCs: (job, VF), oldest first
  cells : List Cell := []
  freeLines : List Nat := []         -- pool lines that have been returned
  usedLines : Nat := 0               -- pool lines ever taken from the bottom up
  returning : List (Nat × Nat) := [] -- (postmark, line) of retired postmarks not yet returned
  poolWait : List PoolWait := []
  groups : List Group := []
  joinWait : List (StreamId × Nat) := []
  ssArrived : List Nat := []         -- jobs that have issued the open SSTEP
  ssReleased : List Nat := []
  ssRemote : Bool := false           -- the other packages' participants have issued it
  btMap : Table Nat := []            -- slot (sequence, layer, block) to physical block
  btCount : Table Nat := []          -- reference counts of physical blocks in use
deriving DecidableEq, Repr, Inhabited

/-- A mailbox report without its SEQ (R332). -/
structure Report where
  type : Nat
  walk : Bool := false
  strm : Nat := 0xFF
  cid : Nat := 0
  seat : Nat := 0xFFFF               -- 4 × core + seat, or 0xFFFF
  a1 : Nat := 0
  a2 : Nat := 0
  detail : Nat := 0
deriving DecidableEq, Repr, Inhabited

/-- A report to a VF's mailbox that is not yet written, and the SEQ of the STAGE2 report it waits for (R137, R332). -/
structure PendReport where
  report : Report
  s2stall : Option Nat := none
deriving DecidableEq, Repr, Inhabited

/-- A mailbox ring (R332, R364, R367). -/
structure Mailbox where
  base : Nat := 0
  size : Nat := 0
  wr : Nat := 0
  rd : Nat := 0
  drop : Nat := 0
  lost : Bool := false
  seq : Nat := 0
deriving DecidableEq, Repr, Inhabited

/-- A software queue (R368, R369). -/
structure SwQueue where
  logsize : Nat := 0
  die : Nat := 0
  cls : Nat := 0
  watch : Bool := false
  en : Bool := false
  base : Nat := 0                    -- GPA
  wr : Nat := 0
  rd : Nat := 0
  waitSince : Nat := 0               -- order in which it began to wait for a slot
  busy : Bool := false               -- its packet at RD is being dispatched
  closing : Bool := false            -- EN = 0 written while a packet is being dispatched
  pf : Bool := false                 -- the PF submits to it (R374)
  next : Option Nat := none          -- the descriptor it takes once the packet is dispatched (R368)
  s2stall : Option Nat := none       -- the reading of its packet has stalled on a second-stage fault: SEQ of the report (R137)
deriving DecidableEq, Repr, Inhabited

/-- A VF (R345, R365). -/
structure Vf where
  partition : Nat := 0xFF
  home : Nat := 0
  weight : Nat := 0
  valid : Bool := false
  reset : Bool := false
  mobase : Nat := 0
  molen : Nat := 0
  mbox : Mailbox := {}
  reports : List PendReport := []    -- reports to it that stall, oldest first (R332)
  qpage : Nat := 0
  queues : Table SwQueue := []
  deadPeers : List Nat := []         -- packages on which the VF has been reset during a transfer (R301)
  migrating : Nat := 0               -- a migration from here (R361): 0 none, 1 transfer, 2 the peer is ready, 3 erased
  migId : Nat := 0
  migDone : Bool := false            -- a migration to here has been confirmed (R361)
  lost : Bool := false               -- a migration has lost it (R362)
  msix : List Nat := []              -- its MSI-X vectors fired, oldest first (R363)
deriving DecidableEq, Repr, Inhabited

/-! ## Copy-engine requests (R280) -/

/-- The instruction of a request. -/
inductive CopyKind where | dcopy | dfill | dgath | dpfa | dbtw | dbtr | dbtsh | dbtfree | dxfer | dcoll
deriving DecidableEq, Repr, Inhabited

structure CopyReq where
  id : Nat
  job : Nat
  core : Nat
  seat : Nat
  vf : Nat
  part : Nat
  kind : CopyKind
  dst : Word
  src : Word
  aux : Word                         -- the register after src (DGATH's index array)
  len : Word
  tag : Fin 64
  acq : Bool
  rel : Bool
  scope : Scope
  ep : Nat
  pm : BitVec 16
  mo : Bool
  lvl : Lvl
  root : Nat
  ut : Bool
  rings : List (Nat × Nat) := []     -- ring ranges of the destination core at acceptance: base and bytes (R140 step 6)
  ring : Bool := false               -- its destination overlaps one of them
  stage : Nat := 0                   -- 0 before its parts, 1 at its parts, 2 finished (see Machine/Copy.lean)
  read : Table (List Byte × Bool) := [] -- pieces of parts that are read and not yet written, with their poison
  wr : Table Nat := []               -- parts partly written, a byte at a time: the bytes written, one bit each
  xl : Table (Nat × Table Loc) := [] -- 64-byte destination units in progress: when they began, the lines translated for them (R194)
  fbuf : Table (List Byte × Bool) := [] -- pieces read of the header or frame that is to be read next
  claims : List Nat := []            -- unsealed pages it is the first to reseal (R358)
  done : Nat := 0                    -- parts written, one bit each
  bad : Nat := 0                     -- parts written poisoned
  note : Nat := 0                    -- the first status other than OK of a request that goes on
  status : Option Nat := none        -- the status a request has stopped with
  warned : Bool := false             -- its UNINIT entry is made
  s2stall : Option Nat := none       -- stalled on a second-stage fault: SEQ of the report
  refused : Option Stall := none     -- stalled on a refusing target
  idx : Table Word := []             -- DGATH: indices read
  comp : Option (Nat × Nat × Nat) := none -- a compressed buffer: BLOCKS, FRAMES, effective point
  frames : Nat := 0                  -- frames expanded
  exp : List Byte := []              -- bytes expanded, or taken from a block-table block
  expBad : List Nat := []            -- poisoned 64-byte lines of those
  pos : Nat := 0                     -- DPFA: entries dealt with; DBTSH, DBTFREE: the next slot
  place : Nat := 0                   -- DPFA: the next place
  entry : Option (Nat × Nat) := none -- DPFA: the adapter being staged: its VA and its bytes
  peer : Option PeerData := none     -- what has come from the peer of a transfer
deriving DecidableEq, Repr, Inhabited

/-! ## The host side (R363 to R382) -/

/-- A hardware slot of a die (R370): the VF and software queue it holds. -/
structure HwSlot where
  vf : Nat
  part : Nat := 0                    -- the VF's partition when it was given to the queue
  queue : Nat
  since : Nat := 0                   -- when it was given to the queue
  aborted : Nat := 0
  reclaim : Bool := false            -- its VF has been reset (R377)
deriving DecidableEq, Repr, Inhabited

/-- A register image entry of a job record: stream, code, class, part, value (R373). -/
structure RegImage where
  strm : Nat
  code : Nat
  cls : Nat
  part : Nat
  val : Word
deriving DecidableEq, Repr, Inhabited

/-- A job record as read and checked (R373): its six rings are the C, A, V, M and D rings and HRING. -/
structure JobRec where
  started : Nat
  lvl : Lvl
  ss : Bool
  compart : Nat
  ut : Bool
  core : Option Nat                  -- target core within the die
  seat : Option Nat
  reltick : Nat
  deadtick : Nat
  root : Nat
  saveva : Word
  sslot : Nat
  rlo : Word
  rhi : Word
  spillBase : Nat
  spillLim : Nat
  pmWaitLim : BitVec 32
  rings : List Ring
  mo : BitVec 96
  regs : List RegImage
  images : List (List Word)          -- by ring
  relocs : List (Nat × Nat × Nat)    -- kind, ring, byte offset
  gates : List Gate
deriving DecidableEq, Repr, Inhabited

/-- A launch that has been read and checked and waits for its tick or its seat (R374, R376), or whose bank is being written. -/
structure PendLaunch where
  vf : Nat
  die : Nat
  record : JobRec
  info : JobInfo
  target : Option (Nat × Nat) := none -- the seat its bank is being written to
deriving DecidableEq, Repr, Inhabited

/-- A graph node (R375). -/
structure GraphNode where
  launch : Bool
  w1 : Nat                           -- record GPA, or the destination of a transform
  w2 : Nat
  w3 : Nat
  dep : Nat
  succ : List Nat
  dispatched : Bool := false
  read : Table (List Byte) := []     -- a transform: pieces read and not yet written (R192)
  written : Nat := 0                 -- and pieces written, one bit each
  ended : Bool := false              -- its job has retired, or its copy is performed
  done : Bool := false
deriving DecidableEq, Repr, Inhabited

structure Graph where
  id : Nat
  vf : Nat
  die : Nat
  info : JobInfo
  pf : Bool
  nodes : List GraphNode
  s2stall : Option Nat := none       -- a transform has stalled on a second-stage fault: SEQ of the report
deriving DecidableEq, Repr, Inhabited

/-- What a migration's destination keeps in its escrow slot (R361): the transfer's ID and digest, what came with it, and the keys (slot,
key, kind, compartment). -/
structure Escrow where
  id : Nat
  digest : BitVec 512
  data : List Byte
  keys : List (Nat × Nat × Nat × Bool)
  ready : Bool := false              -- *ready* is reported: phase 2
  erased : Bool := false             -- the source has reported *erased*: phase 3
deriving DecidableEq, Repr, Inhabited

/-- A failed counter-tree node (R352, R357): its level, counted from the top, the pages beneath it, for a node of one key ID that key,
and the pages that the firmware has reported to a VF. -/
structure NodeFail where
  level : Nat
  lo : Nat
  pages : Nat
  key : Nat
  told : List (Nat × Nat) := []
deriving DecidableEq, Repr, Inhabited

/-- A running or waiting scrub (R355). -/
structure Scrub where
  kind : Nat
  start : Nat
  count : Nat
  complete : Bool := false
  mark : Nat := 0                    -- accesses from before it may still be performed (R355)
deriving DecidableEq, Repr, Inhabited

/-- A signal on its way (R113). -/
structure SigFlight where
  vf : Nat
  part : Nat
  job : Nat                          -- the issuing bank
  src : Nat                          -- issuing core and seat as 4 × core + seat
  target : Word
  sig : Fin 64
  done : Option (Fin 64) := none     -- kind-10 annotation of the SIGX
  id : Nat := 0                      -- its place in its stream's order
deriving DecidableEq, Repr, Inhabited

/-- A sealed save image (R335): its bytes stand in memory; what it seals is here, named by its number. -/
structure SaveImage where
  n : Nat
  bank : Bank
  header : Option Loc                -- where its header was written
  inflight : Nat                     -- INFLIGHT as written there
  old : Bool := false                -- the bank has gone live again, or its job has ended
deriving DecidableEq, Repr

/-- A bank operation in progress: BANKLD or BANKST (R338, R339). -/
structure BankOp where
  core : Nat
  issuer : Nat                       -- job of the issuing bank
  tseat : Nat
  va : Word
  load : Bool
  lvl : Lvl
  vf : Nat
  part : Nat
  root : Nat
  line : Nat := 0                    -- 64-byte lines of the unit BLST.PROG that it has moved
  n : Nat := 0                       -- BANKST: the number of the image
  subject : Nat := 0                 -- BANKST: the job of the bank
  cands : List Nat := []             -- BANKLD: the images that agree with the units read so far
  fault : Option (Nat × Word) := none -- the fault its instruction raises (Machine/Banks.lean): its code and address
  raised : Bool := false             -- it has been raised
  s2stall : Option Nat := none
  refused : Option Stall := none     -- stalled on a refusing target (R356)
deriving DecidableEq, Repr, Inhabited

/-- A completion word that is not yet written (R137, R372). -/
structure PendCmpl where
  vf : Nat
  part : Nat
  gpa : Nat
  val : Nat
  s2stall : Option Nat := none       -- stalled on a second-stage fault: SEQ of the report
deriving DecidableEq, Repr, Inhabited

/-- The firmware and device registers of the PF window (R364, R366). -/
structure Device where
  powered : Bool := true
  fwState : Nat := 1                 -- 0 ROM, 1 waiting for an image, 2 running, 3 failed
  activeDie7 : Bool := false         -- the active complex is on die 7, not 0 (R10)
  updating : Bool := false
  thermal : Bool := false
  fwLen : Nat := 0
  fail : Bool := false
  busy : Bool := false
  image : List Byte := []            -- the image being checked or running
  checked : Bool := false            -- its signature is verified (start-up may go on)
  slotshare : Table Nat := []        -- die × 4 + class to share; 16 when not listed
  spareTurn : Nat := 0               -- the class whose turn the unshared slots have (R371)
  pfBox : Mailbox := {}
  corrected : Table Nat := []        -- corrected-error counters by store × 8 + die
  msix : List Nat := []              -- PF MSI-X vectors fired, oldest first
  bootCount : Nat := 0               -- power-ups (package key, R381)
  fwDigest : BitVec 512 := 0
  manifest : List Byte := []         -- region manifest of the last start-up (R381)
  outbox : List Byte := []           -- the last measurement or key export sent to the host
  escrow : Table Escrow := []        -- migration escrow by VF (non-volatile)
  resizing : List Nat := []          -- cores whose seats the firmware evicts (R359)
  removed : List Nat := []           -- cores removed from their partition (R359)
  cmpl : List PendCmpl := []         -- completion words that stall (R372)
  spdm : Nat := 0                    -- SPDM session control (R364)
  answer : Nat := 0                  -- the STAGE2 answer register (R364)
deriving DecidableEq, Repr, Inhabited

/-! ## Turns -/

/-- The transaction that meets an error (R326): one of a stream of the seat's live bank, the seat's background save, an access, copy request
or weight request by its number, whose bank may have been swapped out, or one that the device makes on its own account. -/
inductive Txn where
  | stream (e : Engine) | save | access (id : Nat) | copy (id : Nat) | weight (id : Nat) | device
deriving DecidableEq, Repr, Inhabited

/-- Spontaneous actions of the hardware that have no row in the opcode table. `who` names the transaction that meets an error. -/
inductive HwEvent where
  | fetchAhead (core seat : Nat) (e : Engine)
  | prefetchWalk (core seat : Nat)
  | evictTlb (n : Nat)
  | evictLlc (n : Nat)
  | corrected (core seat : Nat) (who : Txn) (store addr bits : Nat)
  | uncorrSp (core seat : Nat) (who : Txn) (unit32 : Nat)
  | uncorrLine (core seat : Nat) (who : Txn) (store pa : Nat)
  | uncorrQueue (core seat : Nat) (who : Txn) (queue idx : Nat)
  | uncorrElem (core seat : Nat) (who : Txn) (x : BadElem)
  | uncorrRow (core seat : Nat) (who : Txn) (row : Nat)
  | busRetry (core seat : Nat) (who : Txn) (gpa retries beat : Nat)
  | busPoison (core seat : Nat) (who : Txn) (gpa pa beat : Nat)
  | laneSwap (core seat : Nat) (who : Txn) (gpa pa lane : Nat)
  | spillWord (core seat word : Nat)
  | remoteSuperstep (part : Nat)
  | remoteGroup (part id op : Nat) (t : StreamId)
  | copyStep (id part : Nat)
  | weightRow (core seat : Nat) (scales : Bool)
  | mPart (core seat id step addr : Nat)
  | ruleRow (core seat row : Nat)
  | prefetchPart (core seat : Nat)
  | wprogPart (core seat part : Nat)
  | bankUnit (n : Nat)
  | saveUnit (core seat : Nat)
  | cmplWord (n : Nat)
  | imageHeaders
  | vfReport (vf : Nat)
  | fwStore (core addr val : Nat)
  | expand (core seat q : Nat)
  | idle
deriving DecidableEq, Repr, Inhabited

/-- Whose turn it is: an engine of a core, an event row with its input, or the hardware itself. -/
inductive Turn where
  | engine (core : Nat) (e : Engine)
  | event (i : Instr) (ev : EventIn)
  | hw (h : HwEvent)
deriving DecidableEq, Repr, Inhabited

/-- A bank as a migration's transfer carries it (R361; assumption 120). -/
opaque Config.bankState : Bank → List Byte
/-- The turn taken in the n-th step when the agenda is empty (assumption 2). -/
opaque Config.nextTurn : Nat → Turn

/-- What the current step runs: the stream of an instruction with the word's wait and signal, or an event's input; and
whether the attempt was blocked. The model's own field. -/
structure Cur where
  core : Nat := 0
  seat : Nat := 0
  eng : Engine := .c
  ann : Ann := ⟨.none, .none⟩
  blocked : Bool := false
  consumes : Bool := false           -- the instruction reads a poisoned register or tile, or the stitch file (R326)
  ev : EventIn := {}
deriving DecidableEq, Repr, Inhabited

/-- The package. -/
structure State where
  cores : Table Core                 -- a core not listed is as after reset
  tier : Table Slice                 -- weight slices by core
  dram : Memory                      -- LPDDR-6 by PA
  host : Memory                      -- host memory, which the PF mailbox is written to (R332, R363)
  metas : Table LineMeta             -- line metadata by PA / 64
  unsealed : List Nat                -- unsealed 64 KiB pages by PA / 65536 (R357)
  resealed : List Nat                -- lines of those, by PA / 64, that have been resealed on their own (R172, R358)
  scrubs : List Scrub                -- running and waiting scrubs, oldest first
  llc : List LlcLine
  tlb : List TlbEntry
  acc : List Access                  -- pending accesses, oldest first
  copies : List CopyReq
  sigs : List SigFlight
  images : List SaveImage
  bankOps : List BankOp
  keys : Table KeySlot               -- key slots; a slot not listed is empty
  keyGen : Nat
  parts : Table Partition            -- a partition not listed is as after reset
  vfs : Table Vf
  slots : Table HwSlot               -- die × 64 + slot
  launches : List PendLaunch
  graphs : List Graph
  integ : List NodeFail              -- failed counter-tree nodes, of which the firmware reports (R357)
  dev : Device
  timebase : Nat
  nextId : Nat                       -- numbers given to accesses, requests and banks
  ctr : Nat                          -- counter of steps and draws of free values
  agenda : List Turn
  cur : Cur
deriving DecidableEq, Repr

/-! ## Reset (R21, R46, R365, R366) -/

/-- An empty seat. -/
def Seat.reset : Seat := ⟨none, .empty⟩

/-- A core after power-up: scratchpad all invalid, units free, 65536 tokens, rate 1000. -/
def Core.reset : Core where
  seats := Vector.replicate 4 Seat.reset
  sp := []
  valid := 0
  poison := 0
  owner := []
  mo := 0
  scrubbing := 0
  schedC := {}
  schedA := {}
  schedV := {}
  schedM := {}
  schedD := {}
  tokens := 65536
  tokmax := 65536
  tokrate := 1000
  tokWait := []
  stOwner := none
  stWait := []
  log := Vector.replicate 4 {}
  wreqs := []
  seals := []
  lanes := []

/-- The machine right after power-up, before the host has downloaded firmware. -/
def State.reset : State where
  cores := []
  tier := []
  dram := []
  host := []
  metas := []
  unsealed := []
  resealed := []
  scrubs := []
  llc := []
  tlb := []
  acc := []
  copies := []
  sigs := []
  images := []
  bankOps := []
  keys := [(0, ⟨0, 1, 0x7F, false, 0⟩)]
  keyGen := 1
  parts := []
  vfs := []
  slots := []
  launches := []
  graphs := []
  integ := []
  dev := {}
  timebase := 0
  nextId := 1
  ctr := 0
  agenda := []
  cur := {}

end Sys2Proof.Machine
end

