-- ==== Sys2Proof/Machine/Basic.lean ====
section
/-! DEFINITION. The named reads and writes of the state: cores, seats, banks, streams, rings, registers, windows, signals,
tags and queues. Every register has one home and one read and one write. -/
namespace Sys2Proof

/-- Stream index (R9). -/
def Engine.idx : Engine → Nat | .c => 0 | .a => 1 | .v => 2 | .m => 3 | .d => 4
def Engine.all : List Engine := [.c, .a, .v, .m, .d]
def Engine.ofIdx : Nat → Option Engine
  | 0 => some .c | 1 => some .a | 2 => some .v | 3 => some .m | 4 => some .d | _ => none
/-- Queue depths (R114). -/
def Queue.depth : Queue → Nat
  | .av _ | .am _ | .va0 | .mv0 => 8
  | .ca0 | .cv0 | .cm0 | .cd0 | .fq => 16
  | .bq => 32
/-- The streams that may push, and that may pop (R114). -/
def Queue.pushers : Queue → List Engine
  | .av _ | .am _ => [.a] | .va0 => [.v] | .mv0 => [.m] | .ca0 | .cv0 | .cm0 | .cd0 | .fq => [.c] | .bq => [.c, .a, .v]
def Queue.poppers : Queue → List Engine
  | .av _ | .mv0 | .cv0 => [.v] | .am _ | .cm0 | .fq => [.m] | .va0 | .ca0 => [.a] | .cd0 => [.d] | .bq => [.a, .v]

end Sys2Proof

namespace Sys2Proof.Machine

/-! ## Cores, seats and banks -/

/-- Core `n` (R8). -/
def State.core (s : State) (n : Nat) : Core := s.cores.get n Core.reset
def State.setCore (s : State) (n : Nat) (c : Core) : State := { s with cores := s.cores.put n c }
/-- Seat `i` of a core (R9). -/
def Core.seat (c : Core) (i : Nat) : Seat := c.seats[Fin.ofNat 4 i]
def Core.setSeat (c : Core) (i : Nat) (t : Seat) : Core := { c with seats := c.seats.set (Fin.ofNat 4 i) t }
/-- The live bank of a seat. -/
def State.bank (s : State) (core seat : Nat) : Option Bank := ((s.core core).seat seat).live
/-- Replaces the live bank of a seat. -/
def State.setLive (s : State) (core seat : Nat) (b : Option Bank) : State :=
  let c := s.core core
  s.setCore core (c.setSeat seat { c.seat seat with live := b })
def State.setBank (s : State) (core seat : Nat) (b : Bank) : State := s.setLive core seat (some b)
def State.setShadow (s : State) (core seat : Nat) (t : Shadow) : State :=
  let c := s.core core
  s.setCore core (c.setSeat seat { c.seat seat with shadow := t })

/-- A unit covered by the HRING of a bank in a seat of the core is sealed (R316). -/
def Core.sealed (c : Core) (u : Nat) : Bool :=
  c.seats.toList.any fun t => [t.live, match t.shadow with | .empty => none | .loading b => b | .loaded b => some b].any fun o =>
    o.any fun b => b.hring.len != 0 && b.hring.base < 4096 * (u + 1) && 4096 * u < b.hring.base + 8 * b.hring.len

/-- Cluster number on the package (die × 12 + cluster), die and cluster of a core (R8). -/
def clusterOf (core : Nat) : Nat := core / 16
def dieOf (core : Nat) : Nat := core / 192
def clusterOnDie (core : Nat) : Nat := core / 16 % 12

def State.part (s : State) (p : Nat) : Partition := s.parts.get p {}
def State.setPart (s : State) (p : Nat) (x : Partition) : State := { s with parts := s.parts.put p x }
def State.vf (s : State) (v : Nat) : Vf := s.vfs.get v {}
def State.setVf (s : State) (v : Nat) (x : Vf) : State := { s with vfs := s.vfs.put v x }
def State.slice (s : State) (c : Nat) : Slice := s.tier.get c {}
def State.setSlice (s : State) (c : Nat) (x : Slice) : State := { s with tier := s.tier.put c x }
/-- Whether a core lies in a partition (R344). -/
def State.coreInPart (s : State) (core p : Nat) : Bool := (s.part p).clusters.getLsbD (clusterOf core)
/-- A fresh number for an access, a request or a bank. -/
def State.fresh (s : State) : Nat × State := (s.nextId, { s with nextId := s.nextId + 1 })
/-- A free value of the current draw (assumption 3), and the next draw. -/
def State.draw (s : State) : Nat × State := (Config.free s.ctr, { s with ctr := s.ctr + 1 })

/-- Where a bank is: live or shadow in a seat, or in a sealed image. -/
inductive Place where | live (core seat : Nat) | shadow (core seat : Nat) | image (n : Nat)
deriving DecidableEq, Repr

/-- The bank a shadow holds. -/
def Shadow.bank : Shadow → Option Bank | .empty => none | .loading b => b | .loaded b => some b
def Shadow.mapBank (f : Bank → Bank) : Shadow → Shadow
  | .empty => .empty | .loading b => .loading (b.map f) | .loaded b => .loaded (f b)
/-- Every bank that is live, with its core and seat. -/
def State.liveBanks (s : State) : List (Nat × Nat × Bank) :=
  s.cores.flatMap fun (n, c) => [0, 1, 2, 3].filterMap fun i => ((c.seat i).live).map fun b => (n, i, b)
/-- The banks of the seats, live and shadow. -/
def State.seatBanks (s : State) : List Bank :=
  s.cores.flatMap fun (_, c) => [0, 1, 2, 3].flatMap fun i => (c.seat i).live.toList ++ (c.seat i).shadow.bank.toList
/-- Every bank the state holds, with its place; images that are no longer current do not count. -/
def State.allBanks (s : State) : List (Place × Bank) :=
  (s.cores.flatMap fun (n, c) => [0, 1, 2, 3].flatMap fun i =>
    (match (c.seat i).live with | some b => [(Place.live n i, b)] | none => [])
      ++ (match (c.seat i).shadow.bank with | some b => [(Place.shadow n i, b)] | none => []))
    ++ (s.images.filter (!·.old)).map fun im => (Place.image im.n, im.bank)
def State.findJob (s : State) (job : Nat) : Option (Place × Bank) := s.allBanks.find? (fun p => p.2.job == job)
/-- Every job the state holds, with one of its banks: a saved bank may stand in a shadow and in its image. -/
def State.jobBanks (s : State) : List Bank :=
  s.allBanks.foldl (fun l x => if l.any (·.job == x.2.job) then l else l ++ [x.2]) []
/-- Applies `f` to the bank of a job wherever it is: live, in a shadow or in an image (R283: a saved bank is updated). -/
def State.mapJob (s : State) (job : Nat) (f : Bank → Bank) : State :=
  let g (b : Bank) : Bank := if b.job = job then f b else b
  { s with
    cores := s.cores.map fun (n, c) =>
      (n, { c with seats := c.seats.map fun t => ⟨t.live.map g, t.shadow.mapBank g⟩ })
    images := s.images.map fun im => if im.old then im else { im with bank := g im.bank } }

/-- A bank with every register at zero: what a job record's registers are loaded over (R108, R200, R226, R373). -/
def Bank.blank (job vf part : Nat) : Bank where
  job := job
  vf := vf
  part := part
  lvl := .u
  cS := {}
  aS := {}
  vS := {}
  mS := {}
  dS := {}
  k := Vector.replicate 8 0
  win := ⟨Vector.replicate 8 0, Vector.replicate 16 0⟩
  q := Vector.replicate 8 0
  older := []
  spd := 0
  spill := none
  spillBase := 0
  spillLim := 0
  fillTrap := none
  x := Vector.replicate 16 0
  v := Vector.replicate 32 0
  e := Vector.replicate 16 0
  h := Vector.replicate 16 0
  d := Vector.replicate 16 0
  mask := []
  vmz := false
  vtrapIbc := false
  vflags := 0
  z := Vector.replicate 4 0
  zk := 0
  slots := []
  reqs := []
  prods := []
  staging := []
  staging1 := []
  mwpf := []
  seamHome := false
  minst := none
  mbuf := []
  wbuf := []
  seam := none
  bubbles := 0
  ibc := false
  elastic0 := {}
  elastic1 := {}
  stitch := {}
  pmC := 0
  pmA := 0
  pmD := 0
  pmWaitLim := 0
  ut := false
  cring := ⟨0, 16⟩
  aring := ⟨0, 16⟩
  vring := ⟨0, 16⟩
  mring := ⟨0, 16⟩
  dring := ⟨0, 16⟩
  rlo := 0
  rhi := 0
  blst := {}
  hring := ⟨0, 0⟩
  saveva := 0
  root := 0
  sg := 0
  tagbits := 0
  status := []
  queues := []
  qhead := []
  fqClosed := false
  bad := []
  ainst := none
  hints := 0
  wpstat := []
  wfe := false
  trap := {}
  handling := false
  handler := false
  kept := none
  waiting := []
  stopped := false
  ended := false
  gates := []
  ssPart := false
  sslot := 0
  t0 := none
  info := {}
  steals := []
  saving := false
  saved := false
  saveStall := none
  saveProg := 0
  saveLine := 0
  saveN := 0
  evict := none
  swapping := false
  frozen := none

/-! ## Scratchpad areas of a job (R374) -/

/-- Two ranges of offsets meet. -/
def meets (lo hi a n : Nat) : Bool := a < hi && lo < a + n
/-- The areas of a record that lie in scratchpad: rings, HRING and the spill area, each with its stream's compartment. -/
def JobRec.areas (r : JobRec) : List (Nat × Nat × Bool) :=
  let mo (i : Nat) : Bool := r.compart.testBit i
  ((r.rings.mapIdx fun i (x : Ring) => (x.base, 8 * x.len, mo (if i = 5 then 0 else i)))
    ++ [(r.spillBase, r.spillLim - r.spillBase, mo 0)]).filter fun x => x.2.1 != 0
/-- The rings, spill area and HRING of a bank. -/
def Bank.areas (b : Bank) : List (Nat × Nat) :=
  (b.spillBase, b.spillLim - b.spillBase) :: [b.cring, b.aring, b.vring, b.mring, b.dring, b.hring].map fun r => (r.base, 8 * r.len)
/-- The areas of a record overlap those of a bank: the bank's job must retire before the record's rings are written (R374). -/
def JobRec.clashes (r : JobRec) (b : Bank) : Bool :=
  b.areas.any fun (a, n) => n != 0 && r.areas.any fun (a', n', _) => meets a (a + n) a' n'

/-! ## Streams and rings -/

def Bank.ctl (b : Bank) : Engine → Ctl
  | .c => b.cS | .a => b.aS | .v => b.vS | .m => b.mS | .d => b.dS
def Bank.setCtl (b : Bank) (e : Engine) (x : Ctl) : Bank :=
  match e with
  | .c => { b with cS := x } | .a => { b with aS := x } | .v => { b with vS := x } | .m => { b with mS := x }
  | .d => { b with dS := x }
/-- The ring a stream runs in; HRING for the C stream in handler mode (R320). -/
def Bank.ring (b : Bank) : Engine → Ring
  | .c => if b.handler then b.hring else b.cring
  | .a => b.aring | .v => b.vring | .m => b.mring | .d => b.dring
/-- `ring_target` of R28; `mod` gives 0 to m − 1, also for negative arguments. -/
def Ring.target (r : Ring) (pc : Nat) (dsp : Int) : Nat :=
  r.base + ((pc - r.base + 8 * dsp : Int) % ((8 * r.len : Nat) : Int)).toNat
/-- `ring_next` of R28. -/
def Ring.next (r : Ring) (pc : Nat) : Nat := r.target pc 1
/-- A register jump's target lies inside the ring and is 8-byte aligned (R28, R100). -/
def Ring.holds (r : Ring) (t : Word) : Bool := r.base ≤ t.toNat && t.toNat < r.base + 8 * r.len && t.toNat % 8 == 0
/-- The level a stream runs at: C in handler mode runs at S when LVL is U (R315). -/
def Bank.level (b : Bank) (e : Engine) : Lvl :=
  if e = .c ∧ b.handler ∧ b.lvl = .u then .s else b.lvl
def Lvl.code : Lvl → Nat | .u => 0 | .s => 1 | .h => 2
/-- The containment ID: partition (5 bits) : VF (7 bits) (R12, R135). -/
def cid (part vf : Nat) : Nat := part * 128 + vf
def Bank.cid (b : Bank) : Nat := Machine.cid b.part b.vf
/-- The containment ID that a report of a VF carries: the device's own when the VF is in no partition, since none names partition 31 (R344;
assumption 106). -/
def State.vfCid (s : State) (v : Nat) : Nat :=
  if (s.vf v).partition < 20 then cid (s.vf v).partition v else cid 0 0x7F

/-! ## Registers -/

def Bank.getC (b : Bank) : CReg → Word
  | .k i => b.k[i] | .p i => b.win.p[i] | .l i => b.win.l[i] | .q i => b.q[i] | .zr => 0
/-- A write of a C register; a write of zr is discarded (R80). -/
def Bank.setC (b : Bank) (r : CReg) (w : Word) : Bank :=
  match r with
  | .k i => { b with k := b.k.set i w }
  | .p i => { b with win := { b.win with p := b.win.p.set i w } }
  | .l i => { b with win := { b.win with l := b.win.l.set i w } }
  | .q i => { b with q := b.q.set i w }
  | .zr => b
def Bank.getX (b : Bank) (r : Fin 16) : Word := b.x[r]
def Bank.setX (b : Bank) (r : Fin 16) (w : Word) : Bank := { b with x := b.x.set r w }
def Bank.getV (b : Bank) (r : Fin 32) : Vec := b.v[r]
def Bank.setV (b : Bank) (r : Fin 32) (w : Vec) : Bank := { b with v := b.v.set r w }
def Bank.getE (b : Bank) (r : Fin 16) : Word := b.e[r]
def Bank.setE (b : Bank) (r : Fin 16) (w : Word) : Bank := { b with e := b.e.set r w }
def Bank.getH (b : Bank) (r : Fin 16) : Word := b.h[r]
def Bank.setH (b : Bank) (r : Fin 16) (w : Word) : Bank := { b with h := b.h.set r w }
def Bank.getD (b : Bank) (r : Fin 16) : Word := b.d[r]
def Bank.setD (b : Bank) (r : Fin 16) (w : Word) : Bank := { b with d := b.d.set r w }
/-- A scalar register of any engine. -/
def Bank.getS (b : Bank) : SReg → Word
  | .c r => b.getC r | .x r => b.getX r | .e r => b.getE r | .h r => b.getH r | .d r => b.getD r
def Bank.setS (b : Bank) (r : SReg) (w : Word) : Bank :=
  match r with
  | .c r => b.setC r w | .x r => b.setX r w | .e r => b.setE r w | .h r => b.setH r w | .d r => b.setD r w
/-- The current postmark of a stream; V and M have none (R160). -/
def Bank.pm (b : Bank) : Engine → BitVec 16 | .c => b.pmC | .a => b.pmA | .d => b.pmD | _ => 0
def Bank.setPm (b : Bank) (e : Engine) (m : BitVec 16) : Bank :=
  match e with
  | .c => { b with pmC := m } | .a => { b with pmA := m } | .d => { b with pmD := m } | _ => b
/-- A poisoned element that stands in the bank, or in a window of one of its n youngest resident callers. -/
def BadElem.resident (n : Nat) : BadElem → Bool | .win k _ => k < n | _ => true
/-- Call depth and resident windows (R82). -/
def Bank.rsd (b : Bank) : Nat := b.older.length
def Bank.depth (b : Bank) : Nat := b.spd + b.rsd

/-- The k-steps of a product that are applied (TRAPFL.PROG and MSTAT.PROG, R227, R258). -/
def Product.done (p : Product) : Nat := ((List.range p.k).filter p.applied.testBit).length

/-- Every k-step of a product has started, or has been applied. -/
def Product.allStarted (p : Product) : Bool := (List.range p.k).all p.started.testBit
def Product.allApplied (p : Product) : Bool := (List.range p.k).all p.applied.testBit
/-- The work reads scratchpad: an A operand, a scale array, row groups or a tile (R230). -/
def Product.readsSp (p : Product) : Bool :=
  match p.op with
  | .mmag | .load => true
  | .mma => p.scaleAddr.isSome || (match p.src with | .sp _ => true | .queue _ => false)
  | .zero | .store => false
/-- The M stream has issued past work that has not started (a seam that may be relocatable, R249). -/
def Bank.deferred (b : Bank) : Bool := b.prods.any fun p => p.passed && !p.allStarted

/-! ## Signals, tags and WFE -/

/-- One bit of a 64-bit set. -/
def bit64 (n : Nat) : BitVec 64 := 1#64 <<< n
def Bank.sig (b : Bank) (n : Fin 64) : Bool := b.sg.getLsbD n
/-- Sets a signal; it also sets WFE's latch (R111, R343). -/
def Bank.setSig (b : Bank) (n : Fin 64) : Bank := { b with sg := b.sg ||| bit64 n, wfe := true }
def Bank.clrSig (b : Bank) (n : Fin 64) : Bank := { b with sg := b.sg &&& ~~~ (bit64 n) }
def Bank.tag (b : Bank) (n : Fin 64) : Bool := b.tagbits.getLsbD n
def Bank.getStatus (b : Bank) (n : Nat) : BitVec 8 := b.status.get n 0
/-- Accepts a request on a tag: TAGBITS and STATUS become 0 (R280, R308). -/
def Bank.acceptTag (b : Bank) (n : Fin 64) : Bank :=
  { b with tagbits := b.tagbits &&& ~~~ (bit64 n), status := b.status.put n 0 }
/-- Completes a tag: STATUS, then TAGBITS; it sets WFE's latch (R280, R343). -/
def Bank.completeTag (b : Bank) (n : Fin 64) (st : BitVec 8) : Bank :=
  { b with status := b.status.put n st, tagbits := b.tagbits ||| bit64 n, wfe := true }

/-! ## Queues (R114) -/

def Bank.queue (b : Bank) (q : Queue) : List QEntry := b.queues.get q.code []
def Bank.setQueue (b : Bank) (q : Queue) (l : List QEntry) : Bank := { b with queues := b.queues.put q.code l }
def Bank.push (b : Bank) (q : Queue) (x : QEntry) : Bank := b.setQueue q (b.queue q ++ [x])
/-- HEAD and TAIL of a queue, and the entry at index i of its store (R408). -/
def Bank.head (b : Bank) (q : Queue) : Nat := b.qhead.get q.code 0
def Bank.tail (b : Bank) (q : Queue) : Nat := (b.head q + (b.queue q).length) % q.depth
def Bank.entryAt (b : Bank) (q : Queue) (i : Nat) : Option QEntry := (b.queue q)[(i + q.depth - b.head q) % q.depth]?
/-- The head of a queue has been popped: `l` is left, and HEAD moves on (R408). -/
def Bank.popTo (b : Bank) (q : Queue) (l : List QEntry) : Bank :=
  { b.setQueue q l with qhead := b.qhead.put q.code ((b.head q + 1) % q.depth) }
/-- Entries go back to the head of a queue (R249). -/
def Bank.unpop (b : Bank) (q : Queue) (l : List QEntry) : Bank :=
  { b.setQueue q (l ++ b.queue q) with qhead := b.qhead.put q.code ((b.head q + q.depth - l.length % q.depth) % q.depth) }
def Bank.full (b : Bank) (q : Queue) : Bool := q.depth ≤ (b.queue q).length
/-- The elastic queue behind am0 or am1 has no free slot (R250). -/
def Bank.elasticFull (b : Bank) : Queue → Bool
  | .am i => 32 ≤ (if i = 0 then b.elastic0 else b.elastic1).entries.length
  | _ => false
/-- A 64-bit value as a queue entry. -/
def QEntry.ofWord (w : Word) : QEntry := { data := w.setWidth 2048 }
def QEntry.word (x : QEntry) : Word := x.data.setWidth 64

end Sys2Proof.Machine
end

