-- ==== Sys2Proof/Machine/Lines.lean ====
section
/-! DEFINITION. LPDDR-6 lines behind the last-level cache: keys, line state, the second-stage walk (R135, R136, R352 to R358)
and the cells of postmarks (R161, R169). -/
namespace Sys2Proof.Machine

/-- The key slot, when it holds a key (R352, R354). -/
def State.key (s : State) (slot : Nat) : Option KeySlot := s.keys.find? slot
/-- The metadata of the line of a PA. -/
def State.lineMeta (s : State) (pa : Nat) : LineMeta := s.metas.get (pa / 64) {}
def State.setLineMeta (s : State) (pa : Nat) (m : LineMeta) : State :=
  { s with metas := if m = {} then s.metas.del (pa / 64) else s.metas.put (pa / 64) m }

/-! ## Second stage (R135) -/

/-- A second-stage leaf: PA, key slot and permissions. -/
structure S2Leaf where
  pa : Nat
  key : Nat
  r : Bool
  w : Bool
deriving DecidableEq, Repr, Inhabited

/-- One level of the second-stage walk: `idx` entries into the node; a table pointer continues. -/
def walk2Entry (mem : Memory) (node idx : Nat) : Nat := mem.readLe (node + 8 * idx) 8

/-- Whether an entry is well formed: V = 1, bits [63:61] and [15:4] zero, KEYID zero in a pointer (R135). -/
def s2Bad (e : Nat) : Bool :=
  e % 2 == 0 || fld e 61 3 != 0 || fld e 4 12 != 0 || (e / 2 % 2 == 0 && fld e 52 9 != 0)

/-- The walk of the second stage: node size and walk of R133, indices GPA[51:42], [41:29], [28:16]. -/
def walk2 (mem : Memory) (root gpa : Nat) : Option S2Leaf :=
  let e1 := walk2Entry mem root (fld gpa 42 10)
  if s2Bad e1 || e1 / 2 % 2 == 1 || e1 / 4 % 4 != 0 then none else
  let e2 := walk2Entry mem (fld e1 16 36 * 65536) (fld gpa 29 13)
  if s2Bad e2 then none
  else if e2 / 2 % 2 == 1 then
    if fld e2 16 13 != 0 then none
    else some ⟨fld e2 29 23 * 2 ^ 29 + gpa % 2 ^ 29, fld e2 52 9, flag e2 2, flag e2 3⟩
  else if e2 / 4 % 4 != 0 then none else
  let e3 := walk2Entry mem (fld e2 16 36 * 65536) (fld gpa 16 13)
  if s2Bad e3 || e3 / 2 % 2 == 0 then none
  else some ⟨fld e3 16 36 * 65536 + gpa % 65536, fld e3 52 9, flag e3 2, flag e3 3⟩

/-- The PAs of the entries that the walk reads, in order. -/
def walk2Reads (mem : Memory) (root gpa : Nat) : List Nat :=
  let a1 := root + 8 * fld gpa 42 10
  let e1 := mem.readLe a1 8
  let a2 := fld e1 16 36 * 65536 + 8 * fld gpa 29 13
  let e2 := mem.readLe a2 8
  if s2Bad e1 || e1 / 2 % 2 == 1 then [a1]
  else if s2Bad e2 || e2 / 2 % 2 == 1 then [a1, a2]
  else [a1, a2, fld e2 16 36 * 65536 + 8 * fld gpa 16 13]

/-- What an access does with its line: an atomic reads and writes it (R137). -/
inductive S2Use where | read | write | both
deriving DecidableEq, Repr
def S2Use.allowed (u : S2Use) (r w : Bool) : Bool := (u == .write || r) && (u == .read || w)

/-- Numbers of refusing targets: SRAM-die banks, LPDDR-6 pages, scratchpad units (R355). -/
def targetNo (kind n : Nat) : Nat := kind * 2 ^ 60 + n
/-- Whether an unfinished scrub covers a page of LPDDR-6, or an SRAM-die bank (R355, R356). -/
def State.scrubs? (s : State) (kind n : Nat) : Bool :=
  s.scrubs.any fun x => !x.complete && x.kind == kind &&
    if kind = 1 then x.start ≤ n * 65536 && n * 65536 < x.start + 65536 * x.count
    else x.start ≤ n && n < x.start + x.count
/-- Whether a numbered target still refuses (R356). -/
def State.refuses (s : State) (t : Nat) : Bool :=
  let n := t % 2 ^ 60
  if t / 2 ^ 60 = 2 then (s.core (n / 128)).scrubbing.getLsbD (n % 128) else s.scrubs? (t / 2 ^ 60) n
/-- Whether a line is unsealed (R357, R358). -/
def State.isUnsealed (s : State) (pa : Nat) : Bool := s.unsealed.contains (pa / 65536) && !s.resealed.contains (pa / 64)
/-- The entry of a second-stage walk that gives no data: its page refuses, or is unsealed (R356, R358). -/
def State.walkStop (s : State) (part gpa : Nat) : Option Nat :=
  (walk2Reads s.dram (s.part part).s2root gpa).find? fun a => s.scrubs? 1 (a / 65536) || s.isUnsealed a

/-- The translation of a GPA at the LLC for a transaction of a VF: a hit uses the kept values, a miss walks and allocates the line,
which keeps the containment ID's VF with it (R136). None is a second-stage fault: V = 0, a malformed entry, an empty key slot
(R137, R354), or a permission. A walk that meets a refusing or unsealed page ends there: the access meets the condition of that page, under
a key slot that no page has. -/
def State.stage2 (s : State) (part vf gpa : Nat) (u : S2Use) : Option S2Leaf × State :=
  let line := gpa / 64 * 64
  match s.llc.find? (fun l => l.part == part && l.m == 0 && l.gpa == line) with
  | some l => if u.allowed l.r l.w then (some ⟨l.pa + gpa % 64, l.key, l.r, l.w⟩, s) else (none, s)
  | none =>
    match s.walkStop part gpa with
    | some a => (some ⟨a, 512, true, true⟩, s)
    | none =>
    match walk2 s.dram (s.part part).s2root gpa with
    | none => (none, s)
    | some f =>
      if (s.key f.key).isNone || !u.allowed f.r f.w then (none, s)
      else
        let pa := f.pa / 64 * 64
        (some f, { s with llc := s.llc ++ [{ part := part, gpa := line, pa := pa, key := f.key, r := f.r, w := f.w, vf := vf,
                                               clean := s.dram.readBytes pa 64, cleanMeta := s.lineMeta pa }] })

/-! ## Line state -/

/-- A page belongs to the VF of the key its leaf names; a page under the device's own key to whoever has it mapped (R353, R358;
assumption 117). -/
def State.ownsKey (s : State) (vf key : Nat) : Bool := (s.key key).any fun k => k.vf == vf || k.vf == 0x7F

/-- What a line's state does to an access: nothing, INTEG for every access (R358), INTEG for reads (R354: it is sealed under a key
that the slot no longer holds), UNCORR (R326), or its target refuses (R356). -/
inductive LineCond where | ok | integ | mac | poison | refuse (target : Nat)
deriving DecidableEq, Repr

/-- The state of the line at `pa` under key slot `key` (R352, R355 zero state, R358). -/
def State.lineCond (s : State) (part gpa pa key : Nat) : LineCond :=
  let bank := Config.llcBank part (gpa / 64)
  if s.scrubs? 1 (pa / 65536) then .refuse (targetNo 1 (pa / 65536))
  else if s.scrubs? 0 bank then .refuse (targetNo 0 bank)
  else if s.isUnsealed pa then .integ
  else match (s.lineMeta pa).keygen with
    | some (k, g) =>
      if k = key ∧ (s.key key).map (·.gen) = some g then (if (s.lineMeta pa).poison then .poison else .ok) else .mac
    | none => if (s.lineMeta pa).poison then .poison else .ok

/-! ## Cells (R161, R169) -/

/-- The cell of postmark `m` at a GPA's line. -/
def Partition.cell (p : Partition) (m gpa : Nat) : Option Cell :=
  p.cells.find? (fun c => c.m == m && c.gpa == gpa / 64 * 64)
/-- The PA a location's bytes lie at: the cell's pool line when the cell exists, else the translation's PA. -/
def State.homePa (s : State) (part m gpa pa : Nat) : Nat :=
  if m = 0 then pa
  else match (s.part part).cell m gpa with
    | some c => (s.part part).poolBase + 64 * c.line + gpa % 64
    | none => pa
/-- The key slot of a location's line: a cell keeps the slot of its materialisation (R167), else it is the translation's. -/
def State.homeKey (s : State) (part m gpa key : Nat) : Nat :=
  if m = 0 then key else match (s.part part).cell m gpa with | some c => c.key | none => key
/-- A free line of the pool: the line returned longest ago, else the lowest one never taken (R166; assumption 103). -/
def Partition.takeLine (p : Partition) : Option (Nat × Partition) :=
  match p.freeLines with
  | l :: ls => some (l, { p with freeLines := ls })
  | [] => if p.usedLines < p.poolLines then some (p.usedLines, { p with usedLines := p.usedLines + 1 }) else none
/-- A write is still stalled for a pool line: it has none, and its line of memory has neither a cell nor a pool line given to
another write of it, which then serves both (R166, R169). -/
def Partition.stalled (p : Partition) (w : PoolWait) : Bool :=
  w.granted.isNone && (p.cell w.m w.gpa).isNone && !(p.poolWait.any fun v => v.m == w.m && v.gpa == w.gpa && v.granted.isSome)
/-- A line that becomes free goes to the oldest stalled write (R166). -/
def Partition.giveLine (p : Partition) (line : Nat) : Partition :=
  match p.poolWait.findIdx? p.stalled with
  | some i => { p with poolWait := p.poolWait.modify i fun w => { w with granted := some line } }
  | none => { p with freeLines := p.freeLines ++ [line] }

/-- The row map's entry of a logical row (R305). -/
def Slice.entry (sl : Slice) (row : Nat) : MapEntry := sl.map.get row ⟨row, 0x160000 + row, 0⟩
/-- Whether a row is uncorrectable when read (R327). -/
def State.rowBad (s : State) (core row : Nat) : Bool := let sl := s.slice core; (sl.phys.get (sl.entry row).cur {}).bad

/-- The bytes of a location. -/
def State.readLoc (s : State) (l : Loc) (n : Nat) : List Byte :=
  match l with
  | .sp core off =>
    (List.range n).map fun i =>
      if (s.core core).valid.getLsbD ((off + i) / 4) then (s.core core).sp.read (off + i) else 0
  | .mem part m gpa pa _ => s.dram.readBytes (s.homePa part m gpa pa) n
  | .wt core off =>
    let sl := s.slice core
    (List.range n).map fun i =>
      let e := sl.entry ((off + i) / 64)
      BitVec.ofNat 8 ((sl.phys.get e.cur {}).data.toNat / 256 ^ ((off + i) % 64))

/-! ## Stores performed for some scopes only (R182, R186) -/

/-- The least scope that includes two seats (R181). -/
def shareLevel (core seat core' seat' : Nat) : Nat :=
  if core = core' then (if seat % 4 = seat' % 4 then 1 else 2)
  else if clusterOf core = clusterOf core' then 3 else if dieOf core = dieOf core' then 4 else 5
/-- A stream of a seat sees an element that another access has performed for some scopes only (R182, R186). -/
def Access.showsTo (a : Access) (core seat : Nat) (x : Elem) : Bool :=
  !x.done && 0 < x.seen && shareLevel a.core a.seat core seat ≤ x.seen
/-- Byte k of the 64-byte line of a location. -/
def Loc.lineAt (l : Loc) (k : Nat) : Loc :=
  match l with
  | .sp c o => .sp c (o / 64 * 64 + k)
  | .mem p m g a key => .mem p m (g / 64 * 64 + k) (a / 64 * 64 + k) key
  | .wt c o => .wt c (o / 64 * 64 + k)
/-- Whether two ranges of bytes overlap. -/
def Loc.overlaps (a : Loc) (n : Nat) (b : Loc) (k : Nat) : Bool :=
  match a, b with
  | .sp c o, .sp d p => c == d && o < p + k && p < o + n
  | .mem part m g _ _, .mem part' m' g' _ _ => part == part' && m == m' && g < g' + k && g' < g + n
  | .wt c o, .wt d p => c == d && o < p + k && p < o + n
  | _, _ => false
/-- Where the bytes of a location are read: in its cell, or in the base line while it has none (R169). -/
def State.readPlace (s : State) (l : Loc) : Loc :=
  match l with
  | .mem part m gpa pa key => if ((s.part part).cell m gpa).isSome then l else .mem part 0 gpa pa key
  | l => l
/-- Bytes of a location under the elements of pending stores that `see` picks, the oldest first. -/
def State.overlay (s : State) (see : Access → Elem → Bool) (l : Loc) (n : Nat) : List Byte :=
  let l' := s.readPlace l
  let xs := s.acc.flatMap fun a => a.elems.filter fun x => x.write && see a x && x.loc.overlaps x.len l' n
  xs.foldl (fun bs x =>
    match x.loc, l' with
    | .mem _ _ g _ _, .mem _ _ gpa _ _ => bs.mapIdx fun i b => if g ≤ gpa + i then x.bytes.getD (gpa + i - g) b else b
    | _, _ => bs) (s.readLoc l n)
/-- The bytes of a location as a stream of a seat sees them, and as all observers of a scope see them. -/
def State.view (s : State) (core seat : Nat) (l : Loc) (n : Nat) : List Byte := s.overlay (fun a x => a.showsTo core seat x) l n
def State.viewAt (s : State) (level : Nat) (l : Loc) (n : Nat) : List Byte := s.overlay (fun _ x => !x.done && level ≤ x.seen) l n

/-- A cell's line is held by the LLC from its first write on; LPDDR-6 keeps what the pool line held (R161, R355). -/
def State.holdCell (s : State) (part m gpa : Nat) : State :=
  let p := s.part part
  let line := gpa / 64 * 64
  match (if m = 0 then none else p.cell m gpa) with
  | none => s
  | some c =>
    let home := p.poolBase + 64 * c.line
    if s.llc.any fun l => l.part == part && l.m == m && l.gpa == line && l.pa == home then s
    else
      let vf := match p.pm.find? m with | some (.live v) => v | _ => 0x7F
      { s with llc := (s.llc.filter fun l => !(l.part == part && l.m == m && l.gpa == line))
                 ++ [{ part := part, m := m, gpa := line, pa := home, key := c.key, r := true, w := true, vf := vf,
                       clean := s.dram.readBytes home 64, cleanMeta := s.lineMeta home }] }
/-- Materialises the cell of (m, gpa) with the pool line granted to it: the base line's bytes and poison are copied in one
action (R169, R172). The places of every write that waits for this line end; an unsealed or undecryptable base line leaves the cell
unsealed (R354, R358). -/
def State.materialise (s : State) (part m gpa pa key : Nat) : State :=
  let p := s.part part
  let line := gpa / 64 * 64
  if m = 0 ∨ (p.cell m gpa).isSome then s
  else
    let mine (w : PoolWait) : Bool := w.m == m && w.gpa == line
    match (p.poolWait.filter mine).filterMap (·.granted) with
    | l :: extra =>
      let p1 := { p with cells := p.cells ++ [⟨m, line, l, key⟩], poolWait := p.poolWait.filter (fun w => !mine w) }
      let p2 := extra.foldl Partition.giveLine p1
      let base := pa / 64 * 64
      let dst := p.poolBase + 64 * l
      let lost := match s.lineCond part line base key with | .integ | .mac => true | _ => false
      let old := { s with llc := s.llc.filter fun x => !(x.part == part && x.m == m && x.gpa == line) }
      let s0 := (old.setPart part p2).holdCell part m gpa
      let s1 := { s0 with dram := s0.dram.writeBytes dst (s.dram.readBytes base 64)
                          resealed := if s.isUnsealed dst then s.resealed ++ [dst / 64] else s.resealed }
      let sealed := if lost then some (512, 0) else (s.key key).map fun k => (key, k.gen)
      s1.setLineMeta dst ⟨sealed, (s.lineMeta base).poison, false⟩
    | [] => s

/-- What a line is sealed under when all of it is written, or for the first time: the key the slot now holds. -/
def State.sealNow (s : State) (key : Nat) : Option (Nat × Nat) := (s.key key).map fun k => (key, k.gen)
/-- A line all of whose bytes one request has written: its poison is cleared (R326), it is sealed under the slot's present key
(R354), and an unsealed cell line is sealed (R172). -/
def State.wholeLine (s : State) (l : Loc) : State :=
  match l with
  | .mem part m gpa pa key =>
    let home := s.homePa part m gpa pa
    let s := if m ≠ 0 ∧ s.isUnsealed home then { s with resealed := s.resealed ++ [home / 64] } else s
    s.setLineMeta home { s.lineMeta home with poison := false, keygen := s.sealNow (s.homeKey part m gpa key) }
  | _ => s
/-- Writes bytes to a location: scratchpad sets valid bits and zeroes the rest of a part that was invalid (R144), a write
clears poison of a part, and of a line when it covers all of it (R326); an LPDDR-6 line is sealed under its key by the first write
(R355) and by one that covers all of it (R354; assumption 104), and its frame flag cleared (R292). Weight space is never written
here. -/
def State.writeLoc (s : State) (l : Loc) (bytes : List Byte) : State :=
  match l with
  | .sp core off =>
    let c := s.core core
    let n := bytes.length
    let first := off / 4
    let last := (off + n - 1) / 4
    let fill (sp : Memory) (part : Nat) : Memory :=
      if c.valid.getLsbD part then sp else sp.writeBytes (4 * part) [0, 0, 0, 0]
    let sp := if n = 0 then c.sp else (fill (fill c.sp first) last).writeBytes off bytes
    let mask : BitVec 98304 :=
      if n = 0 then 0 else BitVec.ofNat 98304 ((2 ^ (last + 1 - first) - 1) * 2 ^ first)
    s.setCore core { c with sp := sp, valid := c.valid ||| mask, poison := c.poison &&& ~~~ mask }
  | .mem part m gpa pa key =>
    let s := (s.materialise part m gpa pa key).holdCell part m gpa
    let home := s.homePa part m gpa pa
    let old := s.lineMeta home
    let k := if 64 ≤ bytes.length then s.sealNow (s.homeKey part m gpa key)
      else match old.keygen with | some kg => some kg | none => s.sealNow (s.homeKey part m gpa key)
    let s := { s with dram := s.dram.writeBytes home bytes }
    s.setLineMeta home ⟨k, old.poison && bytes.length < 64, false⟩
  | .wt _ _ => s

/-! ## Headers of save images (R335) -/

/-- The 64 header bytes of image n of a bank with a number of requests in flight. -/
def imageHeader (n : Nat) (b : Bank) (inflight : Nat) : List Byte :=
  let h := leBytes 0x5A424B31 4 ++ leBytes b.cid 2 ++ leBytes b.lvl.code 1 ++ [0] ++ leBytes inflight 4 ++ leBytes 0 4
  h ++ leBytes (Config.imageTag n h).toNat 16 ++ leBytes 0 32
/-- The requests of a job that are not complete: copies, weight requests and accesses. -/
def State.inflight (s : State) (job : Nat) : Nat :=
  (s.copies.filter (·.job == job)).length + (s.acc.filter (·.job == job)).length
    + (s.cores.map fun (_, c) => (c.wreqs.filter (·.job == job)).length).sum
/-- A line to which the device's own write waits: it refuses, or is unsealed (R356, R358). -/
def State.noWrite (s : State) (l : Loc) : Bool :=
  match l with
  | .mem part _ gpa pa key => (match s.lineCond part gpa pa key with | .refuse _ | .integ => true | _ => false)
  | _ => false
/-- The device writes INFLIGHT afresh in the current images whose banks have had requests complete; a header whose line refuses or is unsealed
is written later (assumption 122). -/
def State.refreshImages (s : State) : State :=
  s.images.foldl (fun s im =>
    let n := s.inflight im.bank.job
    if im.old || im.inflight == n || im.header.any s.noWrite then s
    else
      let s := match im.header with | some l => s.writeLoc l (imageHeader im.n im.bank n) | none => s
      { s with images := s.images.map fun (o : SaveImage) => if o.n = im.n then { o with inflight := n } else o }) s

end Sys2Proof.Machine
end

