-- ==== Sys2Proof/Machine/Translate.lean ====
section
/-! DEFINITION. First-stage translation, the TLBs and the checks of an access to a virtual address (R131 to R142, R149,
R160 to R168, R346, spec/06_memory.md). -/
namespace Sys2Proof.Machine

/-- Whose access it is: the stream's or request's core, engine, tenant, level, compartment and first-stage root. -/
structure VaCtx where
  core : Nat
  eng : Engine
  vf : Nat
  part : Nat
  lvl : Lvl
  mo : Bool
  root : Nat
  job : Nat
deriving DecidableEq, Repr, Inhabited

/-- Why an access stops (R137, R140, R171, R356, R358). `stage2` and `refuse` stall. -/
inductive VaFail where
  | pfault (kind : Nat)
  | misalign
  | wtstore
  | gate
  | pmdead
  | integ
  | uncorr
  | stage2 (gpa : Nat) (walk : Bool)
  | refuse (target : Nat)
deriving DecidableEq, Repr, Inhabited

/-- A VA is canonical when bits [63:54] are all equal (R131). -/
def canonical (va : Word) : Bool := fld va.toNat 54 10 == 0 || fld va.toNat 54 10 == 1023
def upperHalf (va : Word) : Bool := va.getLsbD 54

/-! ## The first stage (R133, R134) -/

/-- The outcome of a walk. -/
inductive Walk where
  | leaf (e : Word) (big : Bool)
  | fault (kind : Nat)
  | stage2 (gpa : Nat)
  | line (c : LineCond)
deriving DecidableEq, Repr

/-- One table-entry read: 8 bytes of a GPA through the second stage (R133). A store that is performed at package scope is seen
(R139). -/
def State.readEntry (s : State) (part vf gpa : Nat) : Except Walk Nat × State :=
  match s.stage2 part vf gpa .read with
  | (none, s) => (.error (.stage2 gpa), s)
  | (some f, s) =>
    match s.lineCond part gpa f.pa f.key with
    | .ok => (.ok (leNat (s.viewAt 5 (.mem part 0 gpa f.pa f.key) 8)), s)
    | c => (.error (.line c), s)

/-- `check_leaf` of R134: whether the leaf is malformed. -/
def leafBad (e : Nat) (lvl : Nat) : Bool :=
  let wt := flag e 7
  fld e 2 2 == 3 || (lvl == 2 && fld e 16 13 != 0) || (wt && (flag e 4 || flag e 5 || flag e 6))
    || (wt && lvl == 2) || (wt && fld e 38 14 != 0)

/-- The levels of `walk1`, from `lvl` down; `fuel` is the number of levels left. All of them are read in one action (assumption 101). -/
def walkFrom (part vf : Nat) (va : Nat) : (fuel : Nat) → (lvl node : Nat) → State → Walk × State
  | 0, _, _, s => (.fault 1, s)
  | fuel + 1, lvl, node, s =>
    let i := if lvl = 1 then fld va 42 13 else if lvl = 2 then fld va 29 13 else fld va 16 13
    match s.readEntry part vf (node + 8 * i) with
    | (.error w, s) => (w, s)
    | (.ok e, s) =>
      if e % 2 = 0 then (.fault 0, s)
      else if fld e 52 12 ≠ 0 then (.fault 1, s)
      else if !flag e 1 then
        if lvl = 3 ∨ fld e 2 8 ≠ 0 then (.fault 1, s)
        else walkFrom part vf va fuel (lvl + 1) (fld e 16 36 * 65536) s
      else if lvl = 1 || leafBad e lvl then (.fault 1, s)
      else (.leaf (BitVec.ofNat 64 e) (lvl == 2), s)
/-- `walk1` of R133. -/
def State.walk1 (s : State) (part vf root : Nat) (va : Word) : Walk × State := walkFrom part vf va.toNat 3 1 root s

/-- The page of a VA within 55 bits. -/
def vaPage (va : Word) (big : Bool) : Nat :=
  let a := va.toNat % 2 ^ 55
  if big then a / 2 ^ 29 * 2 ^ 29 else a / 65536 * 65536
/-- A TLB entry matches a VA: same TLB, VF, page, and root unless the leaf is global (R132). -/
def TlbEntry.hits (t : TlbEntry) (c : VaCtx) (va : Word) : Bool :=
  t.core == c.core && t.eng == c.eng && t.vf == c.vf && (t.leaf.getLsbD 9 || t.root == c.root) && t.va == vaPage va t.big
/-- The entries of an engine's TLB (R138). -/
def tlbSize (e : Engine) : Nat := if e = .c then 256 else 32
/-- Room for one more entry in the TLB of an engine: a full one loses its oldest entry (R138; assumption 102). -/
def tlbRoom (core : Nat) (e : Engine) (l : List TlbEntry) : List TlbEntry :=
  if (l.filter fun t => t.core == core && t.eng == e).length < tlbSize e then l
  else l.eraseIdx (l.findIdx fun t => t.core == core && t.eng == e)
/-- The leaf of a VA by TLB or walk; a successful walk fills the TLB (R138). -/
def State.leafOf (s : State) (c : VaCtx) (va : Word) : Walk × State :=
  match s.tlb.find? (fun t => t.hits c va) with
  | some t => (.leaf t.leaf t.big, s)
  | none =>
    match s.walk1 c.part c.vf c.root va with
    | (.leaf e big, s) =>
      (.leaf e big, { s with tlb := tlbRoom c.core c.eng s.tlb ++ [⟨c.core, c.eng, c.vf, c.root, vaPage va big, big, e⟩] })
    | r => r
/-- The address a leaf gives: a GPA, or a weight address in a WT page (R133, R149). -/
def leafAddr (e : Word) (big : Bool) (va : Word) : Nat :=
  if e.getLsbD 7 then fld e.toNat 16 22 * 65536 + va.toNat % 65536
  else if big then fld e.toNat 29 23 * 2 ^ 29 + va.toNat % 2 ^ 29
  else fld e.toNat 16 36 * 65536 + va.toNat % 65536
def leafKind (e : Word) : OrdKind :=
  match fld e.toNat 2 2 with | 0 => .so | 1 => .rc | _ => .uo

/-! ## The checks of R140 -/

/-- A successful check: where the access goes, and its page's ordering kind. -/
structure Target where
  loc : Loc
  ord : OrdKind
deriving DecidableEq, Repr, Inhabited

/-- How the access uses its page. -/
structure Use where
  write : Bool                       -- a store for the checks of step 6
  writes : Bool                      -- it writes for R168 (a failing AMOCAS does not)
  atomic : Bool := false
  ringFill : Bool := false
  fullPage : Bool := false           -- a full-page write that may reseal an unsealed page (R358)
  fullLine : Bool := false           -- a write of a whole 64-byte line, which may reseal a cell line (R172)
  explicitPm : Bool := false         -- PMLDX or APMLD names the postmark
  carry : Bool := false              -- poisoned data is passed on, not consumed (R326)
deriving DecidableEq, Repr, Inhabited

/-- A postmark is live for a VF (R165). -/
def Partition.liveFor (p : Partition) (m vf : Nat) : Bool := p.pm.find? m == some (.live vf)

/-- What the line of a translated access does to it (R140 step 8, R172, R326, R354, R356, R358). -/
def State.lineFail (s : State) (l : Loc) (u : Use) : Option VaFail :=
  match l with
  | .mem part pm a pa key =>
    match s.lineCond part a (s.homePa part pm a pa) (s.homeKey part pm a key) with
    | .refuse t => some (.refuse t)
    | .integ => if (u.fullPage && pm == 0) || (u.fullLine && ((s.part part).cell pm a).isSome) then none else some .integ
    | .mac => if u.write && !u.atomic then none else some .integ
    | .poison => if (u.write && !u.atomic) || u.carry then none else some .uncorr
    | .ok => none
  | _ => none
/-- A translation that is kept meets its postmark and its line again (R165, R194). -/
def State.recheck (s : State) (c : VaCtx) (l : Loc) (u : Use) : Option VaFail :=
  match l with
  | .mem part pm _ _ _ => if pm ≠ 0 ∧ !(s.part part).liveFor pm c.vf then some .pmdead else s.lineFail l u
  | _ => none
/-- Steps 2 to 7 of R140 and the postmark check, for an access of `size` bytes at `va` under postmark `m`; then the second
stage and the state of the line (step 8). The second component is the state with the TLB and LLC entries made. -/
def State.checkVa (s : State) (c : VaCtx) (va : Word) (size : Nat) (m : Nat) (u : Use) :
    Except VaFail Target × State :=
  if !canonical va then (.error (.pfault 4), s)
  else if upperHalf va && c.lvl == .u then (.error (.pfault 2), s)
  else if va.toNat % size ≠ 0 then (.error .misalign, s)
  else
    match s.leafOf c va with
    | (.fault k, s) => (.error (.pfault k), s)
    | (.stage2 g, s) => (.error (.stage2 g true), s)
    | (.line .integ, s) | (.line .mac, s) => (.error .integ, s)
    | (.line (.refuse t), s) => (.error (.refuse t), s)
    | (.line _, s) => (.error .uncorr, s)
    | (.leaf e big, s) =>
      let a := leafAddr e big va
      let wt := e.getLsbD 7
      if e.getLsbD 8 && c.lvl == .u then (.error (.pfault 2), s)
      else if u.write && wt then (.error .wtstore, s)
      else if u.write && !e.getLsbD 4 then (.error (.pfault 3), s)
      else if wt then
        let core := a / 2 ^ 27
        let off := a % 2 ^ 27
        if off ≥ 0x5000000 || !s.coreInPart core c.part then (.error (.pfault 5), s)
        else if u.ringFill && !e.getLsbD 5 then (.error (.pfault 6), s)
        else if !u.carry && s.rowBad core (off / 64) then (.error .uncorr, s)
        else (.ok ⟨.wt core off, leafKind e⟩, s)
      else if u.ringFill && !e.getLsbD 5 then (.error (.pfault 6), s)
      else
        let vf := s.vf c.vf
        let inMo := decide (vf.mobase ≤ a ∧ a < vf.mobase + vf.molen)
        if inMo ≠ c.mo then (.error .gate, s)
        else
          let pm := if e.getLsbD 6 then m else 0
          if pm ≠ 0 ∧ !(s.part c.part).liveFor pm c.vf then (.error .pmdead, s)
          else
            match s.stage2 c.part c.vf a (if u.atomic then .both else if u.write then .write else .read) with
            | (none, s) => (.error (.stage2 a false), s)
            | (some f, s) =>
              let loc := Loc.mem c.part pm a f.pa f.key
              match s.lineFail loc u with
              | some x => (.error x, s)
              | none => (.ok ⟨loc, leafKind e⟩, s)

/-- The context of a live stream's accesses. -/
def Bank.vaCtx (b : Bank) (core : Nat) (e : Engine) : VaCtx :=
  ⟨core, e, b.vf, b.part, b.level e, (b.ctl e).mo, b.root, b.job⟩

/-! ## Pool lines for writes under a postmark (R166, R171) -/

/-- Whether a write to a location needs a pool line that it has not got: no cell and no line granted for it. -/
def State.needsLine (s : State) (l : Loc) : Bool :=
  match l with
  | .mem part m gpa _ _ =>
    let p := s.part part
    m != 0 && (p.cell m gpa).isNone
      && !(p.poolWait.any fun w => w.m == m && w.gpa == gpa / 64 * 64 && w.granted.isSome)
  | _ => false
/-- Whether a stream waits for a pool line for a location. -/
def State.asked (s : State) (job : Nat) (e : Engine) (l : Loc) : Bool :=
  match l with
  | .mem part m gpa _ _ =>
    (s.part part).poolWait.any fun w => w.job == job && w.eng == e && w.m == m && w.gpa == gpa / 64 * 64 && w.granted.isNone
  | _ => false
/-- Asks for a pool line: a free line at once when no earlier write is stalled, else a place behind them (R166). -/
def State.askLine (s : State) (job : Nat) (e : Engine) (lim : Nat) (va : Word) (l : Loc) : State :=
  match l with
  | .mem part m gpa _ _ =>
    let p := s.part part
    let line := gpa / 64 * 64
    if s.asked job e l then s
    else
      let w : PoolWait := ⟨s.nextId, job, e, m, line, va, lim, none⟩
      let s := { s with nextId := s.nextId + 1 }
      if p.poolWait.any p.stalled then s.setPart part { p with poolWait := p.poolWait ++ [w] }
      else match p.takeLine with
        | some (n, p) => s.setPart part { p with poolWait := p.poolWait ++ [{ w with granted := some n }] }
        | none => s.setPart part { p with poolWait := p.poolWait ++ [w] }
  | _ => s
/-- Stalled writes give up their places in the pool's order; lines already given to them go to the oldest stalled write
(R166, R167). -/
def State.dropWaits (s : State) (stale : Nat → PoolWait → Bool) : State :=
  s.parts.foldl (fun s (k, _) =>
    let p := s.part k
    let lines := (p.poolWait.filter (stale k)).filterMap (·.granted)
    s.setPart k (lines.foldl Partition.giveLine { p with poolWait := p.poolWait.filter (fun w => !stale k w) })) s
/-- A pool line given to a write is kept while a posted write of any stream relies on it (R166, R169). -/
def State.lineKept (s : State) (part : Nat) (w : PoolWait) : Bool :=
  w.granted.isSome && s.acc.any fun a => a.elems.any fun x =>
    x.write && !x.done && match x.loc with | .mem p m g _ _ => p == part && m == w.m && g / 64 * 64 == w.gpa | _ => false
/-- A stream gives up its places but for the lines of posted writes. -/
def State.dropStale (s : State) (job : Nat) (e : Engine) : State :=
  s.dropWaits fun part w => w.job == job && w.eng == e && !s.lineKept part w
/-- A job gives up its places likewise. -/
def State.dropJobWaits (s : State) (job : Nat) : State := s.dropWaits fun part w => w.job == job && !s.lineKept part w

end Sys2Proof.Machine
end

