-- ==== Sys2Proof/Machine/Report.lean ====
section
/-! DEFINITION. The core error log (R329, R330) and the mailboxes (R332, R333). -/
namespace Sys2Proof.Machine

/-- An entry arrives at one seat's part: 63 entries, then an overflow counter of one VF's drops (R329). -/
def LogPart.add (p : LogPart) (n : Nat) (x : LogEntry) : LogPart :=
  if p.entries.length < 63 then { p with entries := p.entries ++ [(n, x)] }
  else if p.dropped = 0 then { p with dropped := 1, dropCid := x.cid, dropOrder := n }
  else if p.dropCid = x.cid then { p with dropped := Nat.min (p.dropped + 1) (2 ^ 29 - 1) }
  else p
/-- Logs an entry in the part of a seat (R329). -/
def State.log (s : State) (core seat : Nat) (x : LogEntry) : State :=
  let c := s.core core
  let i := Fin.ofNat 4 seat
  { s with nextId := s.nextId + 1 }.setCore core { c with log := c.log.set i (c.log[i].add s.nextId x) }

/-- The 32 bytes of a report (R332). -/
def Report.bytes (r : Report) (lost : Bool) (seq : Nat) : List Byte :=
  leBytes r.type 2 ++ leBytes (b2n lost + 2 * b2n r.walk) 1 ++ leBytes r.strm 1 ++ leBytes (r.cid % 4096) 2
    ++ leBytes r.seat 2 ++ leBytes r.a1 8 ++ leBytes r.a2 8 ++ leBytes r.detail 4 ++ leBytes seq 4

/-- The mailbox after a report: written, or dropped when the ring is full (R332). -/
def Mailbox.next (m : Mailbox) : Mailbox :=
  if m.wr - m.rd ≥ m.size then { m with drop := m.drop + 1, lost := true, seq := (m.seq + 1) % 2 ^ 32 }
  else { m with wr := m.wr + 1, lost := false, seq := (m.seq + 1) % 2 ^ 32 }

/-- A report to the PF mailbox, in host memory (R332, R364). -/
def State.reportPf (s : State) (r : Report) : State :=
  let m := s.dev.pfBox
  let s := { s with dev := { s.dev with pfBox := m.next } }
  if m.wr - m.rd ≥ m.size then s
  else { s with host := s.host.writeBytes (m.base + 32 * (m.wr % m.size)) (r.bytes m.lost m.seq) }
/-- An MSI-X vector of a VF fires: 0 mailbox, 1 queue completion, 2 deadline (R363). -/
def State.fireVf (s : State) (vf n : Nat) : State := let v := s.vf vf; s.setVf vf { v with msix := v.msix ++ [n] }
/-- A completion word is written, and the VF's MSI-X vector 1 fires (R363); or it stalls: on a second-stage fault, with its report (R137;
assumption 118), or while its line refuses or accepts no data. -/
def State.putWord (s : State) (w : PendCmpl) : State :=
  let keep (s : State) (w : PendCmpl) : State := { s with dev := { s.dev with cmpl := s.dev.cmpl ++ [w] } }
  match s.stage2 w.part w.vf w.gpa .write with
  | (none, s) =>
    let seq := s.dev.pfBox.seq
    keep (s.reportPf { type := 4, cid := cid w.part w.vf, a2 := w.gpa, detail := 1 }) { w with s2stall := some seq }
  | (some f, s) =>
    match s.lineCond w.part w.gpa f.pa f.key with
    | .refuse _ | .integ => keep s w
    | _ => (s.writeLoc (.mem w.part 0 w.gpa f.pa f.key) (leBytes w.val 8)).fireVf w.vf 1
/-- A stalled completion word is tried again. -/
def State.retryWord (s : State) (n : Nat) : State :=
  match s.dev.cmpl[n]? with
  | none => s
  | some w => if w.s2stall.isSome then s else { s with dev := { s.dev with cmpl := s.dev.cmpl.eraseIdx n } }.putWord w

/-- A report to a VF's mailbox, in its GPA space (R332, R365): written, and its MSI-X vector 0 fires (R363), dropped when the ring is full, or
stalled as a completion word is. A VF without a partition has no memory: its report waits. -/
def State.sendReport (s : State) (vf : Nat) (r : Report) : State :=
  let v := s.vf vf
  let m := v.mbox
  let keep (s : State) (stall : Option Nat) : State := s.setVf vf { s.vf vf with reports := (s.vf vf).reports ++ [⟨r, stall⟩] }
  let gpa := m.base + 32 * (m.wr % m.size)
  if m.wr - m.rd ≥ m.size then s.setVf vf { v with mbox := m.next }
  else if v.partition = 0xFF then keep s none
  else match s.stage2 v.partition vf gpa .write with
  | (none, s) =>
    let seq := s.dev.pfBox.seq
    keep (s.reportPf { type := 4, cid := s.vfCid vf, a2 := gpa, detail := 1 }) (some seq)
  | (some f, s) =>
    match s.lineCond v.partition gpa f.pa f.key with
    | .refuse _ | .integ => keep s none
    | _ => ((s.writeLoc (.mem v.partition 0 gpa f.pa f.key) (r.bytes m.lost m.seq)).setVf vf { v with mbox := m.next }).fireVf vf 0
/-- A report follows the VF's earlier ones, in the order of SEQ (R332). -/
def State.reportVf (s : State) (vf : Nat) (r : Report) : State :=
  let v := s.vf vf
  if v.reports.isEmpty then s.sendReport vf r else s.setVf vf { v with reports := v.reports ++ [⟨r, none⟩] }
/-- The first stalled report of a VF is tried again. -/
def State.retryReport (s : State) (vf : Nat) : State :=
  match (s.vf vf).reports with
  | [] => s
  | p :: ps =>
    if p.s2stall.isSome then s
    else
      let t := (s.setVf vf { s.vf vf with reports := [] }).sendReport vf p.report
      t.setVf vf { t.vf vf with reports := (t.vf vf).reports ++ ps }

/-- 4 × core + seat, as reports name a seat (R332). -/
def seatNo (core seat : Nat) : Nat := 4 * core + seat

/-- An uncorrectable error met by a transaction: one UNCORR log entry and one UNCORR report, both for the VF of its
containment ID (R326); STORE as R327. -/
def State.uncorrAt (s : State) (core seat strm vf part store addr pm : Nat) : State :=
  let s := s.log core seat ⟨2, false, strm, cid part vf, store, BitVec.ofNat 64 addr⟩
  s.reportVf vf { type := 1, strm := if strm = 7 then 0xFF else strm, cid := cid part vf, seat := seatNo core seat, a1 := addr, a2 := pm, detail := store }
def State.uncorrError (s : State) (core seat : Nat) (e : Engine) (vf part store addr pm : Nat) : State :=
  s.uncorrAt core seat e.idx vf part store addr pm

/-- A STAGE2 report (R137, R333): access kind 0 read, 1 write, 2 atomic, 3 ring fill. The state keeps its SEQ. -/
def State.stage2Report (s : State) (core seat : Nat) (e : Engine) (vf part : Nat) (va : Word) (gpa kind : Nat)
    (walk : Bool) : State :=
  s.reportPf { type := 4, walk := walk, strm := e.idx, cid := cid part vf, seat := seatNo core seat,
               a1 := va.toNat, a2 := gpa, detail := kind }

end Sys2Proof.Machine
end

