-- ==== Sys2Proof/Machine/Ops.lean ====
section
/-! DEFINITION. Taking an exception and returning from it (R311, R317 to R323), and the issue of an instruction: the checks of
R25 steps 4 to 7, the wait and the signal (R24, R26), the pending registers (R79) and the move to the next word (R28, R91).
Every instruction's meaning goes through `issue`. -/
namespace Sys2Proof
/-- Whether the word's wait is of kind 01 (R26). -/
def Wait.isClr : Wait → Bool | .clr _ => true | _ => false
/-- The signal that an instruction sets when its effects are performed (R26). -/
def Ann.late (a : Ann) : Option (Fin 64) := match a.sig with | .done n => some n | _ => none
/-- The C registers a scalar operand names, for the check of R79. -/
def SReg.cregs : SReg → List CReg | .c r => [r] | _ => []
end Sys2Proof

namespace Sys2Proof.Machine

/-! ## Trap causes (R318) -/

inductive Cause where
  | illegal | priv | misalign | pfault1 | pfault2 | wtstore | spuninit | dsbranch | fmtunder | stdepth | storder
  | pmdead | pmpool | ibc | winovf | qmisuse | uncorr | gate | bankscrub | integ | seam | brk | swtrap | wpfail
deriving DecidableEq, Repr, Inhabited

/-- Cause codes (R318). -/
def Cause.code : Cause → Nat
  | .illegal => 0x01 | .priv => 0x02 | .misalign => 0x03 | .pfault1 => 0x04 | .pfault2 => 0x05 | .wtstore => 0x06
  | .spuninit => 0x07 | .dsbranch => 0x08 | .fmtunder => 0x09 | .stdepth => 0x0A | .storder => 0x0B | .pmdead => 0x0C
  | .pmpool => 0x0D | .ibc => 0x0E | .winovf => 0x0F | .qmisuse => 0x10 | .uncorr => 0x11 | .gate => 0x12
  | .bankscrub => 0x13 | .integ => 0x14 | .seam => 0x15 | .brk => 0x16 | .swtrap => 0x17 | .wpfail => 0x18

/-- A trap as an instruction raises it. `past` is true when TRAPNPC is the next word of a stream other than C (R323). -/
structure Trap where
  cause : Cause
  addr : Word := 0
  past : Bool := false
  prog : Nat := 0
  pfk : Nat := 0
deriving DecidableEq, Repr, Inhabited

/-- The record of a trap of stream `e` at its position (R93, R319). A word that has had its kind-01 wait has WD = 1; DSBRANCH is
decided before the wait and has WD = 0 (R92). -/
def Bank.trapRec (b : Bank) (e : Engine) (t : Trap) (clrWait : Bool) : TrapRec :=
  let c := b.ctl e
  { strm := e, cause := t.cause.code, pc := c.pc
    npc := if e = .c then c.npc else if t.past then (b.ring e).next c.pc else c.pc
    addr := t.addr, prog := t.prog, pfk := t.pfk, wd := c.wd && clrWait && t.cause != .dsbranch
    ds := e == .c && c.ds }

/-- TRAPFL of a record (R317): PROG [63:32], PFK [10:8], WD [1], DS [0]; END and PEND are 0. -/
def TrapRec.fl (r : TrapRec) : Word :=
  BitVec.ofNat 64 (r.prog % 2 ^ 32 * 2 ^ 32 + r.pfk * 256 + b2n r.wd * 2 + b2n r.ds)
/-- The trap registers a record is written into (R317, R319). -/
def TrapRec.regs (r : TrapRec) : TrapRegs :=
  ⟨BitVec.ofNat 64 r.pc, BitVec.ofNat 64 r.npc, BitVec.ofNat 64 r.cause, r.addr, BitVec.ofNat 64 r.strm.idx, r.fl⟩

/-- A trap record arrives at a bank that can handle it: the trap registers when no trap is being handled, else the waiting
records, in order (R319, R321). It sets WFE's latch (R343). -/
def Bank.takeRecord (b : Bank) (r : TrapRec) : Bank :=
  if b.handling then { b with waiting := b.waiting ++ [r], wfe := true }
  else { b with trap := r.regs, handling := true, wfe := true }

/-- Whether a trap of stream `e` stops the seat: raised by C in handler mode, or in a bank without a handler (R322). -/
def Bank.stopsSeat (b : Bank) (e : Engine) : Bool := (e == .c && b.handler) || b.hring.len == 0

/-- SEATSTOP (R322, R333): to the VF's mailbox at level U, else to the PF mailbox. -/
def State.seatStop (s : State) (core seat : Nat) (b : Bank) (r : TrapRec) : State :=
  let rep : Report := { type := 5, strm := r.strm.idx, cid := b.cid, seat := seatNo core seat, a1 := r.pc,
                        a2 := r.addr.toNat, detail := r.cause + r.strm.idx * 256 }
  if b.lvl = .u then s.reportVf b.vf rep else s.reportPf rep

/-- Actions of a job give up their places in every column's order: all of them, or those that `which` picks (0: the instruction that its
stream is at, 1: k-steps, 2: fills). -/
def State.dropTokWait (s : State) (job : Nat) (which : Nat → Bool) : State :=
  { s with cores := s.cores.map fun (n, c) => (n, { c with tokWait := c.tokWait.filter fun w => !(w.job == job && which w.what) }) }

/-- TAKING AN EXCEPTION. The stream stops at its instruction (R319 step 1); the record is written into the trap registers or waits (step 2),
or the seat stops (R322). The C stream is diverted later, at its next boundary (`divert`). `b` is the live bank of the seat. An action that
will not be made gives up its place among those that wait for heat tokens (R253). When no trap is being handled the registers are written
also when the seat then stops. -/
def State.raise (s : State) (core seat : Nat) (b : Bank) (e : Engine) (r : TrapRec) : State :=
  let s := if b.stopsSeat e then s.dropTokWait b.job fun _ => true else if e = .m then s.dropTokWait b.job (· == 0) else s
  let b1 := b.setCtl e { b.ctl e with trapped := true, scrub := none }
  if b.stopsSeat e then
    let b2 := if b.handling then { b1 with waiting := b1.waiting ++ [r] } else { b1 with trap := r.regs, handling := true }
    (s.setBank core seat { b2 with stopped := true }).seatStop core seat b2 r
  else s.setBank core seat (b1.takeRecord r)

/-- The stage a diverted or swapped-out C stream keeps: a TLBI, GPAFL, WSEAL or KEYZAP in its second part is withdrawn and
issues again afresh (R314, R340); a PMRETW past its retire point and an answered instruction keep their place. -/
def Stage.afterDivert : Stage → Stage
  | .posted _ => .fresh | x => x

/-- Removes what the C stream's interrupted instruction has asked for and must ask for again: a PMALLOC's place (R175), a
JOIN's (R121), a WSEAL's hold (R314). -/
def State.withdraw (s : State) (core : Nat) (b : Bank) : State :=
  let p := s.part b.part
  let c := s.core core
  (s.setPart b.part { p with pmReqs := p.pmReqs.filter (fun r => r.1 != b.job),
                             joinWait := p.joinWait.filter (fun w => w.1 != ⟨b.job, .c, 0⟩) }).setCore core
    { c with seals := c.seals.filter (·.job != b.job) }

/-- TRAP_DIVERSION (R319 steps 3 and 4): C's position is kept and C enters handler mode at word 0 of HRING, with its
fetched-ahead words discarded. No other register changes. -/
def Bank.divert (b : Bank) : Bank :=
  let c := b.cS
  { b with
    handler := true
    kept := some ⟨c.pc, c.npc, c.ds, c.wd, c.wclr, c.stage.afterDivert, c.started, c.done⟩
    cS := { c with started := true, done := false, trapped := false, pc := b.hring.base, npc := b.hring.next b.hring.base,
                   ds := false, wd := false, wclr := false, stage := .fresh, fetched := [] }
    wbuf := [] }
/-- C can be diverted: a trap is being handled, C is not yet in its handler, and it is at an instruction boundary: its instruction
has not been answered, is no SWAPB, and is not stalled on a second-stage fault (R137, R319, R322, R339). -/
def Bank.canDivert (b : Bank) : Bool :=
  b.handling && !b.handler && !b.stopped && !b.ended && !b.swapping && b.frozen.isNone && b.cS.s2stall.isNone
    && (match b.cS.stage with | .answered _ => false | _ => true)

/-- A stream that may try to issue: started, not done, not stopped at a trap, its seat not stopped, not stalled on a
second-stage fault; the C stream does not issue past a trap it is to be diverted for; no stream of a seat that a SWAPB is
exchanging issues, but for that SWAPB (R14, R137, R319, R322, R336). -/
def Bank.mayRun (b : Bank) (e : Engine) : Bool :=
  let c := b.ctl e
  c.started && !c.done && !c.trapped && !b.stopped && c.s2stall.isNone && !(e == .c && b.canDivert)
    && (b.frozen.isNone || (e == .c && b.frozen == some b.job))

/-- The next waiting record, if there is one, is written into the trap registers at the RTE that ends a handling (R321).
A WPFAIL record holds the position pair that the RTE leaves (R311). -/
def Bank.nextRecord (b : Bank) : Bank :=
  match b.waiting with
  | [] => { b with handling := false }
  | r :: rs =>
    let r := if r.wpfail.isSome then { r with pc := b.cS.pc, npc := b.cS.npc, ds := b.cS.ds, wd := b.cS.wclr } else r
    { b with trap := r.regs, waiting := rs, handling := true }

/-- THE RETURN FROM AN EXCEPTION (R323), after its checks: leave handler mode; END ends the job; with k = 0 C issues the word
at TRAPC, as a delay-slot word when DS = 1 and without its wait when WD = 1, then continues at TRAPNPC; else C returns to its
kept pair and stream k resumes at TRAPNPC. Fetched-ahead words are discarded (R29). What PROG does to the resumed
instruction is the engines' (`resume`). -/
def Bank.ret (b : Bank) (resume : Bank → Engine → Nat → Bank) : Bank :=
  let fl := b.trap.fl.toNat
  let strm := (Engine.ofIdx (b.trap.strm.toNat % 8)).getD .c
  let npc := b.trap.npc.toNat
  let b0 := { b with handler := false, kept := none }
  if flag fl 11 then
    let fin (c : Ctl) : Ctl := { c with done := true, trapped := false, scrub := none }
    { b0 with cS := fin b0.cS, aS := fin b0.aS, vS := fin b0.vS, mS := fin b0.mS, dS := fin b0.dS,
              queues := [], ended := true, handling := false, waiting := [] }
  else if strm = .c then
    let k := b.kept.getD ⟨0, 0, false, false, false, .fresh, true, false⟩
    let same := b.trap.c.toNat == k.pc
    { b0 with cS := { b.cS with started := k.started, done := k.done, trapped := false, pc := b.trap.c.toNat, npc := npc,
                                ds := flag fl 0, wd := flag fl 1, wclr := flag fl 1, stage := if same then k.stage else .fresh,
                                fetched := [] } }.nextRecord
  else
    let k := b.kept.getD ⟨0, 0, false, false, false, .fresh, true, false⟩
    let b1 := { b0 with cS := { b.cS with started := k.started, done := k.done, trapped := false, pc := k.pc, npc := k.npc,
                                          ds := k.ds, wd := k.wd, wclr := k.wclr, stage := k.stage, fetched := [] } }
    let c := b1.ctl strm
    -- an instruction resumed at TRAPC does not repeat its wait when WD = 1 (R26)
    let b2 := b1.setCtl strm { c with trapped := false, pc := npc, fetched := [],
                                      wd := npc == b.trap.c.toNat && flag fl 1, wclr := npc == b.trap.c.toNat && flag fl 1,
                                      stage := .fresh }
    (resume b2 strm (fl / 2 ^ 32)).nextRecord

/-! ## Issue -/

/-- What an instruction does when it issues. -/
inductive Go where
  | next                             -- on to the next word
  | slot (t : Option Nat)            -- C: a delay slot follows; then the target, or the word after the slot
  | to (t : Option Nat)              -- A, V, M, D: a branch, taken or not (R29)
  | passed                           -- on to the next word; the issue signal has been set before
  | set                              -- the meaning has set the position itself
deriving DecidableEq, Repr, Inhabited

/-- The outcome of one attempt of an instruction on a bank or on the state: done (`late` when what it started will set the
kind-10 signal); not ready with nothing changed; not ready but something has changed; issued, to be completed in a later attempt;
or a trap. -/
inductive Res (σ : Type) where
  | ok (s : σ) (go : Go) (late : Bool)
  | wait
  | hold (s : σ)
  | begun (s : σ)
  | trap (t : Trap) (s : σ)
deriving Repr

/-- What an instruction needs before it issues: a level, the model-owner compartment, whether it transfers control
(R92), the registers it reads or writes (R79). -/
structure Pre where
  lvl : Lvl := .u
  mo : Bool := false
  ctl : Bool := false
  regs : List CReg := []
  seamOk : Bool := false             -- M: it may issue behind deferred work of its seam (R227, R249)
deriving DecidableEq, Repr, Inhabited

def Lvl.le (a b : Lvl) : Bool := a.code ≤ b.code

/-- The registers that pending accesses of a job will write (R79). -/
def State.pendingRegs (s : State) (job : Nat) : List CReg :=
  s.acc.filterMap fun a =>
    if a.job = job then
      match a.kind with
      | .load d _ _ => if d = .zr then none else some d
      | .amo _ d _ _ _ => if d = .zr then none else some d
      | _ => none
    else none
def State.regPending (s : State) (job : Nat) (rs : List CReg) : Bool :=
  (s.pendingRegs job).any fun r => rs.contains r
/-- Whether a stream has accesses that are not yet performed. -/
def State.hasPending (s : State) (job : Nat) (e : Engine) : Bool := s.acc.any fun a => a.job == job && a.eng == e
/-- Whether earlier instructions of a stream still have accesses to perform: pending ones, blocks not yet requested, and
load requests and k-steps the M stream has issued past (R111). -/
def State.streamBusy (s : State) (b : Bank) (e : Engine) : Bool :=
  s.hasPending b.job e || (e == .a && b.ainst.isSome) || (e == .m && !(b.reqs.isEmpty && b.prods.isEmpty))
/-- Whether a stream has a set of a signal on its way, which a clear of the stream must not overtake (R111). -/
def State.ownSetPending (s : State) (b : Bank) (e : Engine) (n : Fin 64) : Bool :=
  s.acc.any (fun a => a.job == b.job && a.eng == e && a.sig == some n)
    || (e == .m && (b.reqs.any (·.sig == some n) || b.prods.any (·.sig == some n)))
    || (e == .c && s.sigs.any fun f => f.job == b.job && f.done == some n)
/-- Reads of an element for FENCE: an atomic is both a read and a write (R195). -/
def Access.elemReads (a : Access) (x : Elem) : Bool := !x.write || (match a.kind with | .amo .. => true | _ => false)
/-- The level at which an element is performed: every scope when it is done, else the scopes it is visible in (R182). -/
def Elem.at (x : Elem) (scope : Scope) : Bool := x.done || (scope.code ≤ x.seen)
/-- An access is, or waits to be, a release event: a push, a marker of SIGSET, or a kind-10 signal (R187). -/
def Access.releases (a : Access) : Bool :=
  a.sig.isSome || match a.kind with | .blockLoad _ _ _ => true | .sigset => true | _ => false
/-- Scratchpad reads of the M stream before place `id` of its order that are not performed: slot fills and A operands (R230). -/
def Bank.readsBefore (b : Bank) (id : Nat) : Bool :=
  b.reqs.any (fun r => r.id < id && !r.fromWeight && (List.range (r.k - r.filled)).any fun i => (r.pre.find? (r.filled + i)).isNone) ||
    b.prods.any fun p => p.id < id && !p.allApplied && p.readsSp
def State.mReads (s : State) (job : Nat) (e : Engine) (id : Nat) : Bool :=
  e == .m && match s.findJob job with | some (_, b) => b.readsBefore id | none => false
/-- Whether reads, or writes, of a stream before place `id` of its order are not yet performed at a scope; release events count as
writes (R190, R195). -/
def State.fenceReads (s : State) (job : Nat) (e : Engine) (id : Nat) : Bool :=
  s.acc.any (fun a => a.job == job && a.eng == e && a.id < id && a.elems.any fun x => !x.done && a.elemReads x) || s.mReads job e id
def State.fenceWrites (s : State) (job : Nat) (e : Engine) (id : Nat) (scope : Scope) : Bool :=
  s.acc.any (fun a => a.job == job && a.eng == e && a.id < id && (a.releases || a.elems.any fun x => !x.at scope && x.write))
    || (e == .c && s.sigs.any fun f => f.job == job && f.id < id)
/-- The stores of other streams that a stream of a seat sees are performed at a scope: what it releases may follow from them (R187,
R188). -/
def State.othersAt (s : State) (job core seat : Nat) (e : Engine) (scope : Scope) : Bool :=
  !(s.acc.any fun a => !(a.job == job && a.eng == e) && a.elems.any fun x => a.showsTo core seat x && !x.at scope)
/-- Copies of a D stream before place `id` of its order still have reads or writes to perform: FENCE orders them (R195). -/
def State.copiesBefore (s : State) (job : Nat) (e : Engine) (id : Nat) : Bool :=
  e == .d && s.copies.any fun c => c.job == job && c.id < id
/-- Whether a FENCE marker still holds back later accesses of a kind (R195): an earlier access of a kind it orders before
reads, or before writes, is not performed at its scope. At stream scope it orders nothing. -/
def State.fenceHolds (s : State) (f : Access) (laterWrite : Bool) : Bool :=
  match f.kind with
  | .fence k =>
    f.scope != .stream &&
      ((k.getLsbD (if laterWrite then 1 else 0) && (s.fenceReads f.job f.eng f.id || s.copiesBefore f.job f.eng f.id))
        || (k.getLsbD (if laterWrite then 3 else 2) &&
          (s.fenceWrites f.job f.eng f.id f.scope || s.copiesBefore f.job f.eng f.id
            || !s.othersAt f.job f.core f.seat f.eng f.scope)))
  | _ => false
/-- Whether an acquire event at place `id` of a stream's order may take place: for FENCE it counts as a read (R190). -/
def State.acquireAt (s : State) (job : Nat) (e : Engine) (id : Nat) : Bool :=
  !(s.acc.any fun a => a.job == job && a.eng == e && a.id < id && s.fenceHolds a false)
/-- Whether the current instruction of a stream may acquire. -/
def State.acquireReady (s : State) (job : Nat) (e : Engine) : Bool := s.acquireAt job e s.nextId
/-- Whether a release event of a scope may take place (R187, R190) at place `id` of the order of a stream of a seat: every earlier
access that is not UO is performed at that scope, and no FENCE that orders later writes holds. -/
def State.releaseAt (s : State) (core seat job : Nat) (e : Engine) (id : Nat) (scope : Scope) : Bool :=
  !(s.acc.any fun a => a.job == job && a.eng == e && a.id < id &&
    (a.elems.any (fun x => !x.at scope && x.ord != .uo) || s.fenceHolds a true)) && !s.mReads job e id
    && s.othersAt job core seat e scope
/-- Whether the current stream may release now. -/
def State.releaseReady (s : State) (job : Nat) (e : Engine) (scope : Scope) : Bool :=
  s.releaseAt s.cur.core s.cur.seat job e s.nextId scope

/-- Moves a stream past its word (R28, R91): an ordinary word, a word with a delay slot, or a branch. -/
def Bank.advance (b : Bank) (e : Engine) (g : Go) : Bank :=
  let b := if e = .m then { b with seam := b.seam.map fun x => { x with issued := x.issued + 1 } } else b
  let c := b.ctl e
  let r := b.ring e
  let base : Ctl := { c with wd := false, wclr := false, stage := .fresh, scrub := none, fetched := c.fetched.filter (fun x => x.1 != c.pc) }
  match e, g with
  | _, .set => b
  | .c, .slot t => b.setCtl .c { base with pc := c.npc, npc := t.getD (r.next c.npc), ds := true,
                                           fetched := if t.isSome then [] else base.fetched }
  | .c, .next | .c, .passed => b.setCtl .c { base with pc := c.npc, npc := r.next c.npc, ds := false }
  | .c, .to t => b.setCtl .c { base with pc := t.getD c.npc, npc := r.next (t.getD c.npc), ds := false, fetched := [] }
  | e, .to (some t) => b.setCtl e { base with pc := t, fetched := [] }
  | e, _ => b.setCtl e { base with pc := r.next c.pc }

/-- A marker that sets a signal once the stream's earlier accesses are performed (R111, R112). -/
def sigMarker (s : State) (core seat : Nat) (b : Bank) (e : Engine) (n : Fin 64) : State :=
  { s with
    acc := s.acc ++ [{ id := s.nextId, job := b.job, core := core, seat := seat, eng := e, vf := b.vf, part := b.part,
                       kind := .sigset, elems := [], sig := some n }]
    nextId := s.nextId + 1 }

/-- The attempt took no issue slot: the stream is not ready, or it completes what has issued before (R128). -/
def State.blockedAt (s : State) : State := { s with cur := { s.cur with blocked := true } }

/-- The end of an instruction that has issued: the signal of kind 01 is set in the issue cycle; that of kind 10 now when
nothing of the stream is pending, else by a marker behind it (R26, R112); the stream moves on. -/
def State.finish (s : State) (core seat : Nat) (b : Bank) (e : Engine) (ann : Ann) (g : Go) (late : Bool) : State :=
  let b1 := b.advance e g
  let s := if g = .passed then s.blockedAt else s
  match ann.sig with
  | .none => s.setBank core seat b1
  | .issue n => s.setBank core seat (if g = .passed then b1 else b1.setSig n)
  | .done n =>
    if late then s.setBank core seat b1
    else if s.streamBusy b e then sigMarker (s.setBank core seat b1) core seat b1 e n
    else s.setBank core seat (b1.setSig n)

/-- The signal of kind 01 of an instruction that issues now and completes in a later attempt (R26). -/
def State.issueSignal (s : State) (b : Bank) : Bank := match s.cur.ann.sig with | .issue n => b.setSig n | _ => b

/-- The wait of a word (R24, R26): the bank after it, or none while it cannot succeed. A set of the stream itself on
a signal it clears goes first (R111); a wait is an acquire event, which a FENCE may hold back (R187, R190). -/
def State.doWait (s : State) (b : Bank) (e : Engine) (w : Wait) : Option Bank :=
  let c := b.ctl e
  if c.wd then some b
  else
    match w with
    | .none => some b
    | w => if !s.acquireReady b.job e then none else match w with
    | .none => some b
    | .clr n => if b.sig n && !s.ownSetPending b e n then some ((b.clrSig n).setCtl e { c with wd := true, wclr := true }) else none
    | .keep n => if b.sig n then some (b.setCtl e { c with wd := true }) else none
    | .tag n => if b.tag n then some (b.setCtl e { c with wd := true }) else none

/-- The M stream has issued past products whose k-steps are not all applied: a trap of it waits for them, since M's traps are
precise (R227, R258; assumption 97). -/
def Bank.unsettled (b : Bank) (e : Engine) : Bool := e == .m && b.prods.any (·.passed)

/-- Raises a trap of the current stream. -/
def State.trapHere (s : State) (b : Bank) (t : Trap) : Host.Outcome State Fault Refusal :=
  let c := s.cur
  .next (s.raise c.core c.seat b c.eng (b.trapRec c.eng t c.ann.wait.isClr))

/-- Whether TRAPNPC of a trap at a word is the next word: A, V and D (R225, R280; assumption 13); C and M: R93, R258. -/
def skips (e : Engine) : Bool := e == .a || e == .v || e == .d
/-- A trap of engine `e` at a word. -/
def trapOf (e : Engine) (c : Cause) (a : Word := 0) : Trap := { cause := c, addr := a, past := skips e }
/-- A trap with its cause and TRAPADDR. -/
def mkTrap (c : Cause) (a : Word := 0) : Trap := { cause := c, addr := a }

/-- ISSUE (R25 steps 4 to 7). Level and compartment, DSBRANCH, the wait, the pending registers, the UNCORR of a poisoned register (R326; an
MSTQ's names the rows done), then the instruction's own meaning `body` on the state whose current bank has had its wait; then the signals
and the next word. An attempt that does not issue is marked blocked, whether or not it has changed something (R128). -/
def issue (p : Pre) (body : State → Bank → Res State) (s : State) : Host.Outcome State Fault Refusal :=
  let c := s.cur
  match s.bank c.core c.seat with
  | none => .fault .noStream
  | some b =>
    if !(p.lvl.le (b.level c.eng)) || (p.mo && !(b.ctl c.eng).mo) then
      if b.unsettled c.eng then .next s.blockedAt else s.trapHere b { cause := .priv }
    else if p.ctl && c.eng == .c && b.cS.ds then s.trapHere b { cause := .dsbranch }
    else
      match s.doWait b c.eng c.ann.wait with
      | none => .next s.blockedAt
      | some b1 =>
        let s1 := s.setBank c.core c.seat b1
        if s.regPending b.job p.regs || (c.eng == .m && !p.seamOk && b.deferred) then .next s1.blockedAt
        else if c.consumes then
          if b1.unsettled c.eng then .next s1.blockedAt
          else s1.trapHere b1 { trapOf c.eng .uncorr with prog := if c.eng = .m then (b1.minst.map (·.prog)).getD 0 else 0 }
        else
          match body s1 b1 with
          | .wait => .next s1.blockedAt
          | .hold s2 => .next s2.blockedAt
          | .begun s2 => .next s2
          | .trap t s2 =>
            if b1.unsettled c.eng then .next s1.blockedAt
            else match s2.bank c.core c.seat with
            | none => .next s2
            | some b2 => s2.trapHere b2 t
          | .ok s2 g late =>
            match s2.bank c.core c.seat with
            | none => .next s2
            | some b2 => .next (s2.finish c.core c.seat b2 c.eng c.ann g late)

/-- Lifts a meaning that changes only its own bank. -/
def onBank (f : Bank → Res Bank) (s : State) (b : Bank) : Res State :=
  match f b with
  | .ok b' g l => .ok (s.setBank s.cur.core s.cur.seat b') g l
  | .wait => .wait
  | .hold b' => .hold (s.setBank s.cur.core s.cur.seat b')
  | .begun b' => .begun (s.setBank s.cur.core s.cur.seat b')
  | .trap t b' => .trap t (s.setBank s.cur.core s.cur.seat b')
/-- Issue of an instruction that changes only its own bank. -/
def issueB (p : Pre) (f : Bank → Res Bank) (s : State) : Host.Outcome State Fault Refusal := issue p (onBank f) s
/-- Issue of a plain register instruction: it never waits or traps. -/
def issueR (p : Pre) (f : Bank → Bank) (s : State) : Host.Outcome State Fault Refusal :=
  issueB p (fun b => .ok (f b) .next false) s

end Sys2Proof.Machine
end

