-- ==== Sys2Proof/Machine/Coord.lean ====
section
/-! DEFINITION. Coordination: signals, RDV, groups and barriers, supersteps, range splitting, ticks and copy-tag waits
(spec/05_streams.md R108 to R113, R120 to R127; spec/12_copy.md R284). -/
namespace Sys2Proof.Machine

/-! ## Signals (R111 to R113) -/

/-- SIGSET: set once every earlier access of the stream is performed; the stream does not wait. -/
def execSigset (n : Fin 64) (s : State) : Host.Outcome State Fault Refusal :=
  issue {} (fun s b =>
    let c := s.cur
    if s.streamBusy b c.eng then .ok (sigMarker s c.core c.seat b c.eng n) .next false
    else .ok (s.setBank c.core c.seat (b.setSig n)) .next false) s
/-- SIGCLR: in program order with the stream's own sets. -/
def execSigclr (n : Fin 64) (s : State) : Host.Outcome State Fault Refusal :=
  issue {} (fun s b =>
    if s.ownSetPending b s.cur.eng n then .wait
    else .ok (s.setBank s.cur.core s.cur.seat (b.clrSig n)) .next false) s
/-- SIGWAIT: wait until the signal is set, and clear it, as one action; an acquire event, which a FENCE may hold back (R190). -/
def execSigwait (n : Fin 64) (s : State) : Host.Outcome State Fault Refusal :=
  issue {} (fun s b =>
    if !b.sig n || s.ownSetPending b s.cur.eng n || !s.acquireReady b.job s.cur.eng then .wait
    else .ok (s.setBank s.cur.core s.cur.seat (b.clrSig n)) .next false) s

/-- The core and seat a target value names (R113). -/
def targetCore (a : Word) : Nat := fld a.toNat 2 11
def targetSeat (a : Word) : Nat := fld a.toNat 0 2

/-- SIGX (R113): the value checks, the release, and the signal on its way. -/
def execSigx (a : CReg) (n : Fin 64) (s : State) : Host.Outcome State Fault Refusal :=
  issue { regs := [a] } (fun s b =>
    let t := b.getC a
    if t.toNat ≥ 2 ^ 13 || !s.coreInPart (targetCore t) b.part
        || (targetCore t == s.cur.core && targetSeat t == s.cur.seat) then .trap (mkTrap .illegal t) s
    else if !s.releaseReady b.job .c .system then .wait
    else
      .ok { s with sigs := s.sigs ++ [⟨b.vf, b.part, b.job, seatNo s.cur.core s.cur.seat, t, n, s.cur.ann.late, s.nextId⟩]
                   nextId := s.nextId + 1 } .next true) s

/-- SIGX_DELIVERY (`ev.idx`: the signal on its way): the earliest from one stream to one target arrives first; it is set when the
target's live bank belongs to the VF, else dropped with a SIGXDROP report; either way the SIGX is performed. -/
def execSigxDelivery (s : State) : Host.Outcome State Fault Refusal :=
  match s.sigs[s.cur.ev.idx]? with
  | none => .next s
  | some f =>
    if (s.sigs.take s.cur.ev.idx).any (fun g => g.job == f.job && g.target == f.target) then .next s
    else
      let s := { s with sigs := s.sigs.eraseIdx s.cur.ev.idx }
      let s := match s.bank (targetCore f.target) (targetSeat f.target) with
        | some o =>
          if o.vf = f.vf then s.setBank (targetCore f.target) (targetSeat f.target) (o.setSig f.sig)
          else s.reportVf f.vf { type := 3, strm := 0, cid := cid f.part f.vf, seat := f.src, a1 := f.target.toNat, detail := f.sig }
        | none =>
          s.reportVf f.vf { type := 3, strm := 0, cid := cid f.part f.vf, seat := f.src, a1 := f.target.toNat, detail := f.sig }
      .next (match f.done with | some n => s.mapJob f.job (·.setSig n) | none => s)

/-! ## Groups (R120 to R123) -/

def Partition.group? (p : Partition) (id : Nat) : Option Group := p.groups.find? (·.id == id)
def Partition.setGroup (p : Partition) (g : Group) : Partition :=
  if (p.group? g.id).isSome then { p with groups := p.groups.map fun o => if o.id = g.id then g else o }
  else { p with groups := p.groups ++ [g] }
/-- Completes the open episode when every required member has arrived or left (R123). Streams of other packages go on in theirs. -/
def Group.settle (g : Group) : Group :=
  if g.isOpen && g.required.all g.arrived.contains then
    { g with released := g.released ++ g.arrived.filter (·.pkg = 0), arrived := [], required := [], episode := g.episode + 1,
             isOpen := false }
  else g
/-- A stream leaves a group; the last member dissolves it (R121). -/
def Group.leave (g : Group) (t : StreamId) : Group :=
  ({ g with members := g.members.filter (· != t), required := g.required.filter (· != t),
            arrived := g.arrived.filter (· != t), released := g.released.filter (· != t) } : Group).settle
def Partition.leaveIf (p : Partition) (f : Group → Bool) (t : StreamId) : Partition :=
  { p with groups := (p.groups.map fun g => if f g && g.members.contains t then g.leave t else g).filter (!·.members.isEmpty) }
/-- A stream leaves every group of its partition (R109, R121). -/
def State.leaveAll (s : State) (part : Nat) (t : StreamId) : State :=
  s.setPart part ((s.part part).leaveIf (fun _ => true) t)

/-- A stream adds itself to the arrival set; the first arrival fixes the required members (R122, R123). -/
def Group.arrive (g : Group) (t : StreamId) : Group :=
  let g := if g.isOpen then g else { g with required := g.members, isOpen := true }
  ({ g with arrived := if g.arrived.contains t then g.arrived else g.arrived ++ [t] } : Group).settle

def groupId (a : Word) : Nat := a.toNat % 65536
/-- Whether an earlier stalled JOIN is served before stream `t`'s JOIN of `id` (R121: arrival order). -/
def Partition.joinAhead (p : Partition) (t : StreamId) (id : Nat) : Bool :=
  (p.joinWait.takeWhile (fun w => w.1 != t)).any fun w =>
    w.2 == id || ((p.group? w.2).isNone && (p.group? id).isNone)

/-- JOIN (R121). -/
def execJoin (a : SReg) (s : State) : Host.Outcome State Fault Refusal :=
  issue { regs := a.cregs } (fun s b =>
    let t : StreamId := ⟨b.job, s.cur.eng, 0⟩
    let id := groupId (b.getS a)
    let p := s.part b.part
    let g := p.group? id
    if g.any (·.members.contains t) then .ok s .next false
    else if (p.groups.filter (·.members.contains t)).length ≥ 4 then .trap (trapOf s.cur.eng .illegal (BitVec.ofNat 64 id)) s
    else
      let room := match g with | some g => g.members.length < 4096 | none => p.groups.length < 256
      if room && !p.joinAhead t id then
        let p := { p with joinWait := p.joinWait.filter (fun w => w.1 != t) }
        let p := match g with
          | some g => p.setGroup { g with members := g.members ++ [t] }
          | none => p.setGroup { id := id, members := [t] }
        .ok (s.setPart b.part p) .next false
      else if p.joinWait.contains (t, id) then .wait
      else .hold (s.setPart b.part { p with joinWait := p.joinWait.filter (fun w => w.1 != t) ++ [(t, id)] })) s

/-- What a stream of another package of the partition does to a group (R15, R120): 0 JOIN, 1 LEAVE or the end of the stream, 2 the
arrival of its GBAR. Group IDs have 16 bits. A JOIN that has no room yet takes its place among the stalled ones and is made again (R121); a
fifth one does nothing here. -/
def Partition.remoteGroup (p : Partition) (id op : Nat) (t : StreamId) : Partition :=
  if t.pkg = 0 ∨ p.pkgCount ≤ 1 ∨ 65536 ≤ id then p
  else match op, p.group? id with
  | 0, g =>
    let placed : Partition := { p with joinWait := p.joinWait.filter (fun w => w.1 != t) }
    let room := match g with | some g => g.members.length < 4096 | none => p.groups.length < 256
    if g.any (·.members.contains t) || 4 ≤ (p.groups.filter (·.members.contains t)).length then p
    else if !room || p.joinAhead t id then
      if p.joinWait.contains (t, id) then p else { placed with joinWait := placed.joinWait ++ [(t, id)] }
    else match g with
      | some g => placed.setGroup { g with members := g.members ++ [t] }
      | none => placed.setGroup { id := id, members := [t] }
  | 1, _ => { p with joinWait := p.joinWait.filter (fun w => w != (t, id)) }.leaveIf (·.id == id) t
  | _, some g => if g.members.contains t then p.setGroup (g.arrive t) else p
  | _, none => p

/-- LEAVE (R121). -/
def execLeave (a : SReg) (s : State) : Host.Outcome State Fault Refusal :=
  issue { regs := a.cregs } (fun s b =>
    let id := groupId (b.getS a)
    .ok (s.setPart b.part ((s.part b.part).leaveIf (·.id == id) ⟨b.job, s.cur.eng, 0⟩)) .next false) s

/-- GBAR (R122): the release, the arrival, the wait for the episode; its completion is an acquire, which a FENCE may hold back (R187, R190). -/
def execGbar (a : SReg) (s : State) : Host.Outcome State Fault Refusal :=
  issue { regs := a.cregs } (fun s b =>
    let t : StreamId := ⟨b.job, s.cur.eng, 0⟩
    let id := groupId (b.getS a)
    let p := s.part b.part
    match p.group? id with
    | none => .trap (trapOf s.cur.eng .illegal (BitVec.ofNat 64 id)) s
    | some g =>
      let g' : Group := { g with released := g.released.filter (· != t) }
      if !g.members.contains t then .trap (trapOf s.cur.eng .illegal (BitVec.ofNat 64 id)) s
      else if (b.ctl s.cur.eng).stage == .second then
        if g.released.contains t && s.acquireReady b.job s.cur.eng then .ok (s.setPart b.part (p.setGroup g')) .passed false else .wait
      else if !s.releaseReady b.job s.cur.eng .system then .wait
      else
        let b := s.issueSignal b
        .begun ((s.setBank s.cur.core s.cur.seat (b.setCtl s.cur.eng { b.ctl s.cur.eng with stage := .second })).setPart b.part
          (p.setGroup (g'.arrive t)))) s

/-! ## RDV (R109) -/

/-- Whether requests that a stream issued are still in flight: copies of D, weight programming and signals of C. -/
def State.requestsOf (s : State) (core : Nat) (b : Bank) (e : Engine) : Bool :=
  match e with
  | .c => (s.core core).wreqs.any (·.job == b.job) || s.sigs.any (·.job == b.job)
  | .d => s.copies.any (·.job == b.job)
  | _ => false
/-- RDV: earlier effects and requests are done, the stream leaves its groups, C closes fq, the stream is done. -/
def execRdv (s : State) : Host.Outcome State Fault Refusal :=
  issue { ctl := true } (fun s b =>
    let c := s.cur
    if c.eng = .m ∧ b.seam.isSome then .trap (mkTrap .seam) s
    else if s.streamBusy b c.eng || s.requestsOf c.core b c.eng then .wait
    else
      let s := s.leaveAll b.part ⟨b.job, c.eng, 0⟩
      let b := if c.eng = .c then { b with fqClosed := true } else b
      .ok (s.setBank c.core c.seat (b.setCtl c.eng { b.ctl c.eng with done := true })) .set false) s

/-! ## Supersteps (R124) -/

/-- The jobs that take part in a partition's supersteps: in any bank, live or out, that has not retired. -/
def State.participants (s : State) (part : Nat) : List Nat :=
  ((s.allBanks.filter fun (_, b) => b.part == part && b.ssPart).map fun (_, b) => b.job).eraseDups
/-- Ends the open superstep when every participant of every package has issued SSTEP: all leave it at the same TIMEBASE. With no
participant left here it ends for the other packages alone. -/
def State.settleSuperstep (s : State) (part : Nat) : State :=
  let p := s.part part
  if (!p.ssArrived.isEmpty || p.ssRemote) && (s.participants part).all p.ssArrived.contains && (p.pkgCount ≤ 1 || p.ssRemote) then
    let now := s.timebase
    p.ssArrived.foldl (fun s j => s.mapJob j fun b => { b with t0 := some now })
      (s.setPart part { p with ssReleased := p.ssReleased ++ p.ssArrived, ssArrived := [], ssRemote := false })
  else s
/-- SSTEP. -/
def execSstep (s : State) : Host.Outcome State Fault Refusal :=
  issue {} (fun s b =>
    let p := s.part b.part
    if !b.ssPart then .trap (mkTrap .illegal) s
    else
      let out := p.ssReleased.filter (· != b.job)
      if b.cS.stage == .second then
        if p.ssReleased.contains b.job && s.acquireReady b.job .c then .ok (s.setPart b.part { p with ssReleased := out }) .passed false else .wait
      else if !s.releaseReady b.job .c .system then .wait
      else
        let b := s.issueSignal b
        let s := s.setBank s.cur.core s.cur.seat { b with cS := { b.cS with stage := .second } }
        let arrived := if p.ssArrived.contains b.job then p.ssArrived else p.ssArrived ++ [b.job]
        .begun ((s.setPart b.part { p with ssArrived := arrived, ssReleased := out }).settleSuperstep b.part)) s

/-! ## Range splitting (R125, R126) -/

/-- Answers a steal request: the requester's range is overwritten, its RSTEAL completes, in the handler when `inHandler`, and its event
latch is set. -/
def Bank.stealAnswer (b : Bank) (inHandler : Bool) (lo hi : Word) : Bank :=
  let b := { b with rlo := lo, rhi := hi, wfe := true }
  if b.handler && !inHandler then { b with kept := b.kept.map fun k => { k with stage := .answered 0 } }
  else b.setCtl .c { b.cS with stage := .answered 0 }
/-- RNEXT: serves the oldest steal request, then takes a chunk. -/
def execRnext (d a : CReg) (s : State) : Host.Outcome State Fault Refusal :=
  issue { regs := [d, a] } (fun s b =>
    let lo := b.rlo.toNat
    let hi := b.rhi.toNat
    let mid := lo + (hi - lo + 1) / 2
    let size := Nat.max (b.getC a).toNat 1
    let (s, b) := match b.steals with
      | [] => (s, b)
      | (j, h) :: js =>
        let b := { b with steals := js }
        if 2 ≤ hi - lo then
          (s.mapJob j (·.stealAnswer h (BitVec.ofNat 64 mid) b.rhi), { b with rhi := BitVec.ofNat 64 mid })
        else (s.mapJob j (·.stealAnswer h 0 0), b)
    let top := b.rhi.toNat
    let b := if top ≤ lo then b.setC d (BitVec.allOnes 64)
      else { b.setC d b.rlo with rlo := BitVec.ofNat 64 (Nat.min (lo + size) top) }
    .ok (s.setBank s.cur.core s.cur.seat b) .next false) s
/-- RSTEAL: the value checks; an empty answer at once from an empty seat or another VF's job; else the request waits for the
victim's RNEXT. -/
def execRsteal (a : CReg) (s : State) : Host.Outcome State Fault Refusal :=
  issue { regs := [a] } (fun s b =>
    let t := b.getC a
    match b.cS.stage with
    | .answered _ => .ok s .passed false
    | _ =>
      if t.toNat ≥ 2 ^ 13 || clusterOf (targetCore t) != clusterOf s.cur.core
          || (targetCore t == s.cur.core && targetSeat t == s.cur.seat) then .trap (mkTrap .illegal t) s
      else
        let empty := .ok (s.setBank s.cur.core s.cur.seat { b with rlo := 0, rhi := 0, wfe := true }) .next false
        match s.bank (targetCore t) (targetSeat t) with
        | none => empty
        | some o =>
          if o.vf ≠ b.vf then empty
          else if o.steals.contains (b.job, b.handler) then .wait
          else
            let s := s.setBank s.cur.core s.cur.seat (s.issueSignal b)
            .begun (s.setBank (targetCore t) (targetSeat t) { o with steals := o.steals ++ [(b.job, b.handler)] })) s
/-- Every steal request pending on a bank is answered empty, when its job leaves the seat (R126). -/
def State.answerEmpty (s : State) (core seat : Nat) : State :=
  match s.bank core seat with
  | none => s
  | some b =>
    b.steals.foldl (fun s (j, h) => s.mapJob j (·.stealAnswer h 0 0)) (s.setBank core seat { b with steals := [] })

/-! ## Ticks (R127) -/

/-- TICKWAIT. -/
def execTickwait (a : CReg) (s : State) : Host.Outcome State Fault Refusal :=
  issue { regs := [a] } (fun s b =>
    if (b.getC a).toNat ≤ (s.part b.part).tickno then .ok s .next false else .wait) s

/-! ## Copy tags (R284) -/

/-- TWANY: an acquire event, as TWALL and TFFR are (R187), which a FENCE may hold back (R190). -/
def execTwany (a : SReg) (s : State) : Host.Outcome State Fault Refusal :=
  let e := s.cur.eng
  issueB { regs := a.cregs } (fun b =>
    if b.getS a = 0 then .trap (trapOf e .illegal) b
    else if b.tagbits &&& b.getS a = 0 || !s.acquireReady b.job e then .wait else .ok b .next false) s
/-- TWALL. -/
def execTwall (a : SReg) (s : State) : Host.Outcome State Fault Refusal :=
  issueB { regs := a.cregs } (fun b =>
    if b.tagbits &&& b.getS a = b.getS a && s.acquireReady b.job s.cur.eng then .ok b .next false else .wait) s
/-- The lowest set bit among the low 64. -/
def lowestBit (w : Word) : Option Nat := (List.range 64).find? fun i => w.getLsbD i
/-- TFFR. -/
def execTffr (d a : SReg) (s : State) : Host.Outcome State Fault Refusal :=
  issueB { regs := d.cregs ++ a.cregs } (fun b =>
    if !s.acquireReady b.job s.cur.eng then .wait
    else match lowestBit (b.tagbits &&& b.getS a) with
    | none => .ok (b.setS d (BitVec.allOnes 64)) .next false
    | some t =>
      let st := (b.getStatus t).toNat
      .ok (b.setS d (BitVec.ofNat 64 (st * 256 + (if st ≠ 0 then 64 else 0) + t))) .next false) s
/-- TCLR: the bits that clear take their status codes with them. -/
def execTclr (a : SReg) (s : State) : Host.Outcome State Fault Refusal :=
  issueR { regs := a.cregs } (fun b =>
    let gone := b.tagbits &&& b.getS a
    { b with tagbits := b.tagbits &&& ~~~ (b.getS a)
             status := b.status.map fun (t, c) => (t, if gone.getLsbD t then 0 else c) }) s

end Sys2Proof.Machine
end

