-- ==== Sys2Proof/Machine/Rounds.lean ====
section
/-! DEFINITION. The rounds of the issue scheduler (spec/05_streams.md R129): the counters' refill, and the event that starts a round. -/
namespace Sys2Proof.Machine

def Core.sched (c : Core) : Engine → Sched
  | .c => c.schedC | .a => c.schedA | .v => c.schedV | .m => c.schedM | .d => c.schedD
def Core.setSched (c : Core) (e : Engine) (x : Sched) : Core :=
  match e with
  | .c => { c with schedC := x } | .a => { c with schedA := x } | .v => { c with schedV := x }
  | .m => { c with schedM := x } | .d => { c with schedD := x }

/-- The VF of each seat's live job. -/
def State.seatVf (s : State) (core seat : Nat) : Option Nat := (s.bank core seat).map (·.vf)
/-- The VFs with a job in at least one seat, each once (R129). -/
def State.present (s : State) (core : Nat) : List Nat := ([0, 1, 2, 3].filterMap (s.seatVf core)).eraseDups

/-- The refill at a round start: c[v] = floor(256 w / W) (R129). -/
def State.roundStart (s : State) (core : Nat) (e : Engine) : State :=
  let c := s.core core
  let x := c.sched e
  let vs := s.present core
  let total := (vs.map fun v => (s.vf v).weight).sum
  let quota (v : Nat) : Int := if total = 0 then 0 else ((256 * (s.vf v).weight / total : Nat) : Int)
  s.setCore core (c.setSched e { x with refilled := true, c := vs.foldl (fun t v => t.put v (quota v)) [] })

/-- A VF that has left the core has no counter and no pointer there: c is 0 and sp is 3 when it comes back (R129). -/
def State.dropGone (s : State) (core : Nat) : State :=
  let vs := s.present core
  let keep (x : Sched) : Sched := { x with c := x.c.filter fun e => vs.contains e.1, sp := x.sp.filter fun e => vs.contains e.1 }
  let c := s.core core
  s.setCore core { c with schedC := keep c.schedC, schedA := keep c.schedA, schedV := keep c.schedV, schedM := keep c.schedM,
                          schedD := keep c.schedD }

/-- SCHED_ROUND_START (`ev.core`, `ev.idx`: the engine): at the first cycle of a round the counters are refilled, once. -/
def execSchedRoundStart (s : State) : Host.Outcome State Fault Refusal :=
  match Engine.ofIdx s.cur.ev.idx with
  | none => .next s
  | some e =>
    let x := (s.core s.cur.core).sched e
    if x.cyc % 256 = 0 ∧ !x.refilled then .next (s.roundStart s.cur.core e) else .next s

end Sys2Proof.Machine
end

