-- ==== Sys2Proof/Machine/Special.lean ====
section
/-! DEFINITION. MFS and MTS for every special register (spec/02_encoding.md R46, spec/04_control.md R82, R88, R89, R103 and each
register's own map: R27, R145, R160, R167, R202, R203, R251, R254, R317, R339). -/
namespace Sys2Proof.Machine

/-- The level that may read a register (R46). -/
def SpecialReg.readLvl : SpecialReg → Lvl
  | .trapc | .trapnpc | .trapcause | .trapaddr | .trapstrm | .trapfl | .pmwaitlim | .spmode | .spillbase | .spilllim | .winptr
  | .blst => .s
  | _ => .u
/-- The level that may write a register (R46). -/
def SpecialReg.writeLvl : SpecialReg → Lvl
  | .tickper | .tokmax => .h
  | r => SpecialReg.readLvl r

/-- A ring descriptor as it reads (R27). -/
def Ring.word (r : Ring) : Word := BitVec.ofNat 64 (r.len * 2 ^ 20 + r.base)
/-- WINPTR (R82). -/
def Bank.winptr (b : Bank) : Word :=
  BitVec.ofNat 64 (b.spd * 2 ^ 32 + b.depth * 2 ^ 16 + b2n b.spill.isSome * 16 + b.rsd)
/-- VCTL (R202) and VSTAT (R203). -/
def Bank.vctl (b : Bank) : Word := BitVec.ofNat 64 (b2n b.vmz * 2 + b2n b.vtrapIbc)
def Bank.vstat (b : Bank) : Word := BitVec.ofNat 64 (b.mask.length * 256 + b.vflags.toNat)
/-- MSTAT.PROG (R227, R251): k-steps applied of the oldest product, or rows pushed by MSTQ. -/
def Bank.mprog (b : Bank) : Nat :=
  match b.prods with | p :: _ => p.done | [] => match b.minst with | some m => m.prog | none => 0
/-- MSTAT (R251). SO stays 1 after SEAME has issued while a k-step of the seam is not applied (R408's table). -/
def Bank.mstat (b : Bank) : Word :=
  BitVec.ofNat 64 (b.bubbles.toNat * 2 ^ 32 + b.mprog % 64 * 2 ^ 18 + b.zk.toNat * 2 ^ 14 + b2n (b.seam.isSome || b.prods.any (·.seam != 0)) * 2 ^ 13
    + (b.slots.filter fun x => x.mark != .refill && x.mark != .filling).length * 2 ^ 9 + b2n b.ibc)
/-- BLST (R339). -/
def Blst.word (x : Blst) : Word :=
  BitVec.ofNat 64 (x.prog % 65536 * 2 ^ 16 + b2n x.fail * 2 ^ 11 + b2n x.act * 2 ^ 10 + x.tseat % 4 * 2 ^ 8 + x.op % 8 * 16
    + x.step % 8)

/-- What MFS reads (R46). TRAPFL.PEND is 1 while a record waits (R321). -/
def State.special (s : State) (b : Bank) (r : SpecialReg) : Word :=
  let core := s.cur.core
  let c := s.core core
  let p := s.part b.part
  let n (x : Nat) : Word := BitVec.ofNat 64 x
  match r with
  | .trapc => b.trap.c
  | .trapnpc => b.trap.npc
  | .trapcause => b.trap.cause
  | .trapaddr => b.trap.addr
  | .trapstrm => b.trap.strm
  | .trapfl => if b.waiting.isEmpty then b.trap.fl else b.trap.fl ||| 4
  | .seatid => n s.cur.seat
  | .coreid => n core
  | .clustid => n (clusterOnDie core)
  | .dieid => n (dieOf core)
  | .vfid => n b.vf
  | .compart => n (b2n b.cS.mo)
  | .pm => b.pmC.setWidth 64
  | .pmwaitlim => b.pmWaitLim.setWidth 64
  | .spmode => n (b2n b.ut)
  | .spillbase => n b.spillBase
  | .spilllim => n b.spillLim
  | .winptr => b.winptr
  | .vctl => b.vctl
  | .vstat => b.vstat
  | .mstat => b.mstat
  | .tagbits => b.tagbits
  | .tickno => n p.tickno
  | .timebase => n s.timebase
  | .tickper => n p.tickper
  | .tokmax => n c.tokmax
  | .tokrate => n (if s.dev.thermal then 0 else c.tokrate)
  | .tokens => n c.tokens
  | .blst => b.blst.word
  | .rlo => b.rlo
  | .rhi => b.rhi
  | .cring => b.cring.word
  | .aring => b.aring.word
  | .vring => b.vring.word
  | .mring => b.mring.word
  | .dring => b.dring.word

/-- MFS (R103). -/
def execMfs (d : CReg) (r : SpecialReg) (s : State) : Host.Outcome State Fault Refusal :=
  issue { lvl := SpecialReg.readLvl r, regs := [d] } (fun s b =>
    .ok (s.setBank s.cur.core s.cur.seat (b.setC d (s.special b r))) .next false) s

/-- The bits of a register that are not zero-fields (R5, R103). -/
def SpecialReg.fields : SpecialReg → Word
  | .trapc | .trapnpc => 0x7FFFF
  | .trapcause => 0xFF
  | .trapstrm => 7
  | .trapfl => 0xFFFFFFFF00000F07
  | .pm => 0xFFFF
  | .pmwaitlim => 0xFFFFFFFF
  | .spmode => 1
  | .winptr => 0x0000FFFFFFFF001F
  | .vctl => 3
  | .vstat => 0x1F7F
  | .mstat => 0xFFFFFFFF00FFFE01
  | .blst => 0xFFFF0F77
  | _ => BitVec.allOnes 64

/-- A written value that a register's own rule refuses with ILLEGAL (R88, R89, R254, R317; TICKPER: assumption 14). -/
def Bank.refuses (b : Bank) (r : SpecialReg) (v : Word) : Bool :=
  let n := v.toNat
  v &&& ~~~ (SpecialReg.fields r) != 0 ||
  match r with
  | .trapstrm => n ≥ 5
  | .winptr => n % 32 != 0 || fld n 32 16 != fld n 16 16 || fld n 32 16 * 192 > b.spillLim - b.spillBase
  | .spillbase => n % 64 != 0 || n > 0x60000 || n > b.spillLim
  | .spilllim => n % 64 != 0 || n > 0x60000 || n < b.spillBase || n < b.spillBase + 192 * b.spd
  | .tokmax => n < 256 || n > 65536
  | .tickper => n == 0 || n ≥ 2 ^ 32
  | _ => false
/-- A write that is refused whatever its value (R89, R339). -/
def Bank.locked (b : Bank) : SpecialReg → Bool
  | .spillbase => b.spd > 0 || b.spill.isSome
  | .blst => b.blst.act
  | _ => false

/-- A write of a register of the bank: fields marked r keep their value. -/
def Bank.setSpecial (b : Bank) (r : SpecialReg) (v : Word) : Bank :=
  let n := v.toNat
  match r with
  | .trapc => { b with trap := { b.trap with c := v } }
  | .trapnpc => { b with trap := { b.trap with npc := v } }
  | .trapcause => { b with trap := { b.trap with cause := v } }
  | .trapaddr => { b with trap := { b.trap with addr := v } }
  | .trapstrm => { b with trap := { b.trap with strm := v } }
  | .trapfl => { b with trap := { b.trap with fl := v &&& ~~~ 4 } }
  | .pm => { b with pmC := v.setWidth 16 }
  | .pmwaitlim => { b with pmWaitLim := v.setWidth 32 }
  | .spmode => { b with ut := v.getLsbD 0 }
  | .spillbase => { b with spillBase := n }
  | .spilllim => { b with spillLim := n }
  | .winptr => { b with older := [], spd := fld n 32 16, fillTrap := none, bad := b.bad.filter (BadElem.resident 0) }
  | .vctl => { b with vmz := v.getLsbD 1, vtrapIbc := v.getLsbD 0 }
  | .vstat => { b with vflags := v.setWidth 7 }
  | .mstat => { b with bubbles := BitVec.ofNat 32 (fld n 32 32), ibc := v.getLsbD 0 }
  | .blst => { b with blst := ⟨fld n 16 16, flag n 11, b.blst.act, fld n 8 2, fld n 4 3, fld n 0 3⟩ }
  | .rlo => { b with rlo := v }
  | .rhi => { b with rhi := v }
  | _ => b

/-- MTS (R103). MTS WINPTR waits until no spill or fill is in flight (R88). -/
def mts (r : SpecialReg) (a : CReg) (s : State) : Host.Outcome State Fault Refusal :=
  issue { lvl := SpecialReg.writeLvl r, regs := [a] } (fun s b =>
    let v := b.getC a
    let core := s.cur.core
    if b.locked r then .trap (mkTrap .illegal) s
    else if r = .winptr ∧ b.spill.isSome then .wait
    else if b.refuses r v then .trap (mkTrap .illegal v) s
    else
      let s := match r with
        | .tokmax =>
          let c := s.core core
          s.setCore core { c with tokmax := v.toNat, tokens := Nat.min c.tokens v.toNat }
        | .tickper => s.setPart b.part { s.part b.part with tickper := v.toNat }
        | r => s.setBank core s.cur.seat (b.setSpecial r v)
      .ok s .next false) s

/-- MTS (R103, R104). -/
def execMts (r : SpecialReg) (a : CReg) (s : State) := mts r a s
def execWinptrWrite (a : CReg) (s : State) := mts .winptr a s
def execSpillbaseWrite (a : CReg) (s : State) := mts .spillbase a s
def execSpilllimWrite (a : CReg) (s : State) := mts .spilllim a s
def execVstatWrite (a : CReg) (s : State) := mts .vstat a s
def execTokmaxWrite (a : CReg) (s : State) := mts .tokmax a s
def execTickperWrite (a : CReg) (s : State) := mts .tickper a s

end Sys2Proof.Machine
end

