-- ==== Sys2Proof/Machine/Formats.lean ====
section
/-! DEFINITION. Number formats and rounding (spec/03_numbers.md R54 to R71, R412): decoding to exact values, `round_to`, and
the format word. Every value is exact until its one rounding. -/
namespace Sys2Proof

/-- The kind of a format (R54). -/
inductive FmtKind where
  | tapered (es : Nat)
  | float (exp frac : Nat)           -- widths of exponent and fraction
  | int (signed : Bool)
  | bin | trit2 | trit5
deriving DecidableEq, Repr

/-- Kinds of the format codes (R54, R59). -/
def Fmt.kind : Fmt → FmtKind
  | .t6e0 | .t6e0b | .t8e0 => .tapered 0
  | .t6e1 | .t6e1b | .t8e1 | .t8e1b | .t16e1 => .tapered 1
  | .t8e2 | .t8e2b | .t16e2 => .tapered 2
  | .bf16 => .float 8 7 | .fp16 => .float 5 10 | .fp32 => .float 8 23 | .e4 => .float 4 3 | .e5 => .float 5 2
  | .bin => .bin | .trit5 => .trit5 | .trit2 => .trit2
  | .i4 | .i4b | .i8 | .i8b | .i16 | .i32 => .int true
  | .n4 | .n8 | .n16 => .int false
/-- Block-scaled formats (R64). -/
def Fmt.isBlock : Fmt → Bool | .t6e0b | .t6e1b | .t8e1b | .t8e2b | .i4b | .i8b => true | _ => false
/-- Formats an output may have (R54). -/
def Fmt.isOut : Fmt → Bool
  | .t6e0b | .t6e1b | .t8e1b | .t8e2b | .bin | .trit5 | .trit2 | .i4b | .i8b => false | _ => true
/-- The formats an integer accumulator takes (R70). -/
def Fmt.isAccInt : Fmt → Bool
  | .bin | .trit5 | .trit2 | .i4 | .n4 | .i8 | .n8 | .i16 | .n16 => true | _ => false
/-- The bytes of a 64-element k-step row of a format (R55): 16 for TRIT5. -/
def Fmt.rowBytes (f : Fmt) : Nat := match f.kind with | .trit5 => 16 | _ => 8 * f.width
def Fmt.isFloat (f : Fmt) : Bool := match f.kind with | .float _ _ => true | _ => false

end Sys2Proof

namespace Sys2Proof.Machine

/-! ## Exact values (R65) -/

/-- An exact value: NaN, an infinity, or (−1)^neg × m × 2^e, whose zero keeps its sign. -/
inductive XVal where
  | nan
  | inf (neg : Bool)
  | fin (neg : Bool) (m : Nat) (e : Int)
deriving DecidableEq, Repr, Inhabited

def XVal.zero : XVal := .fin false 0 0
def XVal.ofInt (i : Int) : XVal := .fin (decide (i < 0)) i.natAbs 0
def XVal.isZero : XVal → Bool | .fin _ 0 _ => true | _ => false
def XVal.isNeg : XVal → Bool | .nan => false | .inf n => n | .fin n _ _ => n
def XVal.neg : XVal → XVal | .nan => .nan | .inf n => .inf (!n) | .fin n m e => .fin (!n) m e
def XVal.abs : XVal → XVal | .nan => .nan | .inf _ => .inf false | .fin _ m e => .fin false m e
/-- x × 2^k. -/
def XVal.scale (k : Int) : XVal → XVal | .fin n m e => .fin n m (e + k) | x => x
/-- The exact product; 0 × ∞ is invalid (R60). -/
def XVal.mul : XVal → XVal → XVal
  | .nan, _ | _, .nan => .nan
  | .inf a, .inf b => .inf (a != b)
  | .inf a, .fin b m _ | .fin b m _, .inf a => if m = 0 then .nan else .inf (a != b)
  | .fin a m e, .fin b n f => .fin (a != b) (m * n) (e + f)
/-- The signed magnitude of a finite value in units of 2^lo, when lo ≤ e. -/
def XVal.units (lo : Int) : XVal → Int
  | .fin n m e => let u : Int := (m * 2 ^ (e - lo).toNat : Nat); if n then -u else u
  | _ => 0
def XVal.expo : XVal → Int | .fin _ m e => if m = 0 then 0 else e | _ => 0
/-- The exact sum of terms: NaN for a NaN or both infinities; an exact zero sum takes its sign by R412. -/
def xsum (rnd : Rnd) (ts : List XVal) : XVal :=
  if ts.any (· == .nan) || (ts.contains (.inf true) && ts.contains (.inf false)) then .nan
  else if ts.contains (.inf true) then .inf true
  else if ts.contains (.inf false) then .inf false
  else
    let nz := ts.filter (!·.isZero)
    let lo := nz.foldl (fun l t => min l t.expo) (match nz with | t :: _ => t.expo | [] => 0)
    let u := nz.foldl (fun a t => a + t.units lo) (0 : Int)
    if u ≠ 0 then .fin (decide (u < 0)) u.natAbs lo
    else if nz.isEmpty && !ts.isEmpty && ts.all (·.isNeg) then .fin true 0 0
    else if nz.isEmpty && ts.all (!·.isNeg) then .fin false 0 0
    else .fin (rnd == .down) 0 0
def xadd (rnd : Rnd) (a b : XVal) : XVal := xsum rnd [a, b]

/-- The order of two values that are no NaN: −1, 0 or 1; zeros compare equal. -/
def XVal.cmp (a b : XVal) : Int :=
  match a, b with
  | .nan, _ | _, .nan => 0
  | .inf x, .inf y => if x = y then 0 else if x then -1 else 1
  | .inf x, _ => if x then -1 else 1
  | _, .inf y => if y then 1 else -1
  | x, y =>
    let lo := min x.expo y.expo
    let u := if x.isZero then 0 else x.units lo
    let v := if y.isZero then 0 else y.units lo
    if u < v then -1 else if u = v then 0 else 1

/-! ## Rounding (R66, R67) -/

/-- m / 2^sh rounded by the mode, for a value of the given sign (R66). -/
def roundShift (rnd : Rnd) (neg : Bool) (m sh : Nat) : Nat :=
  let q := m / 2 ^ sh
  let r := m % 2 ^ sh
  let up : Bool := match rnd with
    | .rne => 2 * r > 2 ^ sh || (2 * r == 2 ^ sh && q % 2 == 1)
    | .rna => 2 * r ≥ 2 ^ sh && r != 0
    | .rtz => false
    | .up => !neg && r != 0
    | .down => neg && r != 0
  if up then q + 1 else q
/-- m × 2^e rounded to a multiple of 2^lo, in units of 2^lo. -/
def roundUnits (rnd : Rnd) (neg : Bool) (m : Nat) (e lo : Int) : Nat :=
  if lo ≤ e then m * 2 ^ (e - lo).toNat else roundShift rnd neg m (lo - e).toNat

/-- The integer nearest x by the mode. -/
def roundInt (rnd : Rnd) (neg : Bool) (m : Nat) (e : Int) : Int :=
  let u : Int := roundUnits rnd neg m e 0
  if neg then -u else u
def clamp (lo hi x : Int) : Int := if x < lo then lo else if hi < x then hi else x
/-- Least and greatest values of an integer format of w bits (R63). -/
def intLeast (w : Nat) (signed : Bool) : Int := if signed then -(2 ^ (w - 1) : Nat) else 0
def intGreatest (w : Nat) (signed : Bool) : Int := if signed then (2 ^ (w - 1) : Nat) - 1 else (2 ^ w : Nat) - 1

/-- The code of a float, magnitude q × 2^lo, with q < 2^(frac+1) or q = 2^(frac+1), and lo ≥ the subnormal unit. -/
def floatCode (exp frac : Nat) (neg : Bool) (q : Nat) (lo : Int) : Nat :=
  let (q, lo) := if q ≥ 2 ^ (frac + 1) then (q / 2, lo + 1) else (q, lo)
  let bias : Int := (2 ^ (exp - 1) : Nat) - 1
  let sub : Int := 1 - bias - frac
  let s := b2n neg * 2 ^ (exp + frac)
  if q < 2 ^ frac then s + q else s + (lo - sub + 1).toNat * 2 ^ frac + (q - 2 ^ frac)
/-- Codes of infinity, the largest finite value and the canonical NaN (R59). -/
def floatInf (exp frac : Nat) (neg : Bool) : Nat := b2n neg * 2 ^ (exp + frac) + (2 ^ exp - 1) * 2 ^ frac
def floatMax (exp frac : Nat) (neg : Bool) : Nat := floatInf exp frac neg - 1
def floatNaN (exp frac : Nat) : Nat := floatInf exp frac false + 2 ^ (frac - 1)

/-- The float case of `round_to` (R67). -/
def roundFloat (exp frac : Nat) (rnd : Rnd) (fzo sat : Bool) : XVal → Nat
  | .nan => floatNaN exp frac
  | .inf n => floatInf exp frac n
  | .fin neg m e =>
    if m = 0 then b2n neg * 2 ^ (exp + frac)
    else
      let bias : Int := (2 ^ (exp - 1) : Nat) - 1
      let sub : Int := 1 - bias - frac          -- exponent of the smallest subnormal
      let top : Int := e + m.log2               -- exponent of the leading bit
      let lo1 := top - frac                     -- unit with the exponent range unbounded
      let q1 := roundUnits rnd neg m e lo1
      let emax : Int := bias
      if q1 ≥ 2 ^ (frac + 1) ∧ top + 1 > emax ∨ top > emax then
        if sat then floatMax exp frac neg
        else match rnd with
          | .rne | .rna => floatInf exp frac neg
          | .rtz => floatMax exp frac neg
          | .up => if neg then floatMax exp frac neg else floatInf exp frac neg
          | .down => if neg then floatInf exp frac neg else floatMax exp frac neg
      else if fzo ∧ q1 ≥ 1 ∧ (top < sub + frac ∧ !(q1 ≥ 2 ^ (frac + 1) ∧ top + 1 ≥ sub + frac)) then
        b2n neg * 2 ^ (exp + frac)
      else
        let lo := max lo1 sub
        floatCode exp frac neg (roundUnits rnd neg m e lo) lo

/-! ## Tapered formats (R56, R57) -/

/-- Length of the run of bits equal to `r` from bit `p` − 1 of `m` down. -/
def runLength (m : Nat) (r : Bool) : Nat → Nat
  | 0 => 0
  | p + 1 => if m.testBit p = r then runLength m r p + 1 else 0
/-- The magnitude of a magnitude field m ≠ 0 of an n-bit word as (significand, exponent) (R56). -/
def taperedMag (n es m : Nat) : Nat × Int :=
  let r := m.testBit (n - 2)
  let l := runLength m r (n - 1)
  let k : Int := if r then (l : Int) - 1 else -(l : Int)
  let p := n - 1 - l - 1                       -- bits left after the terminator
  let have_ := min es p
  let e := m / 2 ^ (p - have_) % 2 ^ have_ * 2 ^ (es - have_)
  let f := p - have_
  (2 ^ f + m % 2 ^ f, k * (2 ^ es : Nat) + (e : Int) - (f : Int))
/-- `tapered_decode` (R56). -/
def taperedDecode (c n es : Nat) : XVal :=
  let m := c % 2 ^ (n - 1)
  let s := c.testBit (n - 1)
  if m = 0 then (if s then .nan else .fin false 0 0)
  else let (q, e) := taperedMag n es m; .fin s q e
/-- Whether (q, e) ≤ (m, f) as magnitudes. -/
def magLe (q : Nat) (e : Int) (m : Nat) (f : Int) : Bool :=
  let lo := min e f
  q * 2 ^ (e - lo).toNat ≤ m * 2 ^ (f - lo).toNat
/-- The greatest magnitude field whose value is at most m × 2^f, bit by bit (larger fields are larger magnitudes). -/
def taperedFloor (n es m : Nat) (f : Int) : Nat → Nat → Nat
  | 0, acc => acc
  | i + 1, acc =>
    let c := acc + 2 ^ i
    let (q, e) := taperedMag n es c
    taperedFloor n es m f i (if magLe q e m f then c else acc)
/-- `tapered_encode` (R57). -/
def taperedEncode (x : XVal) (n es : Nat) (rnd : Rnd) : Nat :=
  let maxc := 2 ^ (n - 1) - 1
  match x with
  | .nan => 2 ^ (n - 1)
  | .inf neg => b2n neg * 2 ^ (n - 1) + maxc
  | .fin neg m e =>
    if m = 0 then 0
    else
      let s := b2n neg * 2 ^ (n - 1)
      let (q1, e1) := taperedMag n es 1
      let lo := if magLe m e q1 e1 then 1 else taperedFloor n es m e (n - 1) 0
      let (ql, el) := taperedMag n es lo
      if lo = maxc ∨ magLe m e ql el then s + lo
      else
        let (qh, eh) := taperedMag n es (lo + 1)
        let b := min e (min el eh)
        let a2 := 2 * m * 2 ^ (e - b).toNat
        let mid := ql * 2 ^ (el - b).toNat + qh * 2 ^ (eh - b).toNat
        let hi : Bool := match rnd with
          | .rne => a2 > mid || (a2 == mid && lo % 2 == 1)
          | .rna => a2 ≥ mid
          | .rtz => false
          | .up => !neg
          | .down => neg
        s + (if hi then lo + 1 else lo)

/-! ## decode and round_to (R65, R67) -/

/-- `round_to(F, x, rnd, FZO, SAT)` as the code of F (R67). The formats it is applied to are tapered, float or integer. -/
def roundTo (f : Fmt) (rnd : Rnd) (fzo sat : Bool) (x : XVal) : Nat :=
  match f.kind with
  | .tapered es => taperedEncode x f.width es rnd
  | .float exp frac => roundFloat exp frac rnd fzo sat x
  | .int signed =>
    let w := f.width
    let y : Int := match x with
      | .nan => 0
      | .inf neg => if neg then intLeast w signed else intGreatest w signed
      | .fin neg m e =>
        let y := roundInt rnd neg m e
        if sat then clamp (intLeast w signed) (intGreatest w signed) y else y
    (y % (2 ^ w : Nat)).toNat
  | _ => 0

/-- The exact value of a float code; FZI replaces a subnormal by a zero of its sign (R65). -/
def floatDecode (exp frac : Nat) (fzi : Bool) (c : Nat) : XVal :=
  let neg := c.testBit (exp + frac)
  let ef := c / 2 ^ frac % 2 ^ exp
  let m := c % 2 ^ frac
  let bias : Int := (2 ^ (exp - 1) : Nat) - 1
  if ef = 2 ^ exp - 1 then (if m = 0 then .inf neg else .nan)
  else if ef = 0 then .fin neg (if fzi then 0 else m) (1 - bias - frac)
  else .fin neg (2 ^ frac + m) ((ef : Int) - bias - frac)
/-- A ternary digit's value (R62). -/
def tritVal (d : Nat) : XVal := if d = 1 then .ofInt 1 else if d = 2 then .ofInt (-1) else .zero
/-- `decode(code, F)` without scales; a TRIT5 code is one digit here (R62, R63, R65). An illegal TRIT2 code decodes as 0. -/
def decodeCode (f : Fmt) (fzi : Bool) (c : Nat) : XVal :=
  match f.kind with
  | .tapered es => taperedDecode c f.width es
  | .float exp frac => floatDecode exp frac fzi c
  | .int true => .ofInt (if c < 2 ^ (f.width - 1) then (c : Int) else (c : Int) - (2 ^ f.width : Nat))
  | .int false => .ofInt c
  | .bin => .ofInt (if c = 0 then 1 else -1)
  | .trit2 => if c = 1 then .ofInt 1 else if c = 3 then .ofInt (-1) else .zero
  | .trit5 => tritVal c

/-! ## Matrix operands (R55, R62, R64) -/

/-- Element `i` of packed data, and whether its code is illegal (R55, R62). -/
def elemOf (f : Fmt) (fzi : Bool) (data i : Nat) : XVal × Bool :=
  match f.kind with
  | .trit5 =>
    let b := data / 256 ^ (i / 5) % 256
    if b ≥ 243 then (.zero, true) else (tritVal (b / 3 ^ (i % 5) % 3), false)
  | .trit2 =>
    let c := data / 4 ^ i % 4
    (decodeCode f fzi c, c == 2)
  | _ => (decodeCode f fzi (data / 2 ^ (f.width * i) % 2 ^ f.width), false)
/-- A signed byte. -/
def sint8 (b : Nat) : Int := if b % 256 < 128 then ((b % 256 : Nat) : Int) else ((b % 256 : Nat) : Int) - 256

/-! ## The format word (R69, R70) -/

structure FmtWord where
  osc : Int
  bsc : Int
  asc : Int
  i32 : Bool
  sat : Bool
  fzo : Bool
  fzi : Bool
  rnd : Rnd
  out : Fmt
  bf : Fmt
  af : Fmt
deriving DecidableEq, Repr

/-- A legal format word; none when a check of R69 or R70 fails. -/
def fmtWord (w : Word) : Option FmtWord :=
  let n := w.toNat
  match rndOf (fld n 16 3), fmtOf (fld n 10 5), fmtOf (fld n 5 5), fmtOf (fld n 0 5) with
  | .ok r, .ok out, .ok bf, .ok af =>
    let i32 := fld n 22 2 == 1
    let asc := sint8 (fld n 24 8)
    let bsc := sint8 (fld n 32 8)
    if fld n 48 16 ≠ 0 || flag n 15 || fld n 22 2 > 1 || !out.isOut || bf == .i32 || af == .i32
      || (i32 && !(af.isAccInt && bf.isAccInt && asc == 0 && bsc == 0)) then none
    else some ⟨sint8 (fld n 40 8), bsc, asc, i32, flag n 21, flag n 20, flag n 19, r, out, bf, af⟩
  | _, _, _, _ => none
/-- `round(F, x)` of a format word. -/
def FmtWord.round (w : FmtWord) (f : Fmt) (x : XVal) : Nat := roundTo f w.rnd w.fzo w.sat x

/-! ## FP32 values -/

/-- The exact value of an FP32 code that is used as it stands. -/
def f32 (c : Nat) : XVal := decodeCode .fp32 false c

end Sys2Proof.Machine
end

