-- ==== Sys2Proof/Machine/Access.lean ====
section
/-! DEFINITION. Accesses: what stops one at its check (R137, R140, R171, R356), posting it, the order in which pending accesses
may be performed (R146, R183 to R190, R195), and performing them (the event ACCESS_PERFORMED). -/
namespace Sys2Proof.Machine

/-! ## Stops at the check -/

/-- The trap of a failed check on a virtual address; none for the two that stall (R137, R140, R171, R346, R358). -/
def VaFail.trap (va pmAddr : Word) : VaFail → Option Trap
  | .pfault k => some { cause := .pfault1, addr := va, pfk := k }
  | .misalign => some { cause := .misalign, addr := va }
  | .wtstore => some { cause := .wtstore, addr := va }
  | .gate => some { cause := .gate, addr := va }
  | .pmdead => some { cause := .pmdead, addr := pmAddr }
  | .integ => some { cause := .integ, addr := va }
  | .uncorr => some { cause := .uncorr, addr := va }
  | .stage2 _ _ => none
  | .refuse _ => none

/-- Sets a field of a stream's control state in the live bank of a seat. -/
def State.withCtl (s : State) (core seat : Nat) (e : Engine) (f : Ctl → Ctl) : State :=
  match s.bank core seat with
  | none => s
  | some b => s.setBank core seat (b.setCtl e (f (b.ctl e)))

/-- A stream stalls on a refusing target (R356); it keeps the place of its first arrival. -/
def State.stallOn (s : State) (core seat : Nat) (b : Bank) (e : Engine) (target : Nat) (addr : Word) : Res State :=
  if ((b.ctl e).scrub.map (·.target)) = some target then .wait
  else .hold ({ s with nextId := s.nextId + 1 }.withCtl core seat e fun c => { c with scrub := some ⟨s.nextId, target, addr⟩ })

/-- Whether a stall is the first of those on its target: stalled accesses of streams, copies and bank operations are released in the order of their
arrival (R356). -/
def State.stallFirst (s : State) (st : Stall) : Bool :=
  let before (t : Stall) : Bool := t.target == st.target && t.order < st.order
  !(s.liveBanks.any fun (_, _, o) => Engine.all.any fun e' => (o.ctl e').scrub.any before)
    && !(s.copies.any fun r => r.status.isNone && r.refused.any before) && !(s.bankOps.any fun o => o.refused.any before)
/-- Whether a stream that has stalled on a target is the first of those that wait for it. -/
def State.firstStalled (s : State) (b : Bank) (e : Engine) : Bool := (b.ctl e).scrub.all s.stallFirst

/-- What a failed check does to the issuing stream: a trap, or a stall. At level H a second-stage fault is PFAULT2; below, the
stream stalls until the hypervisor answers the report (R137). `access`: 0 read, 1 write, 2 atomic. -/
def State.vaStop (s : State) (b : Bank) (e : Engine) (va pmAddr : Word) (access prog : Nat) (f : VaFail) : Res State :=
  match f with
  | .stage2 gpa walk =>
    if b.level e = .h then .trap { cause := .pfault2, addr := BitVec.ofNat 64 gpa, prog := prog } s
    else
      let seq := s.dev.pfBox.seq
      .hold ((s.stage2Report s.cur.core s.cur.seat e b.vf b.part va gpa access walk).withCtl s.cur.core s.cur.seat e
        fun c => { c with s2stall := some seq })
  | .refuse target => s.stallOn s.cur.core s.cur.seat b e target va
  | f =>
    match f.trap va pmAddr with
    | some t => .trap { t with prog := prog } s
    | none => .wait

/-! ## Posting -/

/-- A posted access that is a memory request of its core: it is no marker (R159; assumption 39). -/
def Access.isRequest (a : Access) : Bool := match a.kind with | .fence _ => false | .sigset => false | _ => true
/-- The core has a memory request free, of at most 4096 outstanding ones: the posted accesses of its streams, and the pieces that its copy
engines have read and not yet written (R12, R159; assumption 39). -/
def State.requestFree (s : State) (core : Nat) : Bool :=
  (s.acc.filter fun a => a.core == core && a.isRequest).length
    + ((s.copies.filter (·.core == core)).map (·.read.length)).sum < 4096
/-- Posts an access of the current stream; it is performed later by ACCESS_PERFORMED. -/
def State.post (s : State) (b : Bank) (inst : Nat) (kind : AccKind) (va : Word) (elems : List Elem) (acq rel : Bool)
    (sig : Option (Fin 64)) (scope : Scope := .stream) : State :=
  let e := s.cur.eng
  let c := b.ctl e
  { s with
    acc := s.acc ++ [{ id := s.nextId, inst := inst, job := b.job, core := s.cur.core, seat := s.cur.seat, eng := e, vf := b.vf,
                       part := b.part, kind := kind, elems := elems, acq := acq, rel := rel, scope := scope, sig := sig, va := va,
                       pc := c.pc, npc := c.npc, ds := c.ds, wd := c.wd && s.cur.ann.wait.isClr }]
    nextId := s.nextId + 1 }

/-- An access of the C stream to a virtual address (R150, R160 to R171, R196, R197): its check, the pool line a postmarked
write needs, and its posting. -/
def cVaAccess (kind : AccKind) (va pmAddr : Word) (n m : Nat) (u : Use) (bytes : List Byte) (acq rel : Bool) (scope : Scope)
    (s : State) (b : Bank) : Res State :=
  match s.checkVa (b.vaCtx s.cur.core .c) va n m u with
  | (.error f, s) => s.vaStop b .c va pmAddr (if u.atomic then 2 else b2n u.write) 0 f
  | (.ok t, s) =>
    let go (s : State) : Res State :=
      .ok (s.post b 0 kind va [⟨t.loc, n, t.ord, u.write, bytes, false, false, false, 0⟩] acq rel s.cur.ann.late scope) .next true
    if !s.firstStalled b .c || !s.requestFree s.cur.core then .wait
    else if u.writes && s.needsLine t.loc then
      if s.asked b.job .c t.loc then .wait
      else
        let s := s.askLine b.job .c b.pmWaitLim.toNat va t.loc
        if s.needsLine t.loc then .hold s else go s
    else go s

/-! ## Scratchpad ranges (R143, R144, R147, R316, R347, R356) -/

/-- A scratchpad unit as an access of a stream meets it: not owned (ILLEGAL), another compartment (GATE), refusing, or fine.
`own` asks for the seat itself, else any seat of the VF in the core will do (R143). -/
inductive UnitCond where | ok | illegal | gate | refuse (target : Nat)
deriving DecidableEq, Repr
def State.unitCond (s : State) (b : Bank) (lvl : Lvl) (mo : Bool) (core : Nat) (own : Option Nat) (u : Nat) : UnitCond :=
  let c := s.core core
  let owned := match c.owner.find? u with
    | some (seat, vf) => vf == b.vf && own.all (· == seat)
    | none => false
  if !owned || (lvl == .u && c.sealed u) then .illegal
  else if c.mo.getLsbD u != mo then .gate
  else if c.scrubbing.getLsbD u then .refuse (targetNo 2 (core * 128 + u))
  else .ok
/-- The first unit of a range of n bytes that is not fine, ownership before labels before refusal. -/
def State.rangeCond (s : State) (b : Bank) (lvl : Lvl) (mo : Bool) (core : Nat) (own : Option Nat) (off n : Nat) : UnitCond :=
  let us := (List.range ((off + n + 4095) / 4096 - off / 4096)).map (off / 4096 + ·)
  let cs := us.map (s.unitCond b lvl mo core own)
  if cs.contains .illegal then .illegal
  else if cs.contains .gate then .gate
  else match cs.find? (fun c => match c with | .refuse _ => true | _ => false) with | some c => c | none => .ok
/-- The first 4-byte part of bytes a to a + n − 1 whose bit is `want`. -/
def firstPart (bits : BitVec 98304) (want : Bool) (a n : Nat) : Option Nat :=
  ((List.range ((a + n + 3) / 4 - a / 4)).find? fun i => bits.getLsbD (a / 4 + i) == want).map fun i => 4 * (a / 4 + i)

/-- What reading scratchpad bytes meets (R144, R326): poison, an invalid part, or nothing. -/
inductive ReadCond where | ok | poison | invalid (part : Nat)
deriving DecidableEq, Repr
def Core.readCond (c : Core) (off n : Nat) : ReadCond :=
  if (firstPart c.poison true off n).isSome then .poison
  else match firstPart c.valid false off n with | some p => .invalid p | none => .ok

/-- A stream has a scratchpad store that is not performed and writes one of the 4-byte parts of a range (R144, R146). -/
def State.ownSpStore (s : State) (job : Nat) (e : Engine) (core off n : Nat) : Bool :=
  s.acc.any fun a => a.job == job && a.eng == e && a.elems.any fun x =>
    x.write && !x.done && x.loc.overlaps x.len (.sp core (off / 4 * 4)) ((off + n + 3) / 4 * 4 - off / 4 * 4)

/-- The scratchpad accesses of C (R150): own scratchpad or the cluster window. A load meets the valid bits and the poison that the
stream's earlier stores leave; TRAPADDR of an invalid part is its address as the access names it, in the window too (R144;
assumption 100). -/
def cSpAccess (window write : Bool) (o : CmArgs) (s : State) (b : Bank) : Res State :=
  let ea := b.getC o.a + o.disp.signExtend 64
  let n := o.size.bytes
  let a := ea.toNat
  let core := if window then s.cur.core / 16 * 16 + fld a 19 4 else s.cur.core
  let off := if window then fld a 0 19 else a
  if off ≥ 0x60000 || (window && fld a 23 41 ≠ 0) then .trap (mkTrap .illegal ea) s
  else
    let uc := s.unitCond b (b.level .c) b.cS.mo core (if window then none else some s.cur.seat) (off / 4096)
    let mis : Bool := off % n ≠ 0
    if mis && (!window || (uc != .illegal && uc != .gate)) then .trap (mkTrap .misalign ea) s
    else match uc with
    | .illegal => .trap (mkTrap .illegal ea) s
    | .gate => .trap (mkTrap .gate ea) s
    | .refuse t => s.stallOn s.cur.core s.cur.seat b .c t ea
    | .ok =>
      if !s.firstStalled b .c || !s.requestFree s.cur.core then .wait
      else if !write && s.ownSpStore b.job .c core off n then .wait
      else
        let elem : Elem := ⟨.sp core off, n, .sp, write, if write then leBytes (b.getC o.d).toNat n else [], false, false, false, 0⟩
        let kind : AccKind := if write then .store else .load o.d o.size o.x
        let go (s : State) : Res State := .ok (s.post b 0 kind ea [elem] false false s.cur.ann.late) .next true
        if write then go s
        else match (s.core core).readCond off n with
          | .ok => go s
          | .poison => .trap (mkTrap .uncorr ea) s
          | .invalid p =>
            let pa := BitVec.ofNat 64 (a - off + p)
            if b.ut then .trap (mkTrap .spuninit pa) s
            else go (s.log s.cur.core s.cur.seat ⟨5, false, 0, b.cid, 0, BitVec.ofNat 64 p⟩)

/-! ## Order (R184) -/

/-- Two accesses of one stream that R184 orders by their locations and kinds. -/
def Elem.ordered (x y : Elem) : Bool :=
  x.loc.overlaps x.len y.loc y.len || (x.ord == .so && y.ord == .so) || (x.ord == .sp && y.ord == .sp)

/-- Whether an element `y` at place `id` of the order of a stream of a seat must wait (R184, R187, R190, R195): for an earlier
element that is ordered before it, for an earlier acquire, for everything earlier when it releases at a scope, or for a FENCE.
An acquire at stream scope orders nothing (R181). -/
def State.mustWait (s : State) (core seat job : Nat) (e : Engine) (id inst : Nat) (rel : Option Scope) (reads : Bool)
    (y : Elem) : Bool :=
  s.acc.any (fun a =>
    a.job == job && a.eng == e && a.id < id &&
      (a.elems.any (fun x => !x.done &&
        (x.ordered y || (x.ord != .uo && y.ord != .uo && (inst == 0 || a.inst != inst) &&
          ((a.acq && a.scope != .stream) || rel.any fun sc => !x.at sc))))
      || (y.write && s.fenceHolds a true) || (reads && s.fenceHolds a false)))
    || (y.ord != .uo && rel.any fun sc => !s.othersAt job core seat e sc)
/-- The release of an access. -/
def Access.release (a : Access) : Option Scope := if a.rel then some a.scope else none
/-- A store to the same 64-byte line is performed for some scopes only: a write of another stream waits until it is performed, so
that the line's writes have one order (R183); so does the write that makes a cell of a base line, whoever stores there, since readers
may have seen the base bytes that the cell copies (R169, R193). -/
def State.lineTaken (s : State) (job : Nat) (e : Engine) (l : Loc) : Bool :=
  match l with
  | .mem part m gpa _ _ =>
    let shown (k : Nat) (a : Access) : Bool := a.elems.any fun x => !x.done && 0 < x.seen && x.write &&
      match x.loc with | .mem p k' g _ _ => p == part && k' == k && g / 64 == gpa / 64 | _ => false
    s.acc.any fun a => (!(a.job == job && a.eng == e) && shown m a) || (m != 0 && ((s.part part).cell m gpa).isNone && shown 0 a)
  | _ => false
/-- A pending C load or atomic reads the line, row or parts of a location: they are not poisoned before it has read them, so that
its UNCORR, decided at its check, is precise (R326; assumption 10). -/
def State.cReads (s : State) (l : Loc) (n : Nat) : Bool :=
  s.acc.any fun a => (match a.kind with | .load .. => true | .amo .. => true | _ => false) && a.elems.any fun x => !x.done &&
    match x.loc, l with
    | .mem p m g pa _, .mem p' m' g' pa' _ => s.homePa p m g pa / 64 == s.homePa p' m' g' pa' / 64
    | .sp c o, .sp d p => c == d && o / 4 < (p + n + 3) / 4 && p / 4 < (o + x.len + 3) / 4
    | .wt c o, .wt d p => c == d && o / 64 == p / 64
    | _, _ => false

/-- A tile's write must wait for the scratchpad reads of earlier products (R230). -/
def State.tileWaits (s : State) (a : Access) : Bool :=
  a.kind == .tile && match s.findJob a.job with
    | some (_, b) => b.prods.any fun p => p.id < a.id && !p.allApplied && p.readsSp
    | none => false

/-! ## Performing -/

/-- Poison and frame flag of a location's line or parts. -/
def State.locPoison (s : State) (l : Loc) (n : Nat) : Bool :=
  match l with
  | .sp core off => (firstPart (s.core core).poison true off n).isSome
  | .mem part m gpa pa _ => (s.lineMeta (s.homePa part m gpa pa)).poison
  | .wt core off => s.rowBad core (off / 64)
def State.locFrame (s : State) (l : Loc) : Bool :=
  match l with
  | .mem part m gpa pa _ => (s.lineMeta (s.homePa part m gpa pa)).frame
  | _ => false

/-- Poisoned data that is written poisons its line or parts (R326). -/
def State.poisonLoc (s : State) (l : Loc) (n : Nat) : State :=
  match l with
  | .sp core off =>
    let c := s.core core
    let mask : BitVec 98304 := BitVec.ofNat 98304 ((2 ^ ((off + n + 3) / 4 - off / 4) - 1) * 2 ^ (off / 4))
    s.setCore core { c with poison := c.poison ||| mask, valid := c.valid &&& ~~~ mask }
  | .mem part m gpa pa _ =>
    let home := s.homePa part m gpa pa
    s.setLineMeta home { s.lineMeta home with poison := true }
  | .wt _ _ => s

/-- The operation of an atomic on an n-byte value (R197, R199): the new value, or none when AMOCAS fails. -/
def amoNew (op : AmoOp) (n : Nat) (old y z : Nat) : Option Nat :=
  let lim := 2 ^ (8 * n)
  let sg (v : Nat) : Int := if v < lim / 2 then (v : Int) else (v : Int) - lim
  match op with
  | .add => some ((old + y) % lim)
  | .and => some (old &&& y)
  | .or => some (old ||| y)
  | .xor => some (old ^^^ y)
  | .min => some (if sg y < sg old then y else old)
  | .max => some (if sg old < sg y then y else old)
  | .minn => some (if y < old then y else old)
  | .maxn => some (if old < y then y else old)
  | .swp => some y
  | .cas => if old = z then some y else none
  | .fadd =>
    let f : Fmt := if n = 4 then .fp32 else .bf16
    some (roundTo f .rne false false (xadd .rne (decodeCode f false old) (decodeCode f false y)))

/-- Performs one element of an access. -/
def State.performElem (s : State) (a : Access) (i : Nat) (x : Elem) : State :=
  let put (s : State) (x : Elem) : State :=
    { s with acc := s.acc.map fun o => if o.id = a.id then { o with elems := o.elems.set i x } else o }
  match a.kind with
  | .amo op _ size y z =>
    let n := size.bytes
    let old := s.readLoc x.loc n
    let x' := { x with done := true, bytes := old, poison := s.locPoison x.loc n }
    if x'.poison then put s x'
    else match amoNew op n (leNat old) (y.toNat % 2 ^ (8 * n)) (z.toNat % 2 ^ (8 * n)) with
      | some v => put (s.writeLoc x.loc (leBytes v n)) x'
      | none => put s x'
  | _ =>
    -- a load checked under UT = 1 that races SPALLOC reads each part before the clear (R151)
    let bytes := match x.loc with
      | .sp core off => if (s.findJob a.job).any (·.2.ut) then (s.core core).sp.readBytes off x.len else s.readLoc x.loc x.len
      | _ => s.view a.core a.seat x.loc x.len
    if x.write then
      let s := s.writeLoc x.loc x.bytes
      put (if x.poison then s.poisonLoc x.loc x.len else s) { x with done := true }
    else put s { x with done := true, bytes := bytes, poison := s.locPoison x.loc x.len, frame := s.locFrame x.loc }

/-- A store that may be performed at a scope short of system scope: on an RC or UO page, to a line that needs no cell made (R182,
R185, R186). -/
def State.mayShow (s : State) (a : Access) (x : Elem) : Bool :=
  (match a.kind with | .store => true | .blockStore => true | _ => false) && x.write && !x.poison && x.ord != .so
    && match x.loc with | .mem part m gpa _ _ => m == 0 || ((s.part part).cell m gpa).isSome | _ => false
/-- Performs a store at a scope. -/
def State.showElem (s : State) (a : Access) (i : Nat) (x : Elem) (level : Nat) : State :=
  { s with acc := s.acc.map fun o => if o.id = a.id then { o with elems := o.elems.set i { x with seen := Nat.max x.seen level } } else o }

/-- The value a load writes (R150). -/
def loadValue (size : Size) (x : Bool) (bytes : List Byte) : Word :=
  let v := leNat bytes
  let n := 8 * size.bytes
  if x && v ≥ 2 ^ (n - 1) then BitVec.ofInt 64 ((v : Int) - (2 ^ n : Nat)) else BitVec.ofNat 64 v

/-- A load block whose values are fixed: its accesses count as performed, pushed or not (R156). -/
def Access.fixed (a : Access) : Bool :=
  match a.kind with | .blockLoad _ _ _ => a.elems.all (·.done) | _ => false
/-- Whether earlier accesses and earlier work of the stream of `a` remain (R111, R112). -/
def State.earlierWork (s : State) (a : Access) : Bool :=
  s.acc.any (fun o => o.job == a.job && o.eng == a.eng && o.id < a.id && !o.fixed) ||
    (match s.findJob a.job with
     | some (_, b) =>
       (a.eng == .a && b.ainst.any (·.id < a.id)) || (a.eng == .m && (b.reqs.any (·.id < a.id) || b.prods.any (·.id < a.id)))
     | none => false)

/-- Removes a performed access. A signal of kind 10 is set, or waits as a marker for the stream's earlier work (R112). -/
def State.finishAccess (s : State) (a : Access) : State :=
  match a.sig with
  | none => { s with acc := s.acc.filter (·.id != a.id) }
  | some n =>
    if s.earlierWork a then
      { s with acc := s.acc.map fun o => if o.id = a.id then { o with kind := .sigset, elems := [] } else o }
    else { s with acc := s.acc.filter (·.id != a.id) }.mapJob a.job (·.setSig n)

/-- The data of a block of elements in order. -/
def blockData (elems : List Elem) : Vec := BitVec.ofNat 2048 (leNat (elems.flatMap (·.bytes)))

/-- What happens when every element of an access is performed. A block is pushed when the queue has room, earlier blocks of the
queue are in it, and the push may release (R115, R155). -/
def State.completeAccess (s : State) (a : Access) : State :=
  let poisoned := a.elems.any (·.poison)
  let bytes := a.elems.flatMap (·.bytes)
  match a.kind with
  | .load d size x => (s.mapJob a.job (·.setC d (loadValue size x bytes))).finishAccess a
  | .amo _ d _ _ _ => (s.mapJob a.job (·.setC d (BitVec.ofNat 64 (leNat bytes)))).finishAccess a
  | .blockLoad q _ frame =>
    match s.findJob a.job with
    | none => s.finishAccess a
    | some (_, b) =>
      let earlier := s.acc.any fun o => o.job == a.job && o.id < a.id &&
        match o.kind with | .blockLoad q' _ _ => q' == q | _ => false
      if b.full q || b.elasticFull q || earlier || !s.releaseAt a.core a.seat a.job a.eng a.id .seat then s
      else
        let x : QEntry := ⟨blockData a.elems, poisoned, frame && a.elems.all (·.frame)⟩
        (s.mapJob a.job (·.push q x)).finishAccess a
  | .blockStore =>
    let whole (x : Elem) : Bool := match x.loc with
      | .mem p m g _ _ => (List.range 64).all fun k => a.elems.any fun y => !y.poison && match y.loc with
        | .mem p' m' g' _ _ => p' == p && m' == m && g' ≤ g / 64 * 64 + k && g / 64 * 64 + k < g' + y.len
        | _ => false
      | _ => false
    ((a.elems.filter whole).foldl (fun s x => s.wholeLine x.loc) s).finishAccess a
  | _ => s.finishAccess a

/-- The earlier accesses that a FENCE orders are performed at its scope (R195). -/
def State.fenceDone (s : State) (a : Access) (k : BitVec 4) : Bool :=
  a.scope == .stream || !(((k.getLsbD 0 || k.getLsbD 1) && s.fenceReads a.job a.eng a.id)
    || ((k.getLsbD 2 || k.getLsbD 3) && (s.fenceWrites a.job a.eng a.id a.scope || !s.othersAt a.job a.core a.seat a.eng a.scope))
    || s.copiesBefore a.job a.eng a.id)
/-- ACCESS_PERFORMED: one element of a pending access is performed (`ev.quad` names it), a store also for one scope only (1 to 5 in
`ev.val`); or, when all are, the access completes; a SIGSET marker sets its signal once the stream's earlier work is done; a FENCE
marker ends once its earlier accesses are performed. -/
def execAccessPerformed (s : State) : Host.Outcome State Fault Refusal :=
  match s.acc.find? (fun a => a.id == s.cur.ev.idx) with
  | none => .next s
  | some a =>
    match a.kind with
    | .sigset => .next (if s.earlierWork a then s else s.finishAccess a)
    | .fence k => .next (if s.fenceDone a k then s.finishAccess a else s)
    | _ =>
      match a.elems[s.cur.ev.quad]? with
      | some x =>
        let early := (a.elems.take s.cur.ev.quad).any fun y => !y.done && y.ordered x
        let level := s.cur.ev.val.toNat % 8
        if x.done || early || s.tileWaits a
            || (x.seen == 0 && s.mustWait a.core a.seat a.job a.eng a.id a.inst a.release (a.elemReads x) x)
            || (x.write && s.lineTaken a.job a.eng x.loc) || (x.write && x.poison && s.cReads x.loc x.len) then .next s
        else if 0 < level ∧ level < 6 then .next (if s.mayShow a x then s.showElem a s.cur.ev.quad x level else s)
        else .next (s.performElem a s.cur.ev.quad x)
      | none => .next (if a.elems.all (·.done) then (s.completeAccess a).refreshImages else s)

end Sys2Proof.Machine
end

