-- ==== Sys2Proof/Machine/Queues.lean ====
section
/-! DEFINITION. The queues of a seat (spec/05_streams.md R114 to R119, spec/15_tenancy.md R348): their role and compartment
checks, pushes, pops and QCNT. -/
namespace Sys2Proof.Machine

/-- Whether the job started a stream (R108); for C in handler mode, as it stood before the diversion. -/
def Bank.jobStarted (b : Bank) (e : Engine) : Bool :=
  match e, b.handler, b.kept with
  | .c, true, some k => k.started
  | _, _, _ => (b.ctl e).started

/-- The trap of a push or pop: QMISUSE for a wrong role or an end the job did not start (R115), GATE across compartments
(R348); the trap address is the queue code. -/
def Bank.queueTrap (b : Bank) (e : Engine) (q : Queue) (push : Bool) : Option Trap :=
  let role := if push then q.pushers else q.poppers
  let other := if push then q.poppers else q.pushers
  let code := BitVec.ofNat 64 q.code
  if !role.contains e || !other.any b.jobStarted then some (trapOf e .qmisuse code)
  else if other.any (fun o => o != e && b.jobStarted o && (b.ctl o).mo != (b.ctl e).mo) then some (trapOf e .gate code)
  else none

/-- A pop of engine `e`: the checks, the wait for an entry, and UNCORR for a poisoned head, which leaves the queue (R326). A pop is
an acquire event, which a FENCE may hold back: `may` (R187, R190). -/
def popThen (may : Bool) (e : Engine) (q : Queue) (f : Bank → QEntry → Res Bank) (b : Bank) : Res Bank :=
  match b.queueTrap e q false with
  | some t => .trap t b
  | none =>
    match b.queue q with
    | [] => .wait
    | x :: xs =>
      if !may then .wait else
      let b := b.popTo q xs
      if x.poison then .trap { cause := .uncorr, addr := BitVec.ofNat 64 q.code, past := true } b else f b x

/-- A push: the checks, the wait for room, and the release at seat scope (R115). -/
def pushEntry (q : Queue) (x : QEntry) (s : State) (b : Bank) : Res State :=
  match b.queueTrap s.cur.eng q true with
  | some t => .trap t s
  | none =>
    if b.full q || !s.releaseReady b.job s.cur.eng .seat then .wait
    else .ok (s.setBank s.cur.core s.cur.seat (b.push q x)) .next false

/-- QPUT (R116): C pushes ca0, cv0, cm0 or cd0 only. -/
def execQput (a : CReg) (q : Queue) (s : State) : Host.Outcome State Fault Refusal :=
  issue { regs := [a] } (fun s b =>
    match q with
    | .ca0 | .cv0 | .cm0 | .cd0 => pushEntry q (.ofWord (b.getC a)) s b
    | _ => .trap (mkTrap .qmisuse (BitVec.ofNat 64 q.code)) s) s

/-- A pop of one queue into a scalar register; any other queue raises QMISUSE (R117, R257, R279). -/
def getWord (e : Engine) (only q : Queue) (d : SReg) (s : State) : Host.Outcome State Fault Refusal :=
  issueB {} (fun b =>
    if q ≠ only then .trap (trapOf e .qmisuse (BitVec.ofNat 64 q.code)) b
    else popThen (s.acquireReady b.job e) e q (fun b x => .ok (b.setS d x.word) .next false) b) s
def execQget (d : Fin 16) (q : Queue) (s : State) := getWord .a .ca0 q (.x d) s
def execMqget (d : Fin 16) (q : Queue) (s : State) := getWord .m .cm0 q (.h d) s
def execDqget (d : Fin 16) (q : Queue) (s : State) := getWord .d .cd0 q (.d d) s

/-- QCNT (R118): any queue the stream pushes or pops. -/
def execQcnt (d : SReg) (q : Queue) (s : State) : Host.Outcome State Fault Refusal :=
  let e := s.cur.eng
  issueB { regs := d.cregs } (fun b =>
    if !(q.pushers.contains e || q.poppers.contains e) then .trap (trapOf e .qmisuse (BitVec.ofNat 64 q.code)) b
    else
      let n := (b.queue q).length + (if q = .fq && b.fqClosed then 256 else 0)
      .ok (b.setS d (BitVec.ofNat 64 n)) .next false) s

/-- BQPUT (R119): bit 0 of a. -/
def execBqput (a : SReg) (s : State) : Host.Outcome State Fault Refusal :=
  issue { regs := a.cregs } (fun s b => pushEntry .bq (.ofWord (b.getS a &&& 1)) s b) s
/-- BQBR (R119): branches when the popped bit is 1. -/
def execBqbr (disp : Int) (s : State) : Host.Outcome State Fault Refusal :=
  let e := s.cur.eng
  issueB {} (fun b => popThen (s.acquireReady b.job e) e .bq (fun b x =>
    .ok b (.to (if x.word.getLsbD 0 then some ((b.ring e).target (b.ctl e).pc disp) else none)) false) b) s

end Sys2Proof.Machine
end

