-- ==== Sys2Proof/Machine/AStream.lean ====
section
/-! DEFINITION. The access stream: arithmetic, branches and the streaming instructions (spec/06_memory.md R152 to R158;
spec/07_postmarks.md R171, R178; spec/12_copy.md R292). -/
namespace Sys2Proof.Machine

/-! ## Arithmetic and branches (R152, R153) -/

/-- A result of two x registers. -/
def xOp2 (f : Word → Word → Word) (d a b : Fin 16) (s : State) : Host.Outcome State Fault Refusal :=
  issueR {} (fun x => x.setX d (f (x.getX a) (x.getX b))) s
def xOp1 (f : Word → Word) (d a : Fin 16) (s : State) : Host.Outcome State Fault Refusal :=
  issueR {} (fun x => x.setX d (f (x.getX a))) s
def execXldi (d : Fin 16) (imm : BitVec 28) (s : State) := xOp1 (fun _ => imm.signExtend 64) d d s
def execXadd (d a b : Fin 16) (s : State) := xOp2 (· + ·) d a b s
def execXaddi (d a : Fin 16) (imm : BitVec 28) (s : State) := xOp1 (· + imm.signExtend 64) d a s
def execXsub (d a b : Fin 16) (s : State) := xOp2 (· - ·) d a b s
def execXmul (d a b : Fin 16) (s : State) := xOp2 (· * ·) d a b s
def execXshl (d a : Fin 16) (n : Fin 64) (s : State) := xOp1 (· <<< n.val) d a s
def execXshr (d a : Fin 16) (n : Fin 64) (s : State) := xOp1 (· >>> n.val) d a s
def execXand (d a b : Fin 16) (s : State) := xOp2 (· &&& ·) d a b s

/-- A branch of A, V, M or D: the register change, then the target when the condition holds (R28, R29). -/
def hopThen (e : Engine) (f : Bank → Bank × Bool) (disp : Int) (s : State) : Host.Outcome State Fault Refusal :=
  issueB {} (fun b =>
    let (b', taken) := f b
    .ok b' (.to (if taken then some ((b.ring e).target (b.ctl e).pc disp) else none)) false) s
/-- A counter of a loop branch: decremented unless it is 0; the branch is taken when it is then not 0 (R153). -/
def countDown (w : Word) : Word := if w = 0 then 0 else w - 1

def execXb (disp : BitVec 32) (s : State) := hopThen .a (fun b => (b, true)) disp.toInt s
def execXbne (a b : Fin 16) (disp : BitVec 32) (s : State) := hopThen .a (fun x => (x, x.getX a != x.getX b)) disp.toInt s
def execXblt (a b : Fin 16) (disp : BitVec 32) (s : State) :=
  hopThen .a (fun x => (x, decide (sx (x.getX a) < sx (x.getX b)))) disp.toInt s
def execXloop (a : Fin 16) (disp : BitVec 32) (s : State) :=
  hopThen .a (fun x => (x.setX a (countDown (x.getX a)), countDown (x.getX a) != 0)) disp.toInt s

/-! ## Streaming instructions: issue (R154, R155) -/

def AKind.isStore : AKind → Bool | .ast | .asts | .astg => true | _ => false
def AKind.isGather : AKind → Bool | .aldg | .astg => true | _ => false
def AKind.isStrided : AKind → Bool | .alds | .asts => true | _ => false
/-- The queues a streaming load and a streaming store may name (R42, R114). -/
def AKind.queueOk (k : AKind) (q : Queue) : Bool :=
  match q with | .av _ | .am _ => !k.isStore | .va0 => k.isStore | _ => false

/-- The issue of a streaming instruction. At its first attempt it reads its operands and makes its checks: queue, count,
postmark, alignment. Then the stream stays at it until its last block is requested (R155). -/
def streamInst (k : AKind) (o : AsArgs) (s : State) : Host.Outcome State Fault Refusal :=
  issue {} (fun s b =>
    match b.ainst with
    | some i =>
      if i.prog ≥ i.count then .ok (s.setBank s.cur.core s.cur.seat { b with ainst := none }) .passed i.sig.isNone else .wait
    | none =>
      let base := b.getX o.base
      let aux := b.getX o.aux
      let x15 := b.getX 15
      let sz := o.size.bytes
      let code := BitVec.ofNat 64 o.queue.code
      let qt := if k.queueOk o.queue then b.queueTrap .a o.queue (!k.isStore) else some (trapOf .a .qmisuse code)
      let count := if o.count = 0 then x15.toNat else o.count.toNat
      match qt with
      | some t => .trap t s
      | none =>
        if count ≥ 2 ^ 32 then .trap (trapOf .a .illegal x15) s
        else if k = .apmld ∧ aux.toNat ≥ 65536 then .trap (trapOf .a .illegal aux) s
        else if base.toNat % sz ≠ 0 then .trap (trapOf .a .misalign base) s
        else if k.isStrided ∧ aux.toNat % sz ≠ 0 then .trap (trapOf .a .misalign aux) s
        else if k.isGather ∧ aux.toNat % 4 ≠ 0 then .trap (trapOf .a .misalign aux) s
        else if count = 0 then .ok s .next false
        else
          let pm := if k = .apmld then aux.setWidth 16 else b.pmA
          let i : AInst := { kind := k, queue := o.queue, base := base, aux := aux, size := o.size, count := count, pm := pm,
                             acq := o.acq, rel := o.rel, scope := o.scope, id := s.nextId, clr := s.cur.ann.wait.isClr, sig := s.cur.ann.late }
          .begun ({ s with nextId := s.nextId + 1 }.setBank s.cur.core s.cur.seat { s.issueSignal b with ainst := some i })) s

def execAld (o : AsArgs) (s : State) := streamInst .ald o s
def execAlds (o : AsArgs) (s : State) := streamInst .alds o s
def execAldg (o : AsArgs) (s : State) := streamInst .aldg o s
def execAst (o : AsArgs) (s : State) := streamInst .ast o s
def execAsts (o : AsArgs) (s : State) := streamInst .asts o s
def execAstg (o : AsArgs) (s : State) := streamInst .astg o s
def execApmld (o : AsArgs) (s : State) := streamInst .apmld o s
/-- Requests n lines from `va` on: a translation that succeeds is kept in the stream's TLB and with the LLC line; anything that would
stop an access drops the rest (R136, R138, R157). -/
def apfLines (c : VaCtx) (pm : Nat) : (n : Nat) → (va : Word) → State → State
  | 0, _, s => s
  | n + 1, va, s =>
    match s.checkVa c va 1 pm { write := false, writes := false, carry := true } with
    | (.ok _, s) => apfLines c pm n (va + 64) s
    | (.error _, s) => s
/-- APF (R157): a hint that requests the lines of the ALD range, four to a block and one more when the base is no multiple of 64, and does
nothing to registers, queues or order; its encoding checks are made by the decoder. -/
def execApf (base : Fin 16) (size : Size) (_mode : CacheMode) (count : BitVec 12) (s : State) :
    Host.Outcome State Fault Refusal :=
  issue {} (fun s b =>
    let va := b.getX base
    let n := if count = 0 then (b.getX 15).toNat else count.toNat
    if va.toNat % size.bytes ≠ 0 ∨ 2 ^ 32 ≤ n then .ok s .next false
    else .ok (apfLines (b.vaCtx s.cur.core .a) b.pmA.toNat (4 * n + b2n (n ≠ 0 ∧ va.toNat % 64 ≠ 0)) (va &&& ~~~ 63) s) .next false) s

/-! ## Blocks (R154, R155, R158) -/

/-- The address of element j of block i, given the index a gather reads (R154). -/
def AInst.elemAddr (a : AInst) (i j : Nat) (idx : Int) : Word :=
  let s := a.size.bytes
  if a.kind.isGather then a.base + BitVec.ofInt 64 (idx * s)
  else if a.kind.isStrided then a.base + BitVec.ofInt 64 (sx a.aux * i) + BitVec.ofNat 64 (s * j)
  else a.base + BitVec.ofNat 64 (256 * i + s * j)

/-- The elements of a block as far as they are checked, or why the block stops. -/
inductive BlockRes where
  | elems (s : State) (l : List Elem)
  | stop (r : Res State)

/-- Translates element j of the current block: for a gather its index is read first (R154, R155 step 2). -/
def blockElem (a : AInst) (entry : List Byte) (b : Bank) (j : Nat) (s : State) : Except (Res State) (State × Elem) :=
  let ctx := b.vaCtx s.cur.core .a
  let n := a.size.bytes
  let per := 256 / n
  let pm := a.pm.toNat
  -- the block's 256 bytes cover the element's whole line
  let first := (a.elemAddr a.prog 0 0).toNat
  let line := (a.elemAddr a.prog j 0).toNat / 64 * 64
  let u : Use := { write := a.kind.isStore, writes := a.kind.isStore, explicitPm := a.kind == .apmld, carry := !a.kind.isStore,
                   fullLine := a.kind.isStore && !a.kind.isGather && decide (first ≤ line ∧ line + 64 ≤ first + 256) }
  let body (s : State) (idx : Int) : Except (Res State) (State × Elem) :=
    let va := a.elemAddr a.prog j idx
    match s.checkVa ctx va n pm u with
    | (.error f, s) =>
      .error (s.vaStop b .a va va (b2n a.kind.isStore) a.prog f)
    | (.ok t, s) =>
      if !s.firstStalled b .a then .error .wait
      else if u.writes && s.needsLine t.loc then
        if s.asked b.job .a t.loc then .error .wait
        else
          let s := s.askLine b.job .a b.pmWaitLim.toNat va t.loc
          if s.needsLine t.loc then .error (.hold s)
          else .ok (s, ⟨t.loc, n, t.ord, true, (entry.drop (n * j)).take n, false, false, false, 0⟩)
      else .ok (s, ⟨t.loc, n, t.ord, a.kind.isStore, (entry.drop (n * j)).take n, false, false, false, 0⟩)
  if a.kind.isGather then
    let iva := a.aux + BitVec.ofNat 64 (4 * (per * a.prog + j))
    match s.checkVa ctx iva 4 pm { write := false, writes := false } with
    | (.error f, s) => .error (s.vaStop b .a iva iva 0 a.prog f)
    | (.ok t, s) =>
      let elem : Elem := ⟨t.loc, 4, t.ord, false, [], false, false, false, 0⟩
      if s.mustWait s.cur.core s.cur.seat b.job .a s.nextId a.id none true elem then .error .wait
      else if s.locPoison t.loc 4 then .error (.trap { cause := .uncorr, addr := iva, prog := a.prog } s)
      else
        let v := leNat (s.view s.cur.core s.cur.seat t.loc 4)
        body s (if v < 2 ^ 31 then (v : Int) else (v : Int) - 2 ^ 32)
  else body s 0

/-- Translates elements j, j + 1, … (n of them) of the current block. -/
def blockElems (a : AInst) (entry : List Byte) (b : Bank) : (n j : Nat) → State → List Elem → BlockRes
  | 0, _, s, l => .elems s l
  | n + 1, j, s, l =>
    match blockElem a entry b j s with
    | .error r => .stop r
    | .ok (s, x) => blockElems a entry b n (j + 1) s (l ++ [x])

/-- The room of a load's next block: its queue with the blocks already on their way to it, or the 32-block landing buffer (R155). -/
def State.blockRoom (s : State) (b : Bank) (q : Queue) : Bool :=
  let out := s.acc.filter fun o => o.job == b.job && match o.kind with | .blockLoad _ _ _ => true | _ => false
  let mine := out.filter fun o => match o.kind with | .blockLoad q' _ _ => q' == q | _ => false
  out.length < 32 || (b.queue q).length + mine.length < q.depth

/-- Requests the next block of the A instruction of the current seat. A store's pop is an acquire, which a FENCE may hold back (R187, R190). -/
def requestBlock (a : AInst) (s : State) (b : Bank) : Res State :=
  let n := a.size.bytes
  if (a.prog = 0 && a.rel && !s.releaseReady b.job .a a.scope) || !s.requestFree s.cur.core then .wait
  else
    let per := 256 / n
    let done (s : State) (b : Bank) : State := s.setBank s.cur.core s.cur.seat { b with ainst := some { a with prog := a.prog + 1, sig := (if a.prog + 1 = a.count then none else a.sig) } }
    let sig := if a.prog + 1 = a.count then a.sig else none
    if a.kind.isStore then
      match (if s.acquireAt b.job .a a.id then b.queue .va0 else []) with
      | [] => .wait
      | x :: xs =>
        match blockElems a (leBytes x.data.toNat 256) b per 0 s [] with
        | .stop r => r
        | .elems s l =>
          let l := l.map fun e => { e with poison := x.poison }
          .ok (done (s.post b a.id .blockStore a.base l a.acq a.rel sig a.scope) (b.popTo .va0 xs)) .set false
    else if !s.blockRoom b a.queue then .wait
    else
      match blockElems a [] b per 0 s [] with
      | .stop r => r
      | .elems s l =>
        let first := (a.elemAddr a.prog 0 0).toNat
        let am := match a.queue with | .am _ => true | _ => false
        let framed := am && (a.kind == .ald || a.kind == .apmld) && first % 64 == 0
        .ok (done (s.post b a.id (.blockLoad a.queue a.size framed) a.base l a.acq a.rel sig a.scope) b) .set false

/-- STREAM_BLOCK_REQUEST (`ev.core`, `ev.seat`): the A instruction in progress requests its next block; a fault halts the
stream at the instruction with PROG = the blocks requested (R158). -/
def execStreamBlockRequest (s : State) : Host.Outcome State Fault Refusal :=
  let s := { s with cur := { s.cur with eng := .a } }
  let core := s.cur.core
  let seat := s.cur.seat
  match s.bank core seat with
  | none => .next s
  | some b =>
    match b.ainst with
    | none => .next s
    | some a =>
      if !b.mayRun .a || a.prog ≥ a.count then .next s
      else match requestBlock a s b with
        | .ok s _ _ => .next (s.withCtl core seat .a fun c => { c with scrub := none })
        | .wait => .next s
        | .hold s | .begun s => .next s
        | .trap t s =>
          match s.bank core seat with
          | none => .next s
          | some b => .next (s.raise core seat b .a (b.trapRec .a t a.clr))

/-- The page after the one a streaming instruction works in, in the direction of its addresses; of a gather, of its index array. -/
def AInst.nextPage (a : AInst) : Int :=
  let at' (w : Word) : Int := w.toNat / 65536
  if a.kind.isGather then at' (a.aux + BitVec.ofNat 64 (1024 / a.size.bytes * a.prog)) + 1
  else if a.kind.isStrided ∧ sx a.aux < 0 then at' (a.elemAddr a.prog 0 0) - 1 else at' (a.elemAddr a.prog 0 0) + 1
/-- The stream TLB of an A stream walks the next page of its instruction; a failing walk is silent (R138). -/
def State.prefetchWalk (s : State) (core seat : Nat) : State :=
  match s.bank core seat with
  | none => s
  | some b =>
    match b.ainst with
    | none => s
    | some a =>
      let va := BitVec.ofInt 64 (a.nextPage * 65536)
      if canonical va then (s.leafOf (b.vaCtx core .a) va).2 else s

/-- RTE 1 (R158, R323): the instruction continues from PROG when TRAPNPC = TRAPC, without a new wait; else it is dropped, and
its places for pool lines with it. -/
def Bank.resumeA (b : Bank) (same : Bool) (prog : Nat) : Bank :=
  match b.ainst with
  | none => b
  | some a =>
    if same then { b with ainst := some { a with prog := prog }, aS := { b.aS with wd := true } } else { b with ainst := none }

end Sys2Proof.Machine
end

