-- ==== Sys2Proof/Machine/Control.lean ====
section
/-! DEFINITION. Branches, jumps, calls and returns of the control engine, its register windows and the spill engine, NOP and
WSYNC (spec/04_control.md R80 to R93, R99 to R102, R105, R106). -/
namespace Sys2Proof.Machine

/-! ## Branches (R90, R91, R99) -/

/-- A branch of form CB: the delay slot, then the target when the condition holds, else the word after the slot. -/
def branch (cond : Word → Word → Bool) (a b : CReg) (disp : BitVec 28) (s : State) : Host.Outcome State Fault Refusal :=
  issueB { ctl := true, regs := [a, b] } (fun x =>
    .ok x (.slot (if cond (x.getC a) (x.getC b) then some ((x.ring .c).target x.cS.pc disp.toInt) else none)) false) s

def execB (disp : BitVec 28) (s : State) := branch (fun _ _ => true) .zr .zr disp s
def execBeq (a b : CReg) (disp : BitVec 28) (s : State) := branch (fun x y => x == y) a b disp s
def execBne (a b : CReg) (disp : BitVec 28) (s : State) := branch (fun x y => x != y) a b disp s
def execBlt (a b : CReg) (disp : BitVec 28) (s : State) := branch (fun x y => decide (sx x < sx y)) a b disp s
def execBge (a b : CReg) (disp : BitVec 28) (s : State) := branch (fun x y => decide (sx y ≤ sx x)) a b disp s
def execBltn (a b : CReg) (disp : BitVec 28) (s : State) := branch (fun x y => decide (ux x < ux y)) a b disp s
def execBgen (a b : CReg) (disp : BitVec 28) (s : State) := branch (fun x y => decide (ux y ≤ ux x)) a b disp s

/-- JR (R100). The ring is the one the C stream runs in (assumption 11). -/
def execJr (a : CReg) (s : State) : Host.Outcome State Fault Refusal :=
  issueB { ctl := true, regs := [a] } (fun x =>
    let t := x.getC a
    if (x.ring .c).holds t then .ok x (.slot (some t.toNat)) false else .trap (mkTrap .illegal t) x) s

/-! ## Windows (R80 to R87) -/

/-- The capacity of the spill area (R83). -/
def Bank.capacity (b : Bank) : Nat := (b.spillLim - b.spillBase) / 192
/-- The address of spilled window `i` (R83). -/
def Bank.spillAddr (b : Bank) (i : Nat) : Nat := b.spillBase + 192 * i
/-- Word `i` of a window as it is spilled: p0-p7, then l0-l15 (R83). -/
def Win.word (w : Win) (i : Nat) : Word :=
  if i < 8 then w.p[Fin.ofNat 8 i] else w.l[Fin.ofNat 16 (i - 8)]
/-- A window from the 24 words of its spill (R83). -/
def Win.ofWords (f : Nat → Word) : Win := ⟨Vector.ofFn fun i => f i, Vector.ofFn fun i => f (8 + i)⟩
/-- The 192 bytes of a spilled window (R83). -/
def Win.bytes (w : Win) : List Byte := (List.range 24).flatMap fun i => leBytes (w.word i).toNat 8

/-- Starts a spill or a fill (R84 to R86). -/
def Bank.startSpill (b : Bank) : Bank := { b with spill := some (.spill 0), fillTrap := none }
def Bank.startFill (b : Bank) : Bank := { b with spill := some .fill }

/-- The registers a window move renames; a move waits until no pending access writes one of them. -/
def windowRegs : List CReg :=
  (List.ofFn fun i => CReg.p i) ++ (List.ofFn fun i => CReg.l i) ++ (List.ofFn fun i => CReg.q i)

/-- Where a poisoned element stands once a call has moved the windows, the link written to p7; and once a return has (R80, R101, R102). A
register that no window names any more is none. -/
def BadElem.called : BadElem → Option BadElem
  | .reg (.c (.p i)) => some (.win 0 (.p i))
  | .reg (.c (.l i)) => some (.win 0 (.l i))
  | .reg (.c (.q i)) => if i = 7 then none else some (.reg (.c (.p i)))
  | .win n r => some (.win (n + 1) r)
  | x => some x
def BadElem.returned : BadElem → Option BadElem
  | .reg (.c (.p i)) => some (.reg (.c (.q i)))
  | .reg (.c (.l _)) | .reg (.c (.q _)) => none
  | .win 0 r => some (.reg (.c r))
  | .win (n + 1) r => some (.win n r)
  | x => some x

/-- The window advance of a call (R101). `fresh` gives the callee's l0-l15 and q0-q7, whose values the manual does not
define (assumption 12). -/
def Bank.pushWindow (b : Bank) (link : Word) (fresh : Nat → Word) : Bank :=
  { b with
    older := b.win :: b.older
    win := ⟨b.q.set 7 link, Vector.ofFn fun i => fresh i⟩
    q := Vector.ofFn fun i => fresh (16 + i)
    bad := b.bad.filterMap BadElem.called }
/-- The window move of a return to a resident caller (R102). -/
def Bank.popWindow (b : Bank) : Bank :=
  match b.older with
  | [] => b
  | w :: ws => { b with older := ws, win := w, q := b.win.p, bad := b.bad.filterMap BadElem.returned }

/-- What a call needs of the window store (R85): room; a spill to wait for or to start; or WINOVF. -/
inductive Room where | room | wait | start | full
deriving DecidableEq, Repr
def Bank.callRoom (b : Bank) : Room :=
  if b.rsd < 9 then .room
  else match b.spill with
    | some _ => .wait
    | none => if b.spd = b.capacity ∨ b.depth = 65535 then .full else if b.spd < b.capacity then .start else .full

/-- CALL and CALLR after their target is known (R101). -/
def callTo (t : Bank → Except Trap Nat) (regs : List CReg) (s : State) : Host.Outcome State Fault Refusal :=
  issue { ctl := true, regs := regs ++ windowRegs } (fun s b =>
    match t b with
    | .error e => .trap e s
    | .ok tgt =>
      let r := b.ring .c
      match b.callRoom with
      | .wait => .wait
      | .start => .hold (s.setBank s.cur.core s.cur.seat b.startSpill)
      | .full => .trap (mkTrap .winovf (BitVec.ofNat 64 (b.spillAddr b.spd))) s
      | .room =>
        let link := BitVec.ofNat 64 (r.next (r.next b.cS.pc))
        let b := b.pushWindow link (fun i => BitVec.ofNat 64 (Config.freeAt s.ctr i))
        .ok ({ s with ctr := s.ctr + 1 }.setBank s.cur.core s.cur.seat b) (.slot (some tgt)) false) s

def execCall (disp : BitVec 28) (s : State) :=
  callTo (fun b => .ok ((b.ring .c).target b.cS.pc disp.toInt)) [] s
/-- CALLR reads a in the caller's window and checks it as JR does. -/
def execCallr (a : CReg) (s : State) :=
  callTo (fun b => if (b.ring .c).holds (b.getC a) then .ok (b.getC a).toNat else .error (mkTrap .illegal (b.getC a))) [a] s

/-- The only resident window but the current one is being spilled: it is no caller's resident window any more (R84, R86;
assumption 98). -/
def Bank.spillsLast (b : Bank) : Bool := b.rsd == 1 && (match b.spill with | some (.spill _) => true | _ => false)

/-- RET (R86, R102). It waits for a spill in flight that takes its caller's window; a fill that met an error raises its trap here. -/
def execRet (s : State) : Host.Outcome State Fault Refusal :=
  issueB { ctl := true, regs := windowRegs } (fun b =>
    let t := b.win.p[7]
    if b.depth = 0 then .trap (mkTrap .illegal t) b
    else if !(b.ring .c).holds t then .trap (mkTrap .illegal t) b
    else if b.rsd = 0 then
      match b.spill, b.fillTrap with
      | some _, _ => .wait
      | none, some (c, a) => .trap (mkTrap (if c = 0x11 then .uncorr else .spuninit) a) { b with fillTrap := none }
      | none, none => .hold b.startFill
    else if b.spillsLast then .wait
    else .ok b.popWindow (.slot (some t.toNat)) false) s

/-! ## The spill engine's events (R84) -/

/-- The bank an event names. -/
def State.eventBank (s : State) : Option Bank := s.bank s.cur.core s.cur.seat

/-- WINDOW_SPILL: RSD ≥ 8, room in the area, nothing in flight. It goes on while C is blocked, trapped or diverted. -/
def execWindowSpill (s : State) : Host.Outcome State Fault Refusal :=
  match s.eventBank with
  | some b =>
    if 8 ≤ b.rsd ∧ b.spd < b.capacity ∧ b.spill = none ∧ b.frozen = none then .next (s.setBank s.cur.core s.cur.seat b.startSpill)
    else .next s
  | none => .next s

/-- Word `i` of the resident window number `n` is poisoned. -/
def Bank.badWord (b : Bank) (n i : Nat) : Bool :=
  b.bad.contains (.win n (if i < 8 then .p (Fin.ofNat 8 i) else .l (Fin.ofNat 16 (i - 8))))
/-- Word `i` of the oldest resident window `w` is spilled: a poisoned register leaves its parts poisoned (R326). -/
def State.spillOne (s : State) (core : Nat) (b : Bank) (w : Win) (i : Nat) : State :=
  let l : Loc := .sp core (b.spillAddr b.spd + 8 * i)
  let s := s.writeLoc l (leBytes (w.word i).toNat 8)
  if b.badWord (b.rsd - 1) i then s.poisonLoc l 8 else s
/-- Writes the words of a spill that are not yet written. -/
def State.spillWords (s : State) (core : Nat) (b : Bank) (w : Win) (written : Nat) : State :=
  (List.range 24).foldl (fun s i => if written.testBit i then s else s.spillOne core b w i) s

/-- WINDOW_SPILL_DONE: the oldest resident window is at index SPD; SPD + 1, RSD − 1. -/
def execWindowSpillDone (s : State) : Host.Outcome State Fault Refusal :=
  match s.eventBank with
  | some b =>
    match b.spill, b.older.getLast? with
    | some (.spill written), some w =>
      let s1 := s.spillWords s.cur.core b w written
      let rest := b.older.dropLast
      .next (s1.setBank s.cur.core s.cur.seat
        { b with spill := none, spd := b.spd + 1, older := rest, bad := b.bad.filter (BadElem.resident rest.length) })
    | _, _ => .next s
  | none => .next s

/-- WINDOW_FILL: RSD ≤ 1, SPD > 0, nothing in flight. A fill that met an error is not tried again before its RET. -/
def execWindowFill (s : State) : Host.Outcome State Fault Refusal :=
  match s.eventBank with
  | some b =>
    if b.rsd ≤ 1 ∧ 0 < b.spd ∧ b.spill = none ∧ b.frozen = none ∧ b.fillTrap = none then
      .next (s.setBank s.cur.core s.cur.seat b.startFill)
    else .next s
  | none => .next s

/-- WINDOW_FILL_DONE: the window at index SPD − 1 is the oldest resident one again, also when calls have brought RSD to 9 meanwhile
(assumption 98); an invalid or uncorrectable word is kept for the RET that needs the window, an uncorrectable one before an invalid
one (assumption 99), and the uncorrectable error is logged (R86). Its 24 words are read here, in one action (assumption 124), behind no
store of C to them that is still to be performed (assumption 125). -/
def execWindowFillDone (s : State) : Host.Outcome State Fault Refusal :=
  match s.eventBank with
  | some b =>
    if b.spill ≠ some .fill then .next s
    else
      let core := s.cur.core
      let c := s.core core
      let a := b.spillAddr (b.spd - 1)
      match firstPart c.poison true a 192, firstPart c.valid false a 192 with
      | some p, _ =>
        let b := { b with spill := none, fillTrap := some (0x11, BitVec.ofNat 64 p) }
        .next ((s.setBank core s.cur.seat b).uncorrError core s.cur.seat .c b.vf b.part 0 p 0)
      | none, some p =>
        .next (s.setBank core s.cur.seat { b with spill := none, fillTrap := some (0x07, BitVec.ofNat 64 p) })
      | none, none =>
        let w := Win.ofWords fun i => BitVec.ofNat 64 (c.sp.readLe (a + 8 * i) 8)
        .next (s.setBank core s.cur.seat { b with spill := none, spd := b.spd - 1, older := b.older ++ [w] })
  | none => .next s

/-! ## NOP and WSYNC (R105, R106) -/

/-- NOP of any engine (R40, R105). -/
def execNop (s : State) : Host.Outcome State Fault Refusal := issueR {} (fun b => b) s

/-- Whether a pending access writes scratchpad. -/
def Access.storesSp (a : Access) : Bool :=
  a.elems.any fun x => x.write && match x.loc with | .sp _ _ => true | _ => false

/-- WSYNC: earlier scratchpad stores of C are performed, then the words fetched ahead are discarded. -/
def execWsync (s : State) : Host.Outcome State Fault Refusal :=
  issue {} (fun s b =>
    if s.acc.any (fun a => a.job == b.job && a.eng == .c && a.storesSp) then .wait
    else .ok (s.setBank s.cur.core s.cur.seat { b with cS := { b.cS with fetched := [] } }) .next false) s

end Sys2Proof.Machine
end

