-- ==== Sys2Proof/Machine/Crypto.lean ====
section
/-! DEFINITION. The standard functions that rules name: SHA-512 (R314, R378, R381), AES-256 in counter mode (R237) and AES key
unwrap (R353). The rules name these functions and do not define them: they are as their standards publish them (assumption 94). -/
namespace Sys2Proof.Machine

/-! ## SHA-512 -/

/-- The round constants. -/
def shaK : List Nat :=
  [0x428a2f98d728ae22, 0x7137449123ef65cd, 0xb5c0fbcfec4d3b2f, 0xe9b5dba58189dbbc, 0x3956c25bf348b538] ++
  [0x59f111f1b605d019, 0x923f82a4af194f9b, 0xab1c5ed5da6d8118, 0xd807aa98a3030242, 0x12835b0145706fbe] ++
  [0x243185be4ee4b28c, 0x550c7dc3d5ffb4e2, 0x72be5d74f27b896f, 0x80deb1fe3b1696b1, 0x9bdc06a725c71235] ++
  [0xc19bf174cf692694, 0xe49b69c19ef14ad2, 0xefbe4786384f25e3, 0x0fc19dc68b8cd5b5, 0x240ca1cc77ac9c65] ++
  [0x2de92c6f592b0275, 0x4a7484aa6ea6e483, 0x5cb0a9dcbd41fbd4, 0x76f988da831153b5, 0x983e5152ee66dfab] ++
  [0xa831c66d2db43210, 0xb00327c898fb213f, 0xbf597fc7beef0ee4, 0xc6e00bf33da88fc2, 0xd5a79147930aa725] ++
  [0x06ca6351e003826f, 0x142929670a0e6e70, 0x27b70a8546d22ffc, 0x2e1b21385c26c926, 0x4d2c6dfc5ac42aed] ++
  [0x53380d139d95b3df, 0x650a73548baf63de, 0x766a0abb3c77b2a8, 0x81c2c92e47edaee6, 0x92722c851482353b] ++
  [0xa2bfe8a14cf10364, 0xa81a664bbc423001, 0xc24b8b70d0f89791, 0xc76c51a30654be30, 0xd192e819d6ef5218] ++
  [0xd69906245565a910, 0xf40e35855771202a, 0x106aa07032bbd1b8, 0x19a4c116b8d2d0c8, 0x1e376c085141ab53] ++
  [0x2748774cdf8eeb99, 0x34b0bcb5e19b48a8, 0x391c0cb3c5c95a63, 0x4ed8aa4ae3418acb, 0x5b9cca4f7763e373] ++
  [0x682e6ff3d6b2b8a3, 0x748f82ee5defb2fc, 0x78a5636f43172f60, 0x84c87814a1f0ab72, 0x8cc702081a6439ec] ++
  [0x90befffa23631e28, 0xa4506cebde82bde9, 0xbef9a3f7b2c67915, 0xc67178f2e372532b, 0xca273eceea26619c] ++
  [0xd186b8c721c0c207, 0xeada7dd6cde0eb1e, 0xf57d4f7fee6ed178, 0x06f067aa72176fba, 0x0a637dc5a2c898a6] ++
  [0x113f9804bef90dae, 0x1b710b35131c471b, 0x28db77f523047d84, 0x32caab7b40c72493, 0x3c9ebe0a15c9bebc] ++
  [0x431d67c49c100d4c, 0x4cc5d4becb3e42b6, 0x597f299cfc657e2a, 0x5fcb6fab3ad6faec, 0x6c44198c4a475817]
/-- The initial hash value. -/
def shaInit : List Nat :=
  [0x6a09e667f3bcc908, 0xbb67ae8584caa73b, 0x3c6ef372fe94f82b, 0xa54ff53a5f1d36f1, 0x510e527fade682d1] ++
  [0x9b05688c2b3e6c1f, 0x1f83d9abfb41bd6b, 0x5be0cd19137e2179]
/-- A rotation to the right of a 64-bit word. -/
def rotr (n x : Nat) : Nat := (x >>> n) ||| (x <<< (64 - n)) % 2 ^ 64
/-- The message schedule, latest word first: n further words from the 16 of a block. -/
def shaWords : (n : Nat) → List Nat → List Nat
  | 0, w => w
  | n + 1, w =>
    let g (i : Nat) := w.getD i 0
    let s0 := rotr 1 (g 14) ^^^ rotr 8 (g 14) ^^^ (g 14 >>> 7)
    let s1 := rotr 19 (g 1) ^^^ rotr 61 (g 1) ^^^ (g 1 >>> 6)
    shaWords n ((g 15 + s0 + g 6 + s1) % 2 ^ 64 :: w)
/-- The working variables. -/
structure ShaVars where
  a : Nat
  b : Nat
  c : Nat
  d : Nat
  e : Nat
  f : Nat
  g : Nat
  h : Nat
/-- One round, with its schedule word and constant. -/
def shaRound (v : ShaVars) (wk : Nat × Nat) : ShaVars :=
  let t1 := v.h + (rotr 14 v.e ^^^ rotr 18 v.e ^^^ rotr 41 v.e) + ((v.e &&& v.f) ^^^ ((2 ^ 64 - 1 - v.e) &&& v.g)) + wk.2 + wk.1
  let t2 := (rotr 28 v.a ^^^ rotr 34 v.a ^^^ rotr 39 v.a) + ((v.a &&& v.b) ^^^ (v.a &&& v.c) ^^^ (v.b &&& v.c))
  ⟨(t1 + t2) % 2 ^ 64, v.a, v.b, v.c, (v.d + t1) % 2 ^ 64, v.e, v.f, v.g⟩
/-- One block of 16 words. -/
def shaBlock (h w : List Nat) : List Nat :=
  let g (i : Nat) := h.getD i 0
  let v := (((shaWords 64 w.reverse).reverse).zip shaK).foldl shaRound ⟨g 0, g 1, g 2, g 3, g 4, g 5, g 6, g 7⟩
  [v.a, v.b, v.c, v.d, v.e, v.f, v.g, v.h].zipWith (fun x y => (x + y) % 2 ^ 64) h
/-- A number from bytes, the first highest. -/
def beNat (l : List Byte) : Nat := leNat l.reverse
/-- The n bytes of a number, the highest first. -/
def beBytes (x n : Nat) : List Byte := (leBytes x n).reverse
/-- The blocks of a padded message. -/
def shaBlocks : (n : Nat) → List Nat → List Byte → List Nat
  | 0, h, _ => h
  | n + 1, h, l => shaBlocks n (shaBlock h ((List.range 16).map fun i => beNat ((l.drop (8 * i)).take 8))) (l.drop 128)
/-- SHA-512 of a byte string; the digest's first byte is bits [7:0]. -/
@[irreducible] def sha512 (l : List Byte) : BitVec 512 :=
  let n := (l.length + 17 + 127) / 128
  let padded := l ++ [0x80] ++ List.replicate (128 * n - l.length - 17) 0 ++ beBytes (8 * l.length) 16
  BitVec.ofNat 512 (leNat ((shaBlocks n shaInit padded).flatMap fun x => beBytes x 8))

/-! ## AES-256 -/

/-- The substitution box, 64 entries of 8 bits in each number, and its inverse. -/
def aesBox : List Nat :=
  [0x75b227ebe28012079a059618c323c7041531d871f1e5a534ccf73f362693fdb7c072a49cafa2d4adf04759fa7dc982ca76abd7fe2b670130c56f6bf27b777c63,
   0xd2f3ff1021dab6bcf5389d928f40a351a89f3c507f02f94585334d43fbaaefd0cf584c4a39becb6a5bb1fc20ed00d153842fe329b3d63b52a05a6e1b1a2c8309,
   0x08ae7a65eaf4566ca94ed58d6d37c8e779e4959162acd3c25c2406490a3a32e0db0b5ede14b8ee4688902a22dc4f816073195d643d7ea7c41744975fec130ccd,
   0x16bb54b00f2d99416842e6bf0d89a18cdf2855cee9871e9b948ed9691198f8e19e1dc186b95735610ef6034866b53e708a8bbd4b1f74dde8c6b4a61c2e2578ba]
def aesUnbox : List Nat :=
  [0x25d18b6d49a25b76b224d92866a12e084ec3fa420b954cee3d23c2a632947b54cbe9dec444438e3487ff2f9b8239e37cfbd7f3819ea340bf38a53630d56a0952,
   0x6b8a130103bdafc1020f3fca8f1e2cd00645b3b80558e4f70ad3bc8c00abd890849d8da75746155edab9edfd5048706c92b6655dcc5ca4d41698688664f6f872,
   0xf45acd78fec0db9a2079d2c64b3e56fc1bbe18aa0e62b76f89c5291d711af1476edf751ce837f9e28535ade72274ac9673e6b4f0cecff297eadc674f4111913a,
   0x7d0c2155631469e126d677ba7e042b17619953833cbbebc8b0f52aae4d3be0a0ef9cc9939f7ae52d0d4ab519a97f51605fec8027591012b131c7078833a8dd1f]
/-- An entry of a box. -/
def boxAt (t : List Nat) (x : Nat) : Nat := (t.getD (x / 64) 0 >>> (8 * (x % 64))) % 256
/-- Multiplication by x in the field of AES. -/
def xtime (x : Nat) : Nat := if x < 128 then 2 * x else (2 * x) ^^^ 0x11B
/-- Multiplication by a factor below 16. -/
def gmul (f x : Nat) : Nat :=
  let x2 := xtime x
  let x4 := xtime x2
  (if f % 2 = 1 then x else 0) ^^^ (if f / 2 % 2 = 1 then x2 else 0) ^^^ (if f / 4 % 2 = 1 then x4 else 0) ^^^
    (if f / 8 = 1 then xtime x4 else 0)
/-- Bytes combined one by one. -/
def xorBytes (a b : List Nat) : List Nat := a.zipWith (· ^^^ ·) b
/-- The key schedule as four-byte words, latest first: word 60 - n and on from the words before it. -/
def aesSchedule : (n : Nat) → List (List Nat) → List (List Nat)
  | 0, w => w
  | n + 1, w =>
    let i := 60 - (n + 1)
    let t := w.headD []
    let t :=
      if i % 8 = 0 then xorBytes ((t.drop 1 ++ t.take 1).map (boxAt aesBox)) [2 ^ (i / 8 - 1), 0, 0, 0]
      else if i % 8 = 4 then t.map (boxAt aesBox) else t
    aesSchedule n (xorBytes (w.getD 7 []) t :: w)
/-- The fifteen round keys of a 32-byte key. -/
def aesKeys (key : List Nat) : List (List Nat) :=
  let w := (aesSchedule 52 ((List.range 8).map fun i => (key.drop (4 * i)).take 4).reverse).reverse
  (List.range 15).map fun r => ((w.drop (4 * r)).take 4).flatten
/-- The columns of a block, each combined with the rotations of a row of factors. -/
def mixColumns (m : List Nat) (s : List Nat) : List Nat :=
  (List.range 16).map fun i =>
    let f (j : Nat) : Nat := gmul (m.getD ((j + 4 - i % 4) % 4) 0) (s.getD (i / 4 * 4 + j) 0)
    f 0 ^^^ f 1 ^^^ f 2 ^^^ f 3
/-- Row r of the block moves left by r columns (k = 1), or right by r (k = 3). -/
def shiftRows (k : Nat) (s : List Nat) : List Nat :=
  (List.range 16).map fun i => s.getD ((i / 4 + k * (i % 4)) % 4 * 4 + i % 4) 0
/-- AES-256 of a 16-byte block. -/
def aesEncrypt (key block : List Nat) : List Nat :=
  match aesKeys key with
  | [] => []
  | k0 :: ks =>
    let sub (s : List Nat) : List Nat := shiftRows 1 (s.map (boxAt aesBox))
    let s := (ks.take 13).foldl (fun s k => xorBytes (mixColumns [2, 3, 1, 1] (sub s)) k) (xorBytes block k0)
    xorBytes (sub s) (ks.getD 13 [])
/-- Its inverse. -/
def aesDecrypt (key block : List Nat) : List Nat :=
  match (aesKeys key).reverse with
  | [] => []
  | k0 :: ks =>
    let sub (s : List Nat) : List Nat := (shiftRows 3 s).map (boxAt aesUnbox)
    let s := (ks.take 13).foldl (fun s k => mixColumns [14, 11, 13, 9] (xorBytes (sub s) k)) (xorBytes block k0)
    xorBytes (sub s) (ks.getD 13 [])
/-- The bytes of a key, which a key slot holds with its first byte in bits [7:0]. -/
def keyBytes (key : Nat) : List Nat := (leBytes key 32).map (·.toNat)
/-- The keystream of a counter block (R237): the block is numbered from bit 127, its first byte, and byte 0 of the stream is bits [7:0]. -/
@[irreducible] def keystream (key block : Nat) : BitVec 128 :=
  BitVec.ofNat 128 (leNat ((aesEncrypt (keyBytes key) ((beBytes block 16).map (·.toNat))).map (BitVec.ofNat 8)))

/-! ## AES key unwrap -/

/-- The steps of an unwrap, from step n down to 1: the check register and the eight blocks. -/
def unwrapSteps (key : List Nat) : (n : Nat) → List Nat → List (List Nat) → List Nat × List (List Nat)
  | 0, a, r => (a, r)
  | n + 1, a, r =>
    let i := n % 8
    let b := aesDecrypt key (xorBytes a ((beBytes (n + 1) 8).map (·.toNat)) ++ r.getD i [])
    unwrapSteps key n (b.take 8) (r.set i (b.drop 8))
/-- The 64 bytes that 72 wrapped bytes hold, the first in bits [7:0]; none when the check fails. -/
@[irreducible] def keyUnwrap (key : Nat) (l : List Byte) : Option Nat :=
  let l := l.map (·.toNat)
  let x := unwrapSteps (keyBytes key) 48 (l.take 8) ((List.range 8).map fun i => (l.drop (8 + 8 * i)).take 8)
  if x.1 = List.replicate 8 0xA6 then some (leNat (x.2.flatten.map (BitVec.ofNat 8))) else none

end Sys2Proof.Machine
end

