-- ==== Sys2Proof/Machine/Weights.lean ====
section
/-! DEFINITION. The weight tier: weight addresses, regions and the weight port's decryption (spec/06_memory.md R148, spec/10_matrix.md
R236, R237), the weight programming engine and its instructions (spec/13_weight_tier.md R302 to R314). -/
namespace Sys2Proof.Machine

/-! ## Addresses and regions (R148, R304, R354) -/

/-- Bytes of a core's slice that can be addressed (R148). -/
def sliceBytes : Nat := 0x5000000
/-- A weight operand of n bytes fails R148 on a core. -/
def wtAddrBad (core : Nat) (a : Word) (n : Nat) : Bool :=
  a.toNat ≥ 2 ^ 38 || fld a.toNat 27 11 != core || fld a.toNat 0 27 + n > sliceBytes
/-- The region an offset lies in, with its place in the table (R304). -/
def Slice.region? (sl : Slice) (off : Nat) : Option (Nat × Region) :=
  List.find? (fun (_, r) => r.base ≤ off && off < r.base + r.len) sl.regions
/-- The first offset of a range whose row fails a test of its region; regions begin and end at multiples of 64 KiB. -/
def Slice.firstBad (sl : Slice) (bad : Option Region → Bool) (off n : Nat) : Option Nat :=
  ((List.range ((off + n - 1) / 65536 - off / 65536 + 1)).map fun i => Nat.max off ((off / 65536 + i) * 65536)).find? fun o =>
    bad ((sl.region? o).map (·.2))
/-- A row that is unassigned or of another VF (R304). -/
def foreign (vf : Nat) (r : Option Region) : Bool := !(r.any (·.vf == vf))
/-- A region whose key slot is empty (R354). -/
def State.keyless (s : State) (r : Option Region) : Bool := r.any fun x => (s.key x.key).isNone
/-- The weight address of an offset of a core's slice. -/
def wtAddr (core off : Nat) : Word := BitVec.ofNat 64 (core * 2 ^ 27 + off)

/-- The checks of a weight operand: R148, its alignment, its regions (R236, R304), their keys (R354). -/
def State.wtCheck (s : State) (core vf : Nat) (a : Word) (n align : Nat) : Option Trap :=
  let off := fld a.toNat 0 27
  let sl := s.slice core
  if wtAddrBad core a n then some (mkTrap .illegal a)
  else if a.toNat % align ≠ 0 then some (mkTrap .misalign a)
  else match sl.firstBad (foreign vf) off n with
    | some o => some (mkTrap .illegal (wtAddr core o))
    | none => if (sl.firstBad s.keyless off n).isSome then some (mkTrap .illegal a) else none

/-! ## The weight port (R236, R237) -/

/-- The keystream of a row: four counter blocks (R237). -/
def rowStream (key core row version : Nat) : BitVec 512 :=
  let blk (b : Nat) : BitVec 512 :=
    (keystream key ((core * 2 ^ 21 + row) % 2 ^ 32 * 2 ^ 96 + version % 2 ^ 32 * 2 ^ 64 + b)).setWidth 512
  blk 0 ||| (blk 1 <<< 128) ||| (blk 2 <<< 256) ||| (blk 3 <<< 384)
/-- The plaintext of a row at the version its map entry names, or none when its region has no key; a row that was not written under the
key now in the slot gives an unpredictable one (R354). -/
def State.rowPlain (s : State) (core row : Nat) : Option (BitVec 512) :=
  let sl := s.slice core
  let p := sl.phys.get (sl.entry row).cur {}
  match (sl.region? (64 * row)).bind fun r => s.key r.2.key with
  | some k =>
    if p.under.any (·.2 == k.key) then some (p.data ^^^ rowStream k.key core row p.version.toNat)
    else some (Config.staleRow core row k.gen)
  | none => none
/-- What n bytes from an offset read as through the weight port: plaintext, the first uncorrectable row, or no key. The rows of `held`
have been read before (R236). -/
inductive PortRead where | data (v : Nat) | bad (row : Nat) | keyless
deriving DecidableEq, Repr
def State.portRead (s : State) (core off n : Nat) (held : Table (BitVec 512) := []) : PortRead :=
  let rows := (List.range ((off % 64 + n + 63) / 64)).map (off / 64 + ·)
  match rows.find? (fun r => (held.find? r).isNone && s.rowBad core r) with
  | some r => .bad r
  | none =>
    match rows.mapM (fun r => match held.find? r with | some x => some x | none => s.rowPlain core r) with
    | none => .keyless
    | some l => .data ((l.foldr (fun r acc => r.toNat + 2 ^ 512 * acc) 0) / 256 ^ (off % 64) % 256 ^ n)

/-! ## WPROG (R308) -/

/-- Whether a tag of a job has a request in flight, of the copy engine or of a weight engine (R280, R308). -/
def State.tagBusy (s : State) (job : Nat) (t : Fin 64) : Bool :=
  s.copies.any (fun c => c.job == job && c.tag == t) || s.cores.any fun (_, c) => c.wreqs.any fun w => w.job == job && w.tag == t

/-- The 64 source bytes of a WPROG: each aligned 8-byte part as it was read before, or as it is now (R192, R308). -/
def State.wprogBytes (s : State) (x : Bank) (core off : Nat) : List Byte :=
  (List.range 8).flatMap fun i => match x.wbuf.find? i with | some l => l | none => s.readLoc (.sp core (off + 8 * i)) 8
/-- Part i of the source is read before the rest, behind C's earlier scratchpad stores (R146, R192). -/
def State.wprogRead (s : State) (core seat : Nat) (x : Bank) (off i : Nat) : State :=
  let c := s.core core
  let o := off + 8 * i
  if i < 8 ∧ off % 64 = 0 ∧ off + 64 ≤ 0x60000 ∧ (x.wbuf.find? i).isNone ∧ !c.scrubbing.getLsbD (off / 4096)
      ∧ (firstPart c.poison true o 8).isNone ∧ (firstPart c.valid false o 8).isNone
      ∧ !(s.acc.any fun a => a.job == x.job && a.eng == .c && a.storesSp) then
    s.setBank core seat { x with wbuf := x.wbuf.put i (s.readLoc (.sp core o) 8) }
  else s

/-- WPROG: the checks, the wait for the tag and the engine, and the acceptance. -/
def execWprog (a b : CReg) (tag : Fin 64) (s : State) : Host.Outcome State Fault Refusal :=
  issue { mo := true, regs := [a, b] } (fun s x =>
    let av := x.getC a
    let bv := x.getC b
    let off := av.toNat
    let core := s.cur.core
    let seat := s.cur.seat
    if off + 64 > 0x60000 then .trap (mkTrap .illegal av) s
    else match s.rangeCond x (x.level .c) true core (some seat) off 64 with
    | .illegal => .trap (mkTrap .illegal av) s
    | .gate => .trap (mkTrap .gate av) s
    | uc =>
      if off % 64 ≠ 0 then .trap (mkTrap .misalign av) s
      else if wtAddrBad core bv 1 then .trap (mkTrap .illegal bv) s
      else if bv.toNat % 64 ≠ 0 then .trap (mkTrap .misalign bv) s
      else match s.wtCheck core x.vf bv 64 64 with
      | some t => .trap t s
      | none =>
        match uc with
        | .refuse t => s.stallOn core seat x .c t av
        | _ =>
          let c := s.core core
          if !s.firstStalled x .c || s.acc.any (fun o => o.job == x.job && o.eng == .c && o.storesSp) then .wait
          else if (firstPart c.poison true off 64).isSome then .trap (mkTrap .uncorr av) s
          else
            let inv := firstPart c.valid false off 64
            if inv.isSome && x.ut then .trap (mkTrap .spuninit (BitVec.ofNat 64 (inv.getD 0))) s
            else if s.tagBusy x.job tag || c.wreqs.length ≥ 16 then .wait
            else
              let data := BitVec.ofNat 512 (leNat (s.wprogBytes x core off))
              let r : WReq := { id := s.nextId, job := x.job, vf := x.vf, part := x.part, seat := seat, tag := tag,
                                row := fld bv.toNat 0 27 / 64, addr := bv, data := data }
              let s := { s with nextId := s.nextId + 1 }.setCore core { c with wreqs := c.wreqs ++ [r] }
              let s := match inv with
                | some p => s.log core seat ⟨5, false, 0, x.cid, 0, BitVec.ofNat 64 p⟩
                | none => s
              let y := x.acceptTag tag
              .ok (s.setBank core seat { y with wbuf := [], wpstat := y.wpstat.put tag ⟨1, 0⟩ }) .next false) s

/-! ## The engine (R305 to R307, R309 to R311) -/

def Slice.worn (sl : Slice) (phys : Nat) : Bool :=
  let p := sl.phys.get phys {}
  sl.wlim ≤ p.wear || p.failed
/-- A request replaced in its core. -/
def State.setWReq (s : State) (core : Nat) (r : WReq) : State :=
  let c := s.core core
  s.setCore core { c with wreqs := c.wreqs.map fun o => if o.id = r.id then r else o }
/-- A request whose update has ended: its record is completed at once, its tag later (R309, R312). -/
def State.endWReq (s : State) (core : Nat) (r : WReq) : State :=
  (s.setWReq core r).mapJob r.job fun b => { b with wpstat := b.wpstat.put r.tag ⟨r.out, if r.out = 4 then 0 else r.iter⟩ }
/-- A request may go on: no earlier request of the row is still running, and no WSEAL of its region holds it (R308, R314). -/
def Core.mayProgram (c : Core) (sl : Slice) (r : WReq) : Bool :=
  !(c.wreqs.any fun o => o.row == r.row && o.id < r.id && o.out == 1)
    && !(c.seals.any fun x => ((sl.region? (64 * r.row)).map (·.1)) == some x.region && x.order ≤ r.id)

/-- The start of programming a target (R306, R307): a worn alternate row is replaced by a spare; the target's wear rises. -/
def State.beginRow (s : State) (core : Nat) (r : WReq) : State :=
  let sl := s.slice core
  let m := sl.entry r.row
  if m.version ≥ 0xFFFFFFFF then s.endWReq core { r with out := 4, begun := true }
  else if sl.worn m.alt && sl.spares = 0 then s.endWReq core { r with out := 4, begun := true }
  else
    let remap := sl.worn m.alt
    let tgt := if remap then sl.nextSpare else m.alt
    let sl1 := if remap then { sl with map := sl.map.put r.row { m with alt := tgt }, nextSpare := sl.nextSpare + 1,
                                       spares := sl.spares - 1 } else sl
    let p := sl1.phys.get tgt {}
    let sl2 := { sl1 with phys := sl1.phys.put tgt { p with wear := Nat.min (p.wear + 1) (2 ^ 20 - 1) } }
    let s := (s.setSlice core sl2).setWReq core { r with target := some tgt, remapped := r.remapped || remap, begun := true }
    if remap then
      s.log core r.seat ⟨6, false, 0, cid r.part r.vf, tgt % 2 ^ 21,
        BitVec.ofNat 64 (r.addr.toNat / 64 * 64 + m.alt % 2 ^ 21 * 2 ^ 38)⟩
    else s
/-- The end of programming a target: each group passes after 1 to 16 iterations, or the row has failed (which is not fixed by the
manual: `ok` and `iter` are free values); on success the map switches, as one action (R305). -/
def State.endRow (s : State) (core : Nat) (r : WReq) (tgt : Nat) (ok : Bool) (iter : Nat) : State :=
  let sl := s.slice core
  let p := sl.phys.get tgt {}
  let region := sl.region? (64 * r.row)
  if !ok then (s.setSlice core { sl with phys := sl.phys.put tgt { p with failed := true } }).setWReq core { r with target := none }
  else
    let m := sl.entry r.row
    let v := m.version + 1
    let under := region.bind fun x => (s.key x.2.key).map fun k => (x.2.key, k.key)
    let cipher := r.data ^^^ rowStream ((under.map (·.2)).getD 0) core r.row v
    let sl := { sl with
      phys := sl.phys.put tgt { p with data := cipher, version := BitVec.ofNat 32 v, bad := false, check := Config.bchCheck cipher, under := under }
      map := sl.map.put r.row ⟨tgt, m.cur, v⟩
      regions := sl.regions.map fun (i, x) => if region.any (·.1 == i) then (i, { x with dirty := true }) else (i, x) }
    (s.setSlice core sl).endWReq core { r with out := if r.remapped then 3 else 2, iter := iter % 2 ^ 32, target := none }

/-- The request an event names. -/
def State.eventWReq (s : State) : Option WReq := (s.core s.cur.core).wreqs[s.cur.ev.idx]?

/-- WEIGHT_UPDATE (`ev.core`, `ev.idx`): the engine starts programming the request's target row, or ends it. -/
def execWeightUpdate (s : State) : Host.Outcome State Fault Refusal :=
  let core := s.cur.core
  match s.eventWReq with
  | none => .next s
  | some r =>
    if r.out ≠ 1 ∨ !(s.core core).mayProgram (s.slice core) r then .next s
    else match r.target with
      | none => .next (s.beginRow core r)
      | some tgt =>
        let (f, s) := s.draw
        let (iter, s) := s.draw
        .next (s.endRow core r tgt (f % 2 == 0) iter)

/-- Ends a request, whose record is complete: its tag is set (R309). -/
def State.closeWReq (s : State) (core : Nat) (r : WReq) : State :=
  let c := s.core core
  ((s.setCore core { c with wreqs := c.wreqs.filter (·.id != r.id) }).mapJob r.job (·.completeTag r.tag 0)).refreshImages
/-- WPROG_COMPLETE: a finished update sets its tag; a failed one only after its WPFAIL record stands in the trap
registers (R311). -/
def execWprogComplete (s : State) : Host.Outcome State Fault Refusal :=
  match s.eventWReq with
  | none => .next s
  | some r =>
    let waits := (s.findJob r.job).any fun (_, b) => b.waiting.any (·.wpfail == some r.id)
    if r.out = 1 ∨ (r.out = 4 ∧ (!r.recorded ∨ waits)) then .next s
    else .next (s.closeWReq s.cur.core r)

/-- WPFAIL: the record of a failed update arrives at its bank, live or saved, at an instruction boundary of the C stream: position pair and
DS; it waits while a trap is handled, and never stops the seat in handler mode. A bank without a handler stops (R311, R322). -/
def execWpfail (s : State) : Host.Outcome State Fault Refusal :=
  let core := s.cur.core
  match s.eventWReq with
  | none => .next s
  | some r =>
    if r.out ≠ 4 ∨ r.recorded then .next s
    else match s.findJob r.job with
      | none => .next (s.closeWReq core r)
      | some (place, b) =>
        let c := b.cS
        -- C completes a SWAPB, an answered instruction and one stalled on a second-stage fault first
        let boundary := b.handler || (!b.swapping && c.s2stall.isNone && match c.stage with | .answered _ => false | _ => true)
        let rec0 : TrapRec := { strm := .c, cause := Cause.wpfail.code, pc := c.pc, npc := c.npc, addr := r.addr,
                                wd := c.wclr, ds := c.ds, wpfail := some r.id }
        if !boundary then .next s
        else
          let s := s.setWReq core { r with recorded := true }
          if b.ended then .next s
          else if b.hring.len = 0 then
            let b2 := if b.handling then { b with waiting := b.waiting ++ [rec0] } else { b with trap := rec0.regs, handling := true }
            let (bc, bs) := match place with | .live c t => (c, t) | .shadow c t => (c, t) | .image _ => (core, r.seat)
            .next (((s.mapJob r.job fun _ => { b2 with stopped := true }).dropTokWait b.job fun _ => true).seatStop bc bs b2 rec0)
          else .next (s.mapJob r.job (·.takeRecord rec0))

/-! ## WPSTAT, WWEAR, WRMAP (R312, R313) -/

/-- WPSTAT. -/
def execWpstat (d a : CReg) (s : State) : Host.Outcome State Fault Refusal :=
  issueB { mo := true, regs := [d, a] } (fun x =>
    let t := x.getC a
    if t.toNat ≥ 64 then .trap (mkTrap .illegal t) x
    else
      let r := x.wpstat.get t.toNat ⟨0, 0⟩
      .ok (x.setC d (BitVec.ofNat 64 (r.out * 2 ^ 32 + r.iter % 2 ^ 32))) .next false) s

/-- A read of a row's counters or map entry. -/
def rowRead (f : Slice → MapEntry → Nat) (d a : CReg) (s : State) : Host.Outcome State Fault Refusal :=
  issue { mo := true, regs := [d, a] } (fun s x =>
    let v := x.getC a
    let core := s.cur.core
    let sl := s.slice core
    let off := fld v.toNat 0 27
    if wtAddrBad core v 1 || (sl.firstBad (foreign x.vf) off 1).isSome then .trap (mkTrap .illegal v) s
    else .ok (s.setBank core s.cur.seat (x.setC d (BitVec.ofNat 64 (f sl (sl.entry (off / 64)))))) .next false) s
/-- WWEAR. -/
def execWwear (d a : CReg) (s : State) : Host.Outcome State Fault Refusal :=
  rowRead (fun sl m => sl.wlim * 2 ^ 40 + (sl.phys.get m.alt {}).wear * 2 ^ 20 + (sl.phys.get m.cur {}).wear) d a s
/-- Spare rows are the physical rows 0x140000 to 0x15FFFF (assumption 8). -/
def isSpare (phys : Nat) : Bool := 0x140000 ≤ phys && phys < 0x160000
/-- WRMAP. -/
def execWrmap (d a : CReg) (s : State) : Host.Outcome State Fault Refusal :=
  rowRead (fun sl m => b2n (isSpare m.alt) * 2 ^ 53 + b2n (isSpare m.cur) * 2 ^ 52 + sl.spares * 2 ^ 32 + m.version) d a s

/-! ## WSEAL (R314) -/

/-- The bytes WSEAL hashes: row number (weight address bits [37:6], R237), version and ciphertext of every row of a region. -/
def Slice.sealBytes (sl : Slice) (core : Nat) (r : Region) : List Byte :=
  (List.range (r.len / 64)).flatMap fun i =>
    let row := r.base / 64 + i
    let m := sl.entry row
    leBytes (core * 2 ^ 21 + row) 4 ++ leBytes m.version 4 ++ leBytes (sl.phys.get m.cur {}).data.toNat 64

/-- WSEAL: it takes its place, waits for the earlier WPROGs of the region while later ones are held, and stores the digest. -/
def execWseal (a : CReg) (s : State) : Host.Outcome State Fault Refusal :=
  issue { mo := true, regs := [a] } (fun s x =>
    let v := x.getC a
    let core := s.cur.core
    let c := s.core core
    let sl := s.slice core
    let off := fld v.toNat 0 27
    if wtAddrBad core v 1 || (sl.firstBad (foreign x.vf) off 1).isSome then .trap (mkTrap .illegal v) s
    else match sl.region? off with
    | none => .trap (mkTrap .illegal v) s
    | some (i, r) =>
      match c.seals.find? (·.job == x.job) with
      | none =>
        let s1 := { s with nextId := s.nextId + 1 }.setCore core { c with seals := c.seals ++ [Seal.mk x.job i s.nextId] }
        .begun (s1.setBank s.cur.core s.cur.seat (s.issueSignal x))
      | some z =>
        if c.wreqs.any (fun q => ((sl.region? (64 * q.row)).map (·.1)) == some i && q.id < z.order) then .wait
        else
          let r' := { r with digest := sha512 (sl.sealBytes core r), dirty := false }
          let s := s.setSlice core { sl with regions := sl.regions.put i r' }
          .ok (s.setCore core { c with seals := c.seals.filter (·.job != x.job) }) .passed false) s

end Sys2Proof.Machine
end

