-- ==== Sys2Proof/Machine/Matrix.lean ====
section
/-! DEFINITION. The matrix engine: the bobbin, stationary loads, products, tiles, seams and heat tokens (spec/10_matrix.md R226 to
R259; sums R72 to R74 of spec/03_numbers.md; frames R292 of spec/12_copy.md). -/
namespace Sys2Proof
/-- Bytes of a k-step block (R228). -/
def Fmt.blockBytes (f : Fmt) : Nat := 64 * f.rowBytes
end Sys2Proof

namespace Sys2Proof.Machine

/-! ## Tokens (R252 to R254) -/

def Fmt.tern (f : Fmt) : Bool := f == .bin || f == .trit5 || f == .trit2
/-- The width that counts for a class (R252). -/
def Fmt.classWidth (f : Fmt) : Nat := if Fmt.tern f then 2 else f.width
/-- Tokens of a k-step (R252). -/
def kstepTokens (af bf : Fmt) : Nat :=
  if (Fmt.tern af && Fmt.classWidth bf ≤ 8) || (Fmt.tern bf && Fmt.classWidth af ≤ 8) then 8
  else
    let w := Nat.max (Fmt.classWidth af) (Fmt.classWidth bf)
    if w ≤ 6 then 16 else if w ≤ 8 then 32 else if w ≤ 16 then 64 else 128
/-- Tokens of the fill of a block (R252). -/
def fillTokens (fromWeight : Bool) (f : Fmt) : Nat :=
  Nat.max 1 (if fromWeight then (f.blockBytes + 2047) / 2048 else (f.blockBytes + 4095) / 4096)

/-- An attempt to spend tokens: spent; a place taken in the column's order; or still waiting. -/
inductive Paid where | paid (s : State) | queued (s : State) | wait
/-- Spends tokens of a column, in the order in which its actions began to wait (R253). -/
def State.spend (s : State) (column : Nat) (w : TokWait) (cost : Nat) : Paid :=
  let c := s.core column
  if cost = 0 then .paid s
  else if (c.tokWait.takeWhile (· != w)).isEmpty && cost ≤ c.tokens then
    .paid (s.setCore column { c with tokens := c.tokens - cost, tokWait := c.tokWait.filter (· != w) })
  else if c.tokWait.contains w then .wait
  else .queued (s.setCore column { c with tokWait := c.tokWait ++ [w] })
/-- Tokens of the instruction that the current stream issues. -/
def payThen (cost : Nat) (s : State) (b : Bank) (f : State → Res State) : Res State :=
  match s.spend s.cur.core ⟨s.cur.core, b.job, 0⟩ cost with
  | .paid s => f s
  | .queued s => .hold s
  | .wait => .wait

/-! ## Scratchpad operands (R230) -/

/-- The checks of R230 on a range: the range, the alignment, the ownership and the label of each unit. TRAPADDR of a range that runs
past 0x5_FFFF is its base (assumption 108). -/
def State.mCheck (s : State) (b : Bank) (addr : Word) (n align : Nat) : Option Trap :=
  let a := addr.toNat
  if a ≥ 2 ^ 19 || a + n > 0x60000 then some (mkTrap .illegal addr)
  else if a % align ≠ 0 then some (mkTrap .misalign addr)
  else
    let us := (List.range ((a + n + 4095) / 4096 - a / 4096)).map (a / 4096 + ·)
    let cond (u : Nat) : UnitCond := s.unitCond b (b.level .m) b.mS.mo s.cur.core (some s.cur.seat) u
    let at_ (u : Nat) : Word := BitVec.ofNat 64 (Nat.max a (4096 * u))
    match us.find? fun u => cond u == .illegal with
    | some u => some (mkTrap .illegal (at_ u))
    | none => (us.find? fun u => cond u == .gate).map fun u => mkTrap .gate (at_ u)

/-- What the M stream's read of a scratchpad range meets (R144, R230, R326, R356). -/
inductive SpRead where
  | data (v : Nat) (warn : Option Nat)
  | bad (c : Cause) (addr : Nat)
  | stall (target addr : Nat)
/-- The parts of the operand `key` that have been read ahead (R192). -/
def Bank.ahead (b : Bank) (key : Nat × Nat) : List MPart := b.mbuf.filter fun x => (x.id, x.step) == key
def Bank.dropAhead (b : Bank) (key : Nat × Nat) : Bank := { b with mbuf := b.mbuf.filter fun x => (x.id, x.step) != key }
/-- `key`: the request or product that reads, and its block or k-step; its parts read ahead keep their bytes. -/
def State.mRead (s : State) (b : Bank) (key : Nat × Nat) (a n : Nat) : SpRead :=
  let core := s.cur.core
  let c := s.core core
  let us := (List.range ((a + n + 4095) / 4096 - a / 4096)).map (a / 4096 + ·)
  let pre := b.ahead key
  let held (p : Nat) : Bool := pre.any fun x => x.addr == p / 8 * 8
  let first (bits : BitVec 98304) (want : Bool) : Option Nat :=
    if pre.isEmpty then firstPart bits want a n
    else ((List.range ((a + n + 3) / 4 - a / 4)).find? fun i => bits.getLsbD (a / 4 + i) == want && !held (4 * (a / 4 + i))).map
      fun i => 4 * (a / 4 + i)
  let bytes : List Byte := pre.foldl (fun l (x : MPart) => if a ≤ x.addr ∧ x.addr + 8 ≤ a + n then
      l.take (x.addr - a) ++ x.bytes ++ l.drop (x.addr - a + 8) else l) (s.readLoc (.sp core a) n)
  match b.mS.scrub.filter (fun st => !s.stallFirst st), us.find? c.scrubbing.getLsbD with
  | some st, _ => .stall st.target st.addr.toNat
  | none, some u => .stall (targetNo 2 (core * 128 + u)) (Nat.max a (4096 * u))
  | none, none =>
    match first c.poison true, first c.valid false with
    | some p, _ => .bad .uncorr p
    | none, some p => if b.ut then .bad .spuninit p else .data (leNat bytes) (some p)
    | none, none => .data (leNat bytes) none
/-- The UNINIT entry of an instruction (R144). -/
def State.warn (s : State) (b : Bank) (w : Option Nat) : State :=
  match w with
  | some p => s.log s.cur.core s.cur.seat ⟨5, false, 3, b.cid, 0, BitVec.ofNat 64 p⟩
  | none => s
/-- Whether earlier accesses of the M stream are pending behind which a scratchpad access at place `id` waits (R195, R230). -/
def State.mPending (s : State) (job id : Nat) : Bool :=
  s.acc.any fun a => a.job == job && a.eng == .m && a.id < id && a.kind != .sigset

/-! ## Tiles -/

/-- Element (i, n) of a tile (R226). -/
def tileElem (t : Tile) (i n : Nat) : Nat := (t.toNat >>> (32 * (64 * i + n))) % 2 ^ 32
/-- A tile from its elements. -/
def tileOf (f : Nat → Nat → Nat) : Tile :=
  BitVec.ofNat 131072 ((List.range 4096).foldr (fun k acc => acc * 2 ^ 32 + f (k / 64) (k % 64) % 2 ^ 32) 0)
def Bank.setTile (b : Bank) (z : Fin 4) (i32 : Bool) (t : Tile) : Bank :=
  { b with z := b.z.set z t, zk := if i32 then b.zk ||| (1#4 <<< z.val) else b.zk &&& ~~~ (1#4 <<< z.val) }
/-- A 32-bit code as a signed integer. -/
def int32 (c : Nat) : Int := if c < 2 ^ 31 then (c : Int) else (c : Int) - 2 ^ 32
/-- An accumulator element's exact value, read in its tile's kind. -/
def Bank.tileVal (b : Bank) (z : Fin 4) (i n : Nat) : XVal :=
  let c := tileElem b.z[z] i n
  if b.zk.getLsbD z then .ofInt (int32 c) else f32 c
/-- An output of an accumulator element (R74). -/
def Bank.outCode (b : Bank) (z : Fin 4) (w : FmtWord) (i n : Nat) : Nat := w.round w.out ((b.tileVal z i n).scale w.osc)
/-- The bytes of codes of a width, packed (R55). -/
def packCodes (w : Nat) (l : List Nat) : List Byte :=
  leBytes (l.foldr (fun c acc => acc * 2 ^ w + c % 2 ^ w) 0) (w * l.length / 8)
/-- Whether k-steps or deferred operations on a tile are still to be applied (R227). -/
def Bank.tileBusy (b : Bank) (z : Fin 4) : Bool := b.prods.any fun p => p.z == z && !p.allApplied

/-! ## k-steps (R64, R65, R72) -/

/-- Element j of vector v of a block, decoded with its scales. -/
def operand (f : Fmt) (fzi : Bool) (blk scales : Nat) (e : Int) (v j : Nat) : XVal :=
  let rb := f.rowBytes
  let x := (elemOf f fzi (blk / 256 ^ (v * rb) % 256 ^ rb) j).1
  let sb := if f.isBlock then sint8 (scales / 256 ^ (2 * v + j / 32) % 256) else 0
  x.scale (sb + e)
/-- Whether a block holds an illegal ternary code (R62). -/
def blockIbc (f : Fmt) (blk : Nat) : Bool :=
  Fmt.tern f && (List.range 64).any fun v => (List.range 64).any fun j =>
    (elemOf f false (blk / 256 ^ (v * f.rowBytes) % 256 ^ f.rowBytes) j).2
/-- `kstep` of R72 on one accumulator element, given its 64 products. -/
def kstepElem (w : FmtWord) (acc : Nat) (ps : List XVal) : Nat :=
  if w.i32 then
    let t := ps.foldl (fun a p => a + p.units 0) (0 : Int)
    let lo := intLeast 32 true
    let hi := intGreatest 32 true
    let r := if w.sat then clamp lo hi (clamp lo hi t + int32 acc) else int32 acc + t
    (r % (2 ^ 32 : Nat)).toNat
  else
    let t := f32 (w.round .fp32 (xsum w.rnd ps))
    w.round .fp32 (xadd w.rnd (f32 acc) t)
/-- A B operand: format, scale exponent, block and block scales. -/
structure BBlock where
  fmt : Fmt
  bsc : Int
  blk : Nat
  scales : Nat
deriving Inhabited
/-- One k-step on a whole tile: `bOf` gives the B block of a row, none where the row is left unchanged (R240, R241). -/
def kstepTile (w : FmtWord) (t : Tile) (a aScales : Nat) (bOf : Nat → Option BBlock) : Tile :=
  let ra := Array.ofFn fun i : Fin 64 => Array.ofFn fun j : Fin 64 => operand w.af w.fzi a aScales w.asc i j
  let cols (x : BBlock) := Array.ofFn fun n : Fin 64 => Array.ofFn fun j : Fin 64 => operand x.fmt w.fzi x.blk x.scales x.bsc n j
  let cb := Array.ofFn fun g : Fin 8 => (bOf (8 * g)).map cols
  tileOf fun i n =>
    let acc := tileElem t i n
    match cb.getD (i / 8) none with
    | none => acc
    | some c => kstepElem w acc ((List.range 64).map fun j =>
        ((ra.getD i #[]).getD j .zero).mul ((c.getD n #[]).getD j .zero))

/-! ## The bobbin (R231 to R234) -/

def execFqput (a : CReg) (s : State) : Host.Outcome State Fault Refusal :=
  issue { regs := [a] } (fun s b =>
    if b.fqClosed then .trap (mkTrap .qmisuse (BitVec.ofNat 64 Queue.fq.code)) s
    else pushEntry .fq (.ofWord (b.getC a)) s b) s
def execFqclose (s : State) : Host.Outcome State Fault Refusal := issueR {} (fun b => { b with fqClosed := true }) s

/-- What a tile instruction gets from fq: nothing yet, a trap (the word, if any, is consumed), or its word. -/
inductive Pop where | wait | trap (t : Trap) (b : Bank) | word (w : Word) (f : FmtWord) (b : Bank)
/-- Pops and checks the format word, or takes the word the instruction holds (R71, R115, R231, R232, R348). -/
def Bank.popFmt (b : Bank) : Pop :=
  match b.minst with
  | some i => match fmtWord i.fw with | some f => .word i.fw f b | none => .wait
  | none =>
    match b.queueTrap .m .fq false with
    | some t => .trap t b
    | none =>
    match b.queue .fq with
    | [] => if b.fqClosed then .trap { cause := .fmtunder, past := true } b else .wait
    | x :: xs =>
      let b := b.popTo .fq xs
      if x.poison then .trap { cause := .uncorr, addr := BitVec.ofNat 64 Queue.fq.code, past := true } b
      else match fmtWord x.word with
        | none => .trap { cause := .illegal, addr := x.word, past := true } b
        | some f =>
          .word x.word f { b with minst := some { fw := x.word }
                                  seam := b.seam.map fun z => { z with words := z.words ++ [x.word] } }
/-- Drops the word the instruction holds. -/
def Bank.noWord (b : Bank) : Bank := { b with minst := none }
/-- The current bank replaced. -/
def State.put (s : State) (b : Bank) : State := s.setBank s.cur.core s.cur.seat b
/-- A trap that consumes the word (R258). -/
def wordTrap (s : State) (b : Bank) (w : Word) : Res State :=
  .trap { cause := .illegal, addr := w, past := true } (s.put b.noWord)

/-- The pop of a format word, which is an acquire (R187, R190), and what is done with it; a wait after the pop keeps the word. -/
def popWord (body : Word → FmtWord → State → Bank → Res State) (s : State) (b : Bank) : Res State :=
  match (if b.minst.isNone && !(b.queue .fq).isEmpty && !s.acquireReady b.job .m then .wait else b.popFmt) with
  | .wait => .wait
  | .trap t b => .trap t (s.put b)
  | .word w f b1 =>
    match body w f (s.put b1) b1 with
    | .wait => if b.minst.isSome then .wait else .hold (s.put b1)
    | x => x

/-- The issue of a tile instruction: R = 1 only in a seam (R248), what comes before the pop, the pop, the body. -/
def tileInst (r : Bool) (before : State → Bank → Option (Res State))
    (body : Word → FmtWord → State → Bank → Res State) (s : State) : Host.Outcome State Fault Refusal :=
  issue { seamOk := r } (fun s b =>
    if r && b.seam.isNone then .trap (mkTrap .illegal) s
    else match before s b with
    | some x => x
    | none => popWord body s b) s

/-! ## Seams: bookkeeping (R248) -/

/-- The seam goes on as one that may be relocatable with this instruction in it. -/
def Bank.fitting (b : Bank) : Bool := b.seam.any fun x => x.fits && x.count == x.issued
/-- The seam with one more tile instruction (`r`: its R bit) on a tile it reads, or uses. -/
def Bank.noteTile (b : Bank) (r : Bool) (use : Option (Fin 4)) (reads : Bool) : Bank :=
  { b with seam := b.seam.map fun x =>
      let bad := reads && use.any fun z => !x.zeroed.getLsbD z
      { x with fits := x.fits && r && !bad && decide (x.tiles < 16)
               tiles := x.tiles + 1, count := x.count + 1
               used := match use with | some z => x.used ||| (1#4 <<< z.val) | none => x.used } }
def Bank.noteZero (b : Bank) (z : Fin 4) : Bank :=
  { b with seam := b.seam.map fun x =>
      { x with zeroed := x.zeroed ||| (1#4 <<< z.val), used := x.used ||| (1#4 <<< z.val), count := x.count + 1 } }
def Bank.seamNo (b : Bank) : Nat := (b.seam.map (·.id)).getD 0

/-! ## Stationary loads (R235 to R239) -/

/-- The promised count: filled slots, and the k-steps of held requests that are not yet filled. -/
def Bank.promised (b : Bank) : Nat := b.slots.length + (b.reqs.map fun r => r.k - r.filled).sum

/-- MLDW and MLDS. -/
def loadB (fromWeight : Bool) (base tab : Fin 16) (k : Fin 64) (r : Bool) (s : State) : Host.Outcome State Fault Refusal :=
  tileInst r (fun _ _ => none) (fun w f s b =>
    let a := b.getH base
    let sa := b.getH tab
    let n := k.val * f.bf.blockBytes
    let core := s.cur.core
    if !f.bf.isBlock && tab != 0 then wordTrap s b w
    else
      let check (x : Word) (n align : Nat) : Option Trap :=
        if fromWeight then s.wtCheck core b.vf x n 64 else s.mCheck b x n align
      match check a n 64, if f.bf.isBlock then check sa (128 * k.val) 2 else none with
      | some t, _ => .trap t s
      | none, some t => .trap t s
      | none, none =>
        if b.reqs.length ≥ 8 then .wait
        else
          let q : LoadReq := { id := s.nextId, fromWeight := fromWeight, addr := a, scaleAddr := if f.bf.isBlock then some sa else none,
                               fmt := f.bf, bsc := f.bsc, k := k.val, sig := s.cur.ann.late }
          let b := (b.noteTile r none false).noWord
          .ok ({ s with nextId := s.nextId + 1 }.put { b with reqs := b.reqs ++ [q] }) .next true) s
def execMldw (b tab : Fin 16) (k : Fin 64) (s : State) := loadB true b tab k false s
def execMlds (b tab : Fin 16) (k : Fin 64) (r : Bool) (s : State) := loadB false b tab k r s

/-- MWPF: a hint, which is dropped from an illegal address or a region of another VF on; its parts start later (R238). A region without
a key raises ILLEGAL (R354; assumption 107). -/
def execMwpf (base : Fin 16) (k : Fin 64) (s : State) : Host.Outcome State Fault Refusal :=
  issue {} (fun s b =>
    let a := b.getH base
    let core := s.cur.core
    let sl := s.slice core
    let off := fld a.toNat 0 27
    let fine (i : Nat) : Bool :=
      !wtAddrBad core (a + BitVec.ofNat 64 (4096 * i)) 4096 && (sl.firstBad (foreign b.vf) (off + 4096 * i) 4096).isNone
    let parts := ((List.range k.val).takeWhile fine).length
    if parts ≠ 0 ∧ (sl.firstBad s.keyless off (4096 * parts)).isSome then .trap (mkTrap .illegal a) s
    else .ok (s.put { b with mwpf := if parts = 0 then b.mwpf else b.mwpf ++ [(a, parts)] }) .next false) s
/-- The next 4096-byte part of the oldest prefetch of a seat starts: it spends 2 tokens. An address that is illegal or foreign by then,
or a column with fewer than 2 tokens, drops the rest (R238). -/
def State.prefetchPart (s : State) (core seat : Nat) : State :=
  match s.bank core seat with
  | none => s
  | some b =>
    match b.mwpf with
    | [] => s
    | (a, n) :: l =>
      let c := s.core core
      let fine := !wtAddrBad core a 4096 && ((s.slice core).firstBad (foreign b.vf) (fld a.toNat 0 27) 4096).isNone && 2 ≤ c.tokens
      if fine then
        (s.setCore core { c with tokens := c.tokens - 2 }).setBank core seat
          { b with mwpf := if n ≤ 1 then l else (a + 4096, n - 1) :: l }
      else s.setBank core seat { b with mwpf := l }

/-- A block of a weight load as it is filled, with the rows that its fill has read before: the rows of one block may come from different
moments (R236). -/
def State.weightSlot (s : State) (a : Word) (sa : Option Word) (f : Fmt) (bsc : Int) (held : Table (BitVec 512) := []) : Slot :=
  let core := fld a.toNat 27 11
  let off := fld a.toNat 0 27
  let mk (m : SlotMark) (d x : Nat) : Slot :=
    ⟨true, a, sa, f, bsc, BitVec.ofNat 131072 d, BitVec.ofNat 1024 x, m⟩
  if core ≠ s.cur.core then mk (.unfillable a) 0 0
  else
    let sc := match sa with | some x => s.portRead core (fld x.toNat 0 27) 128 held | none => .data 0
    match s.portRead core off f.blockBytes held, sc with
    | .data d, .data x => mk .ok d x
    | .bad r, _ | _, .bad r => mk (.poison (wtAddr core (64 * r)).toNat) 0 0
    | _, _ => mk (.unfillable a) 0 0
/-- The block of a scratchpad load as it is read, with its warning; or the refusing target it meets. -/
inductive SpSlot where | slot (x : Slot) (warn : Option Nat) | stall (target addr : Nat)
def State.spSlot (s : State) (b : Bank) (key : Nat × Nat) (a : Word) (sa : Option Word) (f : Fmt) (bsc : Int) : SpSlot :=
  let mk (m : SlotMark) (d x : Nat) : Slot :=
    ⟨false, a, sa, f, bsc, BitVec.ofNat 131072 d, BitVec.ofNat 1024 x, m⟩
  let sc := match sa with | some x => s.mRead b key x.toNat 128 | none => .data 0 none
  match s.mRead b key a.toNat f.blockBytes, sc with
  | .stall t p, _ | _, .stall t p => .stall t p
  | .bad .uncorr p, _ | _, .bad .uncorr p => .slot (mk (.poison p) 0 0) none
  | .bad _ p, _ | _, .bad _ p => .slot (mk (.invalid p) 0 0) none
  | .data d w, .data x w' => .slot (mk .ok d x) (match w with | some p => some p | none => w')

/-- The addresses of block i of a request. -/
def LoadReq.at (q : LoadReq) (i : Nat) : Word × Option Word :=
  (q.addr + BitVec.ofNat 64 (i * q.fmt.blockBytes), q.scaleAddr.map (· + BitVec.ofNat 64 (128 * i)))
/-- The weight fill in progress of a bank: the key of its parts in `mbuf` (a slot that is filled afresh has the key (0, 0)), the addresses
of its block and scales, and the block's format. -/
def Bank.weightFill (b : Bank) : Option ((Nat × Nat) × Word × Option Word × Fmt) :=
  match b.slots.find? (·.mark == .filling), b.reqs with
  | some x, _ => if x.fromWeight then some ((0, 0), x.addr, x.scaleAddr, x.fmt) else none
  | none, q :: _ => if q.filling && q.fromWeight then some ((q.id, q.filled), (q.at q.filled).1, (q.at q.filled).2, q.fmt) else none
  | none, [] => none
/-- The rows of an operand that a fill has read before. -/
def Bank.heldRows (b : Bank) (key : Nat × Nat) : Table (BitVec 512) := (b.ahead key).map fun x => (x.addr, BitVec.ofNat 512 (leNat x.bytes))
/-- The next row of the weight fill in progress of a seat, of its block or of its scales, is read, in address order (R236). -/
def State.weightRow (s : State) (core seat : Nat) (scales : Bool) : State :=
  match s.bank core seat with
  | none => s
  | some b =>
    match b.weightFill with
    | none => s
    | some (key, a, sa, f) =>
      let span := if scales then sa.map fun x => (x, 128) else some (a, f.blockBytes)
      match span with
      | none => s
      | some (x, n) =>
        let off := fld x.toNat 0 27
        let rows := (List.range ((off % 64 + n + 63) / 64)).map (off / 64 + ·)
        match rows.find? fun r => ((b.heldRows key).find? r).isNone with
        | none => s
        | some r =>
          match (if fld x.toNat 27 11 = core ∧ !s.rowBad core r then s.rowPlain core r else none) with
          | none => s
          | some v => s.setBank core seat { b with mbuf := b.mbuf ++ [⟨key.1, key.2, r, leBytes v.toNat 64⟩] }

/-- The core whose column spends the tokens of the seat's array work (R249, R252). -/
def Bank.column (b : Bank) (core : Nat) : Nat := (b.seam.bind (·.performer)).getD core
/-- A seat whose array work goes on: it is not stopped, its M stream has started, and no k-step of it has trapped. -/
def Bank.mRuns (b : Bank) : Bool := b.mS.started && !b.stopped && b.frozen.isNone && !b.prods.any (·.trapped)

/-- SLOT_FILL (`ev.core`, `ev.seat`): the next fill starts and spends its tokens: a slot to be filled afresh first (R259), then the
oldest request, while a slot is free (R235). -/
def execSlotFill (s : State) : Host.Outcome State Fault Refusal :=
  let core := s.cur.core
  match s.eventBank with
  | none => .next s
  | some b =>
    if b.stopped || b.frozen.isSome || b.slots.any (·.mark == .filling) || b.reqs.any (·.filling) then .next s
    else
      let pay (cost : Nat) (b' : Bank) : Host.Outcome State Fault Refusal :=
        match s.spend (b.column core) ⟨core, b.job, 2⟩ cost with
        | .paid s => .next (s.put b')
        | .queued s => .next s
        | .wait => .next s
      match b.slots.findIdx? (·.mark == .refill), b.reqs with
      | some i, _ =>
        pay (fillTokens ((b.slots[i]?.map (·.fromWeight)).getD true) ((b.slots[i]?.map (·.fmt)).getD .i8))
          { b with slots := b.slots.modify i fun x => { x with mark := .filling } }
      | none, q :: qs =>
        if b.slots.length ≥ 4 then .next s
        else pay (fillTokens q.fromWeight q.fmt) { b with reqs := { q with filling := true } :: qs }
      | none, [] => .next s

/-- The end of a load request: its signal follows its last block, behind the stream's earlier work (R26, R111, R235). -/
def State.mSignal (s : State) (b : Bank) (id : Nat) (sig : Option (Fin 64)) : State :=
  match sig with
  | none => s
  | some n =>
    let a : Access := { id := id, job := b.job, core := s.cur.core, seat := s.cur.seat, eng := .m, vf := b.vf, part := b.part,
                        kind := .sigset, elems := [], sig := some n }
    if s.earlierWork a then { s with acc := s.acc ++ [a] } else s.put ((s.bank s.cur.core s.cur.seat).getD b |>.setSig n)

/-- The seat's M stream stalls on a refusing target (R356). -/
def State.mStall (s : State) (b : Bank) (target addr : Nat) : State :=
  match s.stallOn s.cur.core s.cur.seat b .m target (BitVec.ofNat 64 addr) with | .hold s => s | _ => s

/-- Scratchpad reads of the M stream at place `id` of its order wait: an earlier access is pending, or earlier work has scratchpad reads or
writes to make (R146, R230). -/
def State.mOrder (s : State) (b : Bank) (id : Nat) : Bool :=
  s.mPending b.job id || b.prods.any fun p => p.id < id && !p.allApplied && (p.readsSp || p.op == .store)

/-- The block x of the oldest request, or of the slot that is filled afresh, is in its slot: the request's progress and its signal. -/
def State.fillEnd (s : State) (b : Bank) (q : LoadReq) (qs : List LoadReq) (x : Slot) (w : Option Nat) : State :=
  let s := if q.warned then s else s.warn b w
  let q' := { q with filled := q.filled + 1, filling := false, warned := q.warned || w.isSome }
  let b' := { b.dropAhead (q.id, q.filled) with slots := b.slots ++ [x], reqs := (if q'.filled ≥ q.k then qs else q' :: qs), mS := { b.mS with scrub := none } }
  let s := s.put b'
  if q'.filled ≥ q.k then s.mSignal b' q.id q.sig else s

/-- SLOT_FILL_DONE: the fill in progress reads its block and ends. A scratchpad block is read behind the stream's earlier writes and
the A reads of its earlier products (R230); a refusing target stalls the fill (R356). -/
def execSlotFillDone (s : State) : Host.Outcome State Fault Refusal :=
  match s.eventBank with
  | none => .next s
  | some b =>
    match b.slots.findIdx? (·.mark == .filling), b.reqs with
    | some i, _ =>
      match b.slots[i]? with
      | none => .next s
      | some x =>
        if x.fromWeight then
          .next (s.put { b.dropAhead (0, 0) with slots := b.slots.set i (s.weightSlot x.addr x.scaleAddr x.fmt x.bsc (b.heldRows (0, 0))) })
        else match s.spSlot b (0, 0) x.addr x.scaleAddr x.fmt x.bsc with
          | .slot y _ => .next (s.put { b with slots := b.slots.set i y, mS := { b.mS with scrub := none } })
          | .stall t p => .next (s.mStall b t p)
    | none, q :: qs =>
      if !q.filling then .next s
      else
        let (a, sa) := q.at q.filled
        if q.fromWeight then .next (s.fillEnd b q qs (s.weightSlot a sa q.fmt q.bsc (b.heldRows (q.id, q.filled))) none)
        else match q.pre.find? q.filled with
          | some x => .next (s.fillEnd b q qs x none)
          | none =>
            if s.mOrder b q.id then .next s
            else match s.spSlot b (q.id, q.filled) a sa q.fmt q.bsc with
              | .slot x w => .next (s.fillEnd b q qs x w)
              | .stall t p => .next (s.mStall b t p)
    | none, [] => .next s
/-- A fill that has stalled on a refusing target for 1 ms ends: the k-step that consumes its slot raises BANKSCRUB, and the slot is then
filled afresh (R239, R258, R356; assumption 109). None when no fill is stalled on the target. -/
def State.fillScrub (s : State) (b : Bank) (st : Stall) : Option State :=
  let hit (a : Word) (sa : Option Word) (f : Fmt) : Bool :=
    match s.spSlot b (0, 0) a sa f 0 with | .stall t _ => t == st.target | _ => false
  match b.slots.findIdx? (·.mark == .filling), b.reqs with
  | some i, _ =>
    (b.slots[i]?).bind fun x =>
      if !x.fromWeight && hit x.addr x.scaleAddr x.fmt then
        some (s.put { b with slots := b.slots.set i { x with mark := .scrub st.addr }, mS := { b.mS with scrub := none } })
      else none
  | none, q :: qs =>
    let (a, sa) := q.at q.filled
    if q.filling && !q.fromWeight && (q.pre.find? q.filled).isNone && hit a sa q.fmt then
      some (s.fillEnd b q qs ⟨false, a, sa, q.fmt, q.bsc, 0, 0, .scrub st.addr⟩ none)
    else none
  | none, [] => none

/-- Blocks of scratchpad loads before place `id` of the M stream's order are read before a later scratchpad access of the stream: at their
fills while a slot is free for the next of them (R239), and the rest here, since their slots may become free only behind that access
(R146, R227, R230, R235; assumption 48). None while one of them cannot be read yet. -/
def State.readAhead (s : State) (b : Bank) (id : Nat) : Option (State × Bank) :=
  let one (acc : Option (State × LoadReq)) (i : Nat) : Option (State × LoadReq) :=
    acc.bind fun (s, q) =>
      if q.fromWeight || id ≤ q.id || (q.pre.find? i).isSome then some (s, q)
      else if s.mOrder b q.id then none
      else
        let (a, sa) := q.at i
        match s.spSlot b (q.id, i) a sa q.fmt q.bsc with
        | .slot x w => some (if q.warned then s else s.warn b w, { q with pre := q.pre.put i x, warned := q.warned || w.isSome })
        | .stall _ _ => none
  let go (acc : Option (State × List LoadReq)) (q : LoadReq) : Option (State × List LoadReq) :=
    acc.bind fun (s, l) =>
      ((List.range (q.k - q.filled)).foldl (fun x i => one x (q.filled + i)) (some (s, q))).map fun (s, q) => (s, l ++ [q])
  let next := b.slots.length < 4 && b.frozen.isNone && b.reqs.any fun q =>
    !q.fromWeight && q.id < id && (List.range (q.k - q.filled)).any fun i => (q.pre.find? (q.filled + i)).isNone
  if next then none else (b.reqs.foldl go (some (s, []))).map fun (s, l) => (s.put { b with reqs := l }, { b with reqs := l })
/-- Bytes of one input vector (R267). -/
def vecBytes (width : Nat) (f : Fmt) : Nat := (width + 63) / 64 * f.rowBytes
/-- The scratchpad bytes that an operand of the M stream reads: of a block of the oldest request, of a k-step of a product, of an
MLDZ, or of the rule of an STEVAL that has started. -/
def Bank.operands (b : Bank) (id step : Nat) : List (Nat × Nat) :=
  let req := match b.reqs with
    | q :: _ =>
      if q.id == id && q.filled == step && q.filling && !q.fromWeight && (q.pre.find? step).isNone then
        ((q.at step).1.toNat, q.fmt.blockBytes) :: (match (q.at step).2 with | some x => [(x.toNat, 128)] | none => [])
      else []
    | [] => []
  let prod := (b.prods.filter fun p => p.id == id && p.started.testBit step && !p.applied.testBit step).flatMap fun p =>
    match fmtWord p.fw with
    | none => []
    | some w =>
      (match p.src with
        | .sp a => if p.op == .load then [(a.toNat, 16384)] else [(a.toNat + step * w.af.blockBytes, w.af.blockBytes)]
        | _ => [])
        ++ (match p.scaleAddr with | some x => [(x.toNat + 128 * step, 128)] | none => [])
        ++ ((p.ptrs.getD []).filter fun x => !x.getLsbD 63).map fun x => (x.toNat + step * w.bf.blockBytes, w.bf.blockBytes)
  let rule := match b.stitch.eval, b.stitch.batch, b.stitch.header with
    | some ev, some x, some h => if id = 0 ∧ step = 1 ∧ ev.paid then [(x.base.toNat, x.b * vecBytes h.width x.fmt)] else []
    | _, _, _ => []
  req ++ prod ++ rule
/-- One aligned 8-byte part of such an operand is read before the rest of it, when nothing of the stream orders it behind (R192, R230). -/
def State.mPart (s : State) (core seat id step addr : Nat) : State :=
  match s.bank core seat with
  | none => s
  | some b =>
    let a := addr / 8 * 8
    let c := s.core core
    let fine := !b.stopped && b.frozen.isNone && !c.scrubbing.getLsbD (a / 4096) && (firstPart c.poison true a 8).isNone
      && (firstPart c.valid false a 8).isNone
    let place := if id = 0 ∧ step = 1 then s.nextId else id
    let ready := !s.mPending b.job place
      && !b.reqs.any (fun r => r.id < place && !r.fromWeight && (List.range (r.k - r.filled)).any fun i => (r.pre.find? (r.filled + i)).isNone)
      && !b.prods.any (fun p => p.id < place && !p.allApplied && (p.readsSp || p.op == .store) && (p.seam == 0 || !b.prods.any fun q => q.id == id && q.seam == p.seam))
    if fine && ready && (b.operands id step).any (fun x => x.1 ≤ a && a + 8 ≤ x.1 + x.2)
        && !(b.ahead (id, step)).any (·.addr == a) then
      s.setBank core seat { b with mbuf := b.mbuf ++ [⟨id, step, a, s.readLoc (.sp core a) 8⟩] }
    else s

/-- A row of the segment is read before the rest of the rule in progress: the rows that one STEVAL reads may come from different versions
(R269). -/
def State.ruleRow (s : State) (core seat row : Nat) : State :=
  match s.bank core seat with
  | none => s
  | some b =>
    match b.stitch.eval, b.stitch.header with
    | some ev, some h =>
      let lo := fld h.addr.toNat 0 27
      if ev.paid && fld h.addr.toNat 27 11 == core && lo ≤ 64 * row && 64 * row < lo + h.seglen && !s.rowBad core row
          && ((b.heldRows (0, 2)).find? row).isNone then
        match s.rowPlain core row with
        | some v => s.setBank core seat { b with mbuf := b.mbuf ++ [⟨0, 2, row, leBytes v.toNat 64⟩] }
        | none => s
      else s
    | _, _ => s

/-! ## The elastic queue at the A port (R250, R290, R292) -/

/-- Byte i of a queue entry. -/
def QEntry.byte (x : QEntry) (i : Nat) : Nat := if i < 256 then (x.data.toNat >>> (8 * i)) % 256 else 0
/-- Payload bytes of a block header, none for an illegal one (R290). -/
def payload : Nat → Option Nat | 0 => some 64 | 1 => some 0 | 2 => some 0 | 3 => some 8 | 4 => some 32 | _ => none
/-- A block header and what it expands to, given its payload bytes and the block before (R290); none for a repeat without one. -/
def expandBlock (h : Nat) (p : List Byte) (prev : Option (List Byte)) : Option (List Byte) :=
  match h with
  | 0 => some p
  | 1 => some (List.replicate 64 0)
  | 2 => prev
  | 3 => some ((List.replicate 8 p).flatten)
  | _ =>
    let v := leNat p
    some ((List.range 64).map fun j =>
      let c : Nat := v / 16 ^ j % 16
      BitVec.ofInt 8 (if c < 8 then (c : Int) else (c : Int) - 16))
/-- Where block i of a frame begins; none when a header before it is illegal. -/
def frameAt (x : QEntry) : Nat → Option Nat
  | 0 => some 1
  | i + 1 => (frameAt x i).bind fun o => (payload (x.byte o)).map (o + 1 + ·)
/-- One action of the expander on the queue's head: an entry more, nothing to do, or an illegal header. -/
inductive Expand where | moved (b : Bank) | none | bad (h : Nat)
def Bank.elastic (b : Bank) (i : Fin 2) : Elastic := if i = 0 then b.elastic0 else b.elastic1
def Bank.setElastic (b : Bank) (i : Fin 2) (x : Elastic) : Bank := if i = 0 then { b with elastic0 := x } else { b with elastic1 := x }
/-- Expands the next block of the marked frame at the head of am0 or am1. -/
def Bank.expand (b : Bank) (i : Fin 2) : Expand :=
  let el := b.elastic i
  match b.queue (.am i) with
  | [] => .none
  | x :: xs =>
    if !x.frame || el.entries.length ≥ 32 then .none
    else if x.poison then .moved ((b.popTo (.am i) xs).setElastic i { el with entries := el.entries ++ [{ x with frame := false }], pos := 0 })
    else if el.pos ≥ x.byte 0 then .moved ((b.popTo (.am i) xs).setElastic i { el with pos := 0 })
    else match frameAt x el.pos with
      | none => .none
      | some o =>
        match payload (x.byte o) with
        | none => .bad (x.byte o)
        | some n =>
          match expandBlock (x.byte o) ((List.range n).map fun j => BitVec.ofNat 8 (x.byte (o + 1 + j))) el.prev with
          | none => .bad 2
          | some blk =>
            let part := el.part ++ blk
            if part.length ≥ 256 then
              .moved (b.setElastic i { el with entries := el.entries ++ [{ data := BitVec.ofNat 2048 (leNat (part.take 256)) }]
                                               part := part.drop 256, prev := some blk, pos := el.pos + 1 })
            else .moved (b.setElastic i { el with part := part, prev := some blk, pos := el.pos + 1 })
/-- The staged entries of am0 or am1. -/
def Bank.staged (b : Bank) (i : Fin 2) : List QEntry := if i = 0 then b.staging else b.staging1
def Bank.setStaged (b : Bank) (i : Fin 2) (l : List QEntry) : Bank := if i = 0 then { b with staging := l } else { b with staging1 := l }
/-- A k-step that waits for entries of am0 or am1 waits for data of the elastic queue: its head is marked, or a run of frames is under
way, as it is after the last whole entry of the frames so far (R250). -/
def Bank.elasticWait (b : Bank) (i : Fin 2) : Bool :=
  (match b.queue (.am i) with | x :: _ => x.frame | [] => false) || !(b.elastic i).part.isEmpty || (b.elastic i).pos != 0
    || (b.elastic i).prev.isSome
/-- Takes entries of am0 or am1 into the staging buffer until it holds n (R240), with at most `fuel` actions. The second component is
an illegal header met at the head. An unmarked entry ends a run of frames. -/
def Bank.stage (i : Fin 2) (n : Nat) : (fuel : Nat) → Bank → Bank × Option Nat
  | 0, b => (b, none)
  | fuel + 1, b =>
    let el := b.elastic i
    if (b.staged i).length ≥ n then (b, none)
    else match el.entries with
      | x :: xs => Bank.stage i n fuel ((b.setStaged i (b.staged i ++ [x])).setElastic i { el with entries := xs })
      | [] =>
        match b.queue (.am i) with
        | [] => (b, none)
        | x :: xs =>
          if x.frame then
            match b.expand i with
            | .moved b => Bank.stage i n fuel b
            | .none => (b, none)
            | .bad h => (b, some h)
          else
            Bank.stage i n fuel (((b.setStaged i (b.staged i ++ [x])).popTo (.am i) xs).setElastic i
              { el with part := [], prev := none, pos := 0 })

/-! ## Products: issue (R240, R241) -/

/-- The pointers of MMAG as read at first issue: none yet, a trap, or the table. -/
inductive Ptrs where | wait | stall (target addr : Nat) | trap (t : Trap) | ok (s : State) (b : Bank) (l : List Word) (warn : Option Nat)
def State.pointers (s : State) (b : Bank) (tab : Word) (n : Nat) : Ptrs :=
  match s.mCheck b tab 64 64 with
  | some t => .trap t
  | none =>
    -- behind the stream's earlier scratchpad accesses, but for the A reads of its own seam (R230)
    if s.mPending b.job s.nextId || b.prods.any (fun p => !p.allApplied && (b.seamNo == 0 || p.seam != b.seamNo)) then .wait
    else match s.readAhead b s.nextId with
    | none => .wait
    | some (s, b) =>
      match s.mRead b (0, 0) tab.toNat 64 with
      | .stall t x => .stall t x
      | .bad c a => .trap (mkTrap c (BitVec.ofNat 64 a))
      | .data v w =>
        let l := (List.range 8).map fun g => BitVec.ofNat 64 (v / 2 ^ (64 * g))
        let bad (p : Word) : Option Trap :=
          if fld p.toNat 19 44 ≠ 0 then some (mkTrap .illegal p)
          else if p.getLsbD 63 then none
          else (s.mCheck b p n 64).map fun t => { t with addr := p }
        match l.findSome? bad with
        | some t => .trap t
        | none => .ok s b l w

/-- The queue of a product's A operand, checked before the pop (R32, R115, R240, R348). -/
def aQueueTrap (b : Bank) (a : AOp) : Option Trap :=
  match a with
  | .h _ => none
  | .q (.am i) => (b.queueTrap .m (.am i) false)
  | .q q => some (mkTrap .qmisuse (BitVec.ofNat 64 q.code))

/-- The product at the stream's position, while its last k-step has not started: TRAPC of its traps. -/
def Bank.current (b : Bank) : Option Product := b.prods.find? (!·.passed)
/-- The stream issues past its product; one that is done is gone. -/
def Bank.passCurrent (b : Bank) : Bank :=
  { b with prods := (b.prods.map fun p => { p with passed := true }).filter (!·.allApplied) }

/-- MMA and MMAG. The product joins the array's work; the stream goes on when its last k-step has started, or at once in a seam that
may be relocatable. -/
def product (gather : Bool) (z : Fin 4) (a : AOp) (tab : Fin 16) (k : Fin 64) (r : Bool) (s : State) :
    Host.Outcome State Fault Refusal :=
  tileInst r (fun s b =>
    if r && (match a with | .q _ => true | .h _ => false) then some (.trap (mkTrap .illegal) s)
    else match b.current with
    | some p => some (if p.allStarted then .ok (s.put b.passCurrent) .passed true else .wait)
    | none => (aQueueTrap b a).map fun t => .trap t s) (fun w f s b =>
    let n := k.val * f.af.blockBytes
    let tabV := b.getH tab
    let aTrap := match a with | .h h => s.mCheck b (b.getH h) n 64 | .q _ => none
    let sTrap := if !gather && f.af.isBlock then s.mCheck b tabV (128 * k.val) 2 else none
    if !gather && !f.af.isBlock && tab != 0 then wordTrap s b w
    else if gather && (f.af.isBlock || f.bf.isBlock) then .trap (mkTrap .illegal w) s
    else match aTrap, sTrap with
    | some t, _ | none, some t => .trap t s
    | none, none =>
      let add (s : State) (b : Bank) (ptrs : Option (List Word)) (warn : Option Nat) : Res State :=
        let src := match a with | .h h => ASrc.sp (b.getH h) | .q (.am i) => .queue i | .q _ => .queue 0
        let b := (b.noteTile r (some z) true).noWord
        let early := r && b.seam.any fun x => x.fits && x.count == x.issued + 1
        let p : Product := { id := s.nextId, op := if gather then .mmag else .mma, pc := b.mS.pc, z := z, src := src,
                             scaleAddr := if !gather && f.af.isBlock then some tabV else none, k := k.val, fw := w, ptrs := ptrs,
                             passed := early, seam := b.seamNo, clr := s.cur.ann.wait.isClr, warned := warn.isSome,
                             sig := s.cur.ann.late }
        let s := { s.warn b warn with nextId := s.nextId + 1 }
        let b := { b with prods := b.prods ++ [p] }
        if early then .ok (s.put b) .next true else .begun (s.put (s.issueSignal b))
      if gather then
        match s.pointers b tabV (k.val * f.bf.blockBytes) with
        | .wait => .wait
        | .stall t x => s.stallOn s.cur.core s.cur.seat b .m t (BitVec.ofNat 64 x)
        | .trap t => .trap t s
        | .ok s b l warn => add s b (some l) warn
      else if b.promised < k.val then .trap (mkTrap .illegal (BitVec.ofNat 64 b.promised)) s
      else add s b none none) s
def execMma (z : Fin 4) (a : AOp) (tab : Fin 16) (k : Fin 64) (r : Bool) (s : State) := product false z a tab k r s
def execMmag (z : Fin 4) (a : AOp) (tab : Fin 16) (k : Fin 64) (r : Bool) (s : State) := product true z a tab k r s

/-! ## Tile instructions (R242 to R245) -/

/-- The writes of rows of output: parts of 8 bytes in address order (R243, R276). -/
def State.postRows (s : State) (b : Bank) (id : Nat) (rows : List (Nat × List Byte)) (sig : Option (Fin 64)) : State :=
  let core := s.cur.core
  let elems := rows.flatMap fun (addr, bytes) => (List.range ((bytes.length + 7) / 8)).map fun i =>
    let part := (bytes.drop (8 * i)).take 8
    (⟨.sp core (addr + 8 * i), part.length, .sp, true, part, false, false, false, 0⟩ : Elem)
  let a : Access := { id := id, job := b.job, core := core, seat := s.cur.seat, eng := .m, vf := b.vf, part := b.part,
                      kind := .tile, elems := elems, sig := sig }
  { s with acc := s.acc ++ [a] }
/-- The writes of a tile's output. -/
def State.postTile (s : State) (b : Bank) (id addr : Nat) (bytes : List Byte) (sig : Option (Fin 64)) : State :=
  s.postRows b id [(addr, bytes)] sig
/-- The bytes MSTZ writes (R74, R243). -/
def Bank.tileBytes (b : Bank) (z : Fin 4) (w : FmtWord) : List Byte :=
  (List.range 64).flatMap fun i => packCodes w.out.width ((List.range 64).map fun n => b.outCode z w i n)

/-- A deferred MZERO or MSTZ of a seam that may be relocatable. -/
def Bank.deferOp (b : Bank) (op : TileOp) (id : Nat) (z : Fin 4) (addr fw : Word) (clr : Bool) (sig : Option (Fin 64)) : Bank :=
  { b with prods := b.prods ++ [{ id := id, op := op, pc := b.mS.pc, z := z, src := .sp addr, scaleAddr := none, k := 1, fw := fw,
                                  passed := true, seam := b.seamNo, clr := clr, sig := sig }] }

/-- MZERO. -/
def execMzero (z : Fin 4) (s : State) : Host.Outcome State Fault Refusal :=
  issue { seamOk := true } (fun s b =>
    if b.fitting then
      .ok ({ s with nextId := s.nextId + 1 }.put
        ((b.noteZero z).deferOp .zero s.nextId z 0 0 s.cur.ann.wait.isClr s.cur.ann.late)) .next true
    else if b.tileBusy z || b.deferred then .wait
    else payThen 1 s b fun s => .ok (s.put ((b.noteZero z).setTile z false 0)) .next false) s

/-- MSTZ. -/
def execMstz (z : Fin 4) (a : Fin 16) (r : Bool) (s : State) : Host.Outcome State Fault Refusal :=
  tileInst r (fun _ b => if !(r && b.fitting) && (b.tileBusy z || b.deferred) then some .wait else none) (fun w f s b =>
    let addr := b.getH a
    let n := f.out.blockBytes
    match s.mCheck b addr n 64 with
    | some t => .trap t s
    | none =>
      if r && b.fitting then
        let b := (b.noteTile r (some z) false).noWord
        if b.seam.any (·.fits) then
          .ok ({ s with nextId := s.nextId + 1 }.put (b.deferOp .store s.nextId z addr w s.cur.ann.wait.isClr s.cur.ann.late)) .next true
        else .hold (s.put { b with minst := some { fw := w }, seam := b.seam.map fun x => { x with count := x.count - 1 } })
      else if !s.requestFree s.cur.core then .wait
      else payThen 2 s b fun s =>
        match s.readAhead b s.nextId with
        | none => .wait
        | some (s, b) =>
          let s := s.postTile b s.nextId addr.toNat (b.tileBytes z f) s.cur.ann.late
          .ok ({ s with nextId := s.nextId + 1 }.put (b.noteTile r (some z) false).noWord) .next true) s

/-- MSTQ: the OUT check after the pop; then 64 pushes into mv0, each a release at seat scope. -/
def execMstq (z : Fin 4) (s : State) : Host.Outcome State Fault Refusal :=
  tileInst false (fun s b =>
    match b.queueTrap .m .mv0 true with
    | some t => some (.trap t s)
    | none => if b.tileBusy z then some .wait else none) (fun w f s b =>
    let prog := (b.minst.map (·.prog)).getD 0
    let paid := b.minst.any (·.paid)
    if f.out != .fp32 && f.out != .i32 then wordTrap s b w
    else if prog ≥ 64 then .ok (s.put b.noWord) .passed false
    else if !paid then
      payThen 2 s b fun s => .begun (s.put (s.issueSignal { b with minst := some { fw := w, prog := prog, paid := true } }))
    else if b.full .mv0 || !s.releaseReady b.job .m .seat then .wait
    else
      let row := (List.range 64).foldr (fun n acc => acc * 2 ^ 32 + b.outCode z f prog n) 0
      let b := b.push .mv0 { data := BitVec.ofNat 2048 row }
      if prog = 63 then .ok (s.put b.noWord) .passed false
      else .hold (s.put { b with minst := some { fw := w, prog := prog + 1, paid := true } })) s

/-- MLDZ: 16 KiB replace the tile. It issues with its reads requested (R227): they come after the stream's earlier scratchpad accesses
(R146, R230), part by part in any order (R192), and KSTEP_APPLY ends them. -/
def execMldz (z : Fin 4) (a : Fin 16) (s : State) : Host.Outcome State Fault Refusal :=
  tileInst false (fun _ b => if b.tileBusy z then some .wait else none) (fun w _ s b =>
    let addr := b.getH a
    match s.mCheck b addr 16384 64 with
    | some t => .trap t s
    | none =>
      payThen 2 s b fun s =>
        let p : Product := { id := s.nextId, op := .load, pc := b.mS.pc, z := z, src := .sp addr, scaleAddr := none, k := 1, fw := w,
                             started := 1, passed := true, seam := b.seamNo, clr := s.cur.ann.wait.isClr, sig := s.cur.ann.late }
        .ok ({ s with nextId := s.nextId + 1 }.put { b.noWord with prods := b.prods ++ [p] }) .next true) s

/-! ## Seams (R246, R249) -/

def execSeamb (s : State) : Host.Outcome State Fault Refusal :=
  issue {} (fun s b =>
    if b.seam.isSome then .trap (mkTrap .seam) s
    else .ok ({ s with nextId := s.nextId + 1 }.put
      { b with seam := some { id := s.nextId, pc := b.mS.pc, home := b.seamHome }, seamHome := false }) .next false) s

/-- The tiles a performed relocatable seam used are cleared (R249 step 5). -/
def Bank.clearUsed (b : Bank) (used : BitVec 4) : Bank :=
  [0, 1, 2, 3].foldl (fun b (i : Fin 4) => if used.getLsbD i then b.setTile i false 0 else b) b

def execSeame (s : State) : Host.Outcome State Fault Refusal :=
  issue { seamOk := true } (fun s b =>
    match b.seam with
    | none => .trap (mkTrap .seam) s
    | some x =>
      if x.closing then
        if b.prods.isEmpty && !(s.acc.any fun a => a.job == b.job && a.eng == .m && a.kind == .tile) then
          .ok (s.put { b.clearUsed x.used with seam := none }) .passed false
        else .wait
      else if b.fitting then .begun (s.put { s.issueSignal b with seam := some { x with closing := true } })
      else .ok (s.put { b with seam := none }) .next false) s

/-- The M engine of a core has no ready work in any of its seats, and performs no other core's seam (R249): the seat has no k-steps, loads,
prefetches or rule evaluation, and its stream is at no word that it may run (assumption 51). -/
def State.mIdle (s : State) (core : Nat) : Bool :=
  ([0, 1, 2, 3].all fun i => match s.bank core i with
    | some o => o.prods.isEmpty && o.reqs.isEmpty && o.mwpf.isEmpty && o.minst.isNone && o.stitch.eval.isNone
        && (!o.mayRun .m || o.mS.scrub.isSome)
    | none => true)
  && !(s.liveBanks.any fun (_, _, o) => o.seam.any (·.performer == some core))
/-- SEAM_RELOCATE (`ev.core`, `ev.seat`: the owner; `ev.idx`: the performing core): a seam at SEAME of which nothing has started moves
to another core of the cluster whose M engine has no ready work, but not again once a fault or a swap has ended its relocation. -/
def execSeamRelocate (s : State) : Host.Outcome State Fault Refusal :=
  let core := s.cur.core
  let other := s.cur.ev.idx
  match s.eventBank with
  | none => .next s
  | some b =>
    match b.seam with
    | none => .next s
    | some x =>
      let untouched := b.prods.all (fun p => p.seam == x.id && p.started == 0)
        && b.reqs.all (fun q => q.id > x.id && q.filled == 0 && !q.filling)
      if x.closing && !x.home && x.performer.isNone && other != core && clusterOf other == clusterOf core && s.mIdle other && untouched && !b.mS.trapped then
        .next (s.put { b with seam := some { x with performer := some other, snap := some ⟨b.slots, [], b.z, b.zk⟩ } })
      else .next s

/-! ## k-steps: events (R240, R247, R258) -/

/-- Whether entry p of the array's work (with the entries before it) may have its k-step i started or applied: in program order, but
in any order on products of one seam (R73, R247), and the reads of an MLDZ need not come after work on another tile that uses no
scratchpad (R230). -/
def mayStep (before : List Product) (p : Product) (i : Nat) : Bool :=
  let isProd (p : Product) : Bool := p.op == .mma || p.op == .mmag
  before.all (fun q =>
    q.allApplied || (p.op == .load && q.z != p.z && !q.readsSp && q.op != .store) || (p.seam != 0 && q.seam == p.seam && q.op != .store && q.op != .load
      && (q.z != p.z || (isProd q && isProd p))))
    && (i == 0 || (List.range i).all p.applied.testBit || p.seam != 0)
/-- The stationary slot of k-step i: the k-steps of MMAs before it in program order that are not yet applied hold the earlier ones. -/
def slotIndex (before : List Product) (p : Product) (i : Nat) : Nat :=
  (before.filter (·.op == .mma)).foldl (fun n q => n + (q.k - q.done)) 0
    + ((List.range i).filter fun j => !p.applied.testBit j).length

/-- The entries of an A block from a queue (R240). -/
def Product.entries (p : Product) : Nat := ((fmtWord p.fw).map fun w => w.af.blockBytes / 256).getD 0
/-- The staged entries of a queue that stand before those of k-step i: its earlier k-steps in program order that are not yet applied
hold them (R240, R247). -/
def stageIndex (before : List Product) (p : Product) (i : Nat) : Nat :=
  (before.filter (·.src == p.src)).foldl (fun n q => n + (q.k - q.done) * q.entries) 0
    + ((List.range i).filter fun j => !p.applied.testBit j).length * p.entries

/-- The pair of formats a k-step uses is illegal (R70, R240). -/
def pairBad (w : FmtWord) (x : Slot) : Bool := w.i32 && !(w.af.isAccInt && x.fmt.isAccInt && w.asc == 0 && x.bsc == 0)
/-- The trap of a k-step that its slot causes. -/
def slotTrap (p : Product) (w : FmtWord) (x : Slot) : Option (Cause × Word) :=
  match x.mark with
  | .invalid a => some (.spuninit, BitVec.ofNat 64 a)
  | .poison a => some (.uncorr, BitVec.ofNat 64 a)
  | .unfillable a => some (.illegal, a)
  | .scrub a => some (.bankscrub, a)
  | _ => if pairBad w x then some (.illegal, p.fw) else none

/-- Replaces an entry of the array's work. -/
def Bank.setProd (b : Bank) (p : Product) : Bank := { b with prods := b.prods.map fun q => if q.id = p.id then p else q }
/-- A k-step traps: precisely at its instruction, with PROG = the k-steps applied; a relocation ends (R249, R258). -/
def State.raiseProduct (s : State) (b : Bank) (p : Product) (c : Cause) (addr : Word) : State :=
  let b := { b.setProd { p with trapped := true, started := p.applied } with mbuf := b.mbuf.filter (·.id != p.id) }
  let b := { b with seam := b.seam.map fun x => { x with performer := none, snap := none, home := x.home || x.performer.isSome }, mS := { b.mS with scrub := none } }
  let r := { b.trapRec .m (mkTrap c addr) false with pc := p.pc, npc := p.pc, prog := p.done, wd := p.clr }
  (s.dropTokWait b.job (· == 1)).raise s.cur.core s.cur.seat b .m r

/-- KSTEP_START (`ev.core`, `ev.seat`): the first k-step in program order that has not started starts: its slot is filled, its tokens
are spent. -/
def execKstepStart (s : State) : Host.Outcome State Fault Refusal :=
  let core := s.cur.core
  match s.eventBank with
  | none => .next s
  | some b =>
    let before := b.prods.takeWhile (·.allStarted)
    match b.prods.find? (!·.allStarted) with
    | none => .next s
    | some p =>
      let i := ((List.range p.k).find? fun j => !p.started.testBit j).getD 0
      if !b.mRuns || !mayStep before p i then .next s
      else
        let start (cost : Nat) : Host.Outcome State Fault Refusal :=
          match s.spend (b.column core) ⟨core, b.job, 1⟩ cost with
          | .paid s => .next (s.put (b.setProd { p with started := p.started ||| 2 ^ i }))
          | .queued s => .next s
          | .wait => .next s
        match p.op, fmtWord p.fw with
        | .zero, _ => start 1
        | .store, _ | .load, _ => start 2
        | .mmag, some w => start (kstepTokens w.af w.bf)
        | .mma, some w =>
          match b.slots[slotIndex before p i]? with
          | none => .next s
          | some x =>
            if x.mark == .refill || x.mark == .filling then .next s
            else match slotTrap p w x with
              | some (c, a) =>
                -- a slot whose fill met a refusing target is filled afresh for the repeated k-step (R356)
                let j := slotIndex before p i
                let b := { b with slots := b.slots.modify j fun x => match x.mark with | .scrub _ => { x with mark := .refill } | _ => x }
                .next (s.raiseProduct b p c a)
              | none => start (kstepTokens w.af x.fmt)
        | _, none => .next s

/-- The A block of a k-step, or why it is not there. -/
inductive ARead where | data (b : Bank) (blk : Nat) (warn : Option Nat) | wait (b : Bank) (bubble : Bool) | bad (b : Bank) (c : Cause) (a : Word)
  | stall (target addr : Nat)
/-- `at_`: the staged entries of the queue before those of the k-step. The staging buffer holds 64 entries (R226). -/
def State.readA (s : State) (b : Bank) (p : Product) (w : FmtWord) (i at_ : Nat) : ARead :=
  let bb := w.af.blockBytes
  match p.src with
  | .sp a =>
    match s.mRead b (p.id, i) (a.toNat + i * bb) bb with
    | .data v x => .data b v x
    | .bad c x => .bad b c (BitVec.ofNat 64 x)
    | .stall t x => .stall t x
  | .queue q =>
    let n := bb / 256
    if !s.acquireAt b.job .m p.id ∨ 64 < at_ + n + (b.staged (if q = 0 then 1 else 0)).length then .wait b false
    else match Bank.stage q (at_ + n) 1000 b with
    | (b, bad) =>
      let mine := ((b.staged q).drop at_).take n
      if mine.length ≥ n then
        if mine.any (·.poison) then .bad b .uncorr (BitVec.ofNat 64 (Queue.am q).code)
        else .data b (mine.foldr (fun e acc => acc * 2 ^ 2048 + e.data.toNat) 0) none
      else match bad with
        | some h => if at_ ≤ (b.staged q).length then .bad b .illegal (BitVec.ofNat 64 h) else .wait b false
        | none => .wait b (b.elasticWait q)
/-- The B blocks of an MMAG k-step by row group. -/
def State.readB (s : State) (b : Bank) (id : Nat) (w : FmtWord) (i : Nat) : List Word → Except SpRead (List (Option BBlock) × Option Nat)
  | [] => .ok ([], none)
  | p :: ps =>
    if p.getLsbD 63 then (s.readB b id w i ps).map fun (l, x) => (none :: l, x)
    else match s.mRead b (id, i) (p.toNat + i * w.bf.blockBytes) w.bf.blockBytes with
      | .data v x => (s.readB b id w i ps).map fun (l, y) => (some ⟨w.bf, w.bsc, v, 0⟩ :: l, match x with | some a => some a | none => y)
      | r => .error r

/-- A k-step is applied: its bit, its slot or staged entries, its signal after the last one. -/
def State.applied (s : State) (b : Bank) (p : Product) (i : Nat) : State :=
  let p := { p with applied := p.applied ||| 2 ^ i, started := p.started ||| 2 ^ i }
  let b := (b.setProd p).dropAhead (p.id, i)
  let b := if p.allApplied && p.passed then { b with prods := b.prods.filter (·.id != p.id) } else b
  let b := { b with mS := { b.mS with scrub := none } }
  let s := s.put b
  if p.allApplied && p.op != .store then s.mSignal b p.id p.sig else s

/-- The tile is written: it is poisoned no more (R326). -/
def Bank.cleanTile (b : Bank) (z : Fin 4) : Bank := { b with bad := b.bad.filter (· != .tile z) }
/-- Work in flight that a SWAPB lets end (R259): an MLDZ's reads, and a started k-step whose reads stand before the writes of an MSTZ that
has issued. -/
def State.beforeSwap (s : State) (b : Bank) (p : Product) : Bool :=
  p.op == .load || (p.readsSp
    && s.acc.any fun a => a.job == b.job && a.eng == .m && a.kind == .tile && p.id < a.id)
/-- The work in flight that a SWAPB abandons (R259): what does not end before the exchange, and what waits for such work, an MLDZ
behind a product of the queue among them (assumption 135). -/
def State.swapStuck (s : State) (b : Bank) : List Product :=
  b.prods.foldl (fun l p =>
    if p.allApplied || (b.mS.started && !b.stopped && !b.prods.any (·.trapped) && p.allStarted && s.beforeSwap b p
        && l.all fun q => p.op == .load && q.z != p.z && !q.readsSp && q.op != .store) then l
    else l ++ [p]) []
/-- KSTEP_APPLY (`ev.idx`: the entry of the array's work, `ev.quad`: the k-step): a started k-step takes its A block and is applied as
one action; while its entries have not all arrived, those that have are staged, and bubbles are counted while it waits for data of the
elastic queue (R250). Its scratchpad reads come after those of the stream's earlier loads (R230). -/
def execKstepApply (s : State) : Host.Outcome State Fault Refusal :=
  let s := { s with cur := { s.cur with eng := .m } }
  let i := s.cur.ev.quad
  match s.eventBank with
  | none => .next s
  | some b =>
    match b.prods[s.cur.ev.idx]? with
    | none => .next s
    | some p =>
      let before := b.prods.take s.cur.ev.idx
      let runs := if s.beforeSwap b p then { b with frozen := none }.mRuns else b.mRuns
      if !runs || i ≥ p.k || !p.started.testBit i || p.applied.testBit i || !mayStep before p i || s.mPending b.job p.id then .next s
      else if p.op != .zero && p.op != .load && b.bad.contains (.tile p.z) then .next (s.raiseProduct b p .uncorr 0)
      else match p.op, fmtWord p.fw with
      | .zero, _ => .next (s.applied (b.cleanTile p.z |>.setTile p.z false 0) p i)
      | .load, some w =>
        let addr := match p.src with | .sp a => a.toNat | _ => 0
        match s.readAhead b p.id with
        | none => .next s
        | some (s, b) =>
          match s.mRead b (p.id, i) addr 16384 with
          | .stall t a => .next (s.mStall b t a)
          | .bad c a => .next (s.raiseProduct b p c (BitVec.ofNat 64 a))
          | .data v x =>
            let s := if p.warned then s else s.warn b x
            .next (s.applied (b.cleanTile p.z |>.setTile p.z w.i32 (BitVec.ofNat 131072 v)) { p with warned := p.warned || x.isSome } i)
      | .store, some w =>
        let addr := match p.src with | .sp a => a.toNat | _ => 0
        match (if s.requestFree s.cur.core then s.readAhead b p.id else none) with
        | none => .next s
        | some (s, b) => .next ((s.postTile b p.id addr (b.tileBytes p.z w) p.sig).applied b p i)
      | _, none => .next s
      | op, some w =>
        let reads := op == .mmag || p.scaleAddr.isSome || (match p.src with | .sp _ => true | _ => false)
        match (if reads then s.readAhead b p.id else some (s, b)) with
        | none => .next s
        | some (s, b) =>
        let at_ := stageIndex before p i
        match s.readA b p w i at_, (match p.scaleAddr with | some x => s.mRead b (p.id, i) (x.toNat + 128 * i) 128 | none => .data 0 none) with
        | .stall t a, _ | _, .stall t a => .next (s.mStall b t a)
        | .wait b false, _ => .next (s.put b)
        | .wait b true, _ =>
          let (f, s) := s.draw
          .next (s.put { b with bubbles := BitVec.ofNat 32 (Nat.min (b.bubbles.toNat + f) 0xFFFFFFFF) })
        | .bad b c a, _ => .next (s.raiseProduct b p c a)
        | .data b _ _, .bad c a => .next (s.raiseProduct b p c (BitVec.ofNat 64 a))
        | .data b a x, .data sc y =>
          let fin (b : Bank) (bOf : Nat → Option BBlock) (warn : Option Nat) : State :=
            let ws := [x, y, warn].filterMap id
            let s := if p.warned then s else s.warn b ws.head?
            let p := { p with warned := p.warned || !ws.isEmpty }
            let ibc := blockIbc w.af a || (List.range 8).any fun g => (bOf (8 * g)).any fun q => blockIbc q.fmt q.blk
            let t := kstepTile w b.z[p.z] a sc bOf
            let b := match p.src with
              | .queue q => b.setStaged q ((b.staged q).take at_ ++ (b.staged q).drop (at_ + w.af.blockBytes / 256))
              | _ => b
            let b := { b.setTile p.z w.i32 t with ibc := b.ibc || ibc }
            s.applied b p i
          match op, p.ptrs with
          | .mmag, some l =>
            match s.readB b p.id w i l with
            | .error (.stall t a) => .next (s.mStall b t a)
            | .error (.bad c a) => .next (s.raiseProduct b p c (BitVec.ofNat 64 a))
            | .error _ => .next s
            | .ok (bs, warn) => .next (fin b (fun r => (bs[r / 8]?).getD none) warn)
          | _, _ =>
            let k := slotIndex before p i
            match b.slots[k]? with
            | none => .next s
            | some q =>
              if q.mark != .ok then .next s
              else .next (fin { b with slots := b.slots.eraseIdx k } (fun _ => some ⟨q.fmt, q.bsc, q.data.toNat, q.scales.toNat⟩) none)

/-! ## Registers, loops, MTOK (R256, R257) -/

def execMtok (d : Fin 16) (s : State) : Host.Outcome State Fault Refusal :=
  issue {} (fun s b => .ok (s.put (b.setH d (BitVec.ofNat 64 (s.core s.cur.core).tokens))) .next false) s
def execMldi (d : Fin 16) (imm : BitVec 32) (s : State) : Host.Outcome State Fault Refusal :=
  issueR {} (fun b => b.setH d (imm.signExtend 64)) s
def execMaddi (d a : Fin 16) (imm : BitVec 32) (s : State) : Host.Outcome State Fault Refusal :=
  issueR {} (fun b => b.setH d (b.getH a + imm.signExtend 64)) s
def execMloop (a : Fin 16) (disp : BitVec 32) (s : State) :=
  hopThen .m (fun b => (b.setH a (countDown (b.getH a)), countDown (b.getH a) != 0)) disp.toInt s
def execMbnz (a : Fin 16) (disp : BitVec 32) (s : State) := hopThen .m (fun b => (b, b.getH a != 0)) disp.toInt s

/-! ## Tokens: events (R254, R255, R382) -/

/-- TOKEN_REFILL (`ev.core`). In a thermal shutdown TOKRATE is 0 (R382). -/
def execTokenRefill (s : State) : Host.Outcome State Fault Refusal :=
  let c := s.core s.cur.core
  if s.dev.thermal then .next s
  else .next (s.setCore s.cur.core { c with tokens := Nat.min c.tokmax (c.tokens + c.tokrate) })
/-- TOKRATE_UPDATE (`ev.core`, `ev.val`: the controller's rate): between 100 and 4000, outside a thermal shutdown. -/
def execTokrateUpdate (s : State) : Host.Outcome State Fault Refusal :=
  let c := s.core s.cur.core
  let v := s.cur.ev.val.toNat
  if s.dev.thermal ∨ v < 100 ∨ 4000 < v then .next s else .next (s.setCore s.cur.core { c with tokrate := v })

/-! ## Resume and swap (R258, R259) -/

/-- RTE 3: a product that has trapped continues from PROG, and a stream that has issued past it does not go back; otherwise the
instruction at TRAPC keeps its word. With TRAPNPC elsewhere the product or the word is dropped. `pos`: where the stream stood. -/
def Bank.resumeM (b : Bank) (pos trapc prog : Nat) (same : Bool) : Bank :=
  match b.prods.find? (fun p => p.trapped && p.pc == trapc) with
  | some p =>
    if same then
      let q := if prog = p.done then { p with trapped := false, started := p.applied }
        else { p with trapped := false, applied := 2 ^ Nat.min prog p.k - 1, started := 2 ^ Nat.min prog p.k - 1 }
      let b := b.setProd q
      let b := if q.allApplied && q.passed then { b with prods := b.prods.filter (·.id != q.id) } else b
      { b with mS := { b.mS with pc := if p.passed then pos else trapc, wd := true } }
    else
      { b with prods := b.prods.filter (·.id != p.id), seam := b.seam.map fun x => { x with closing := false } }
  | none =>
    if same then
      { b with minst := b.minst.map fun i => { i with prog := prog }
               mS := { b.mS with wd := b.mS.wd || b.minst.isSome || b.stitch.eval.isSome } }
    else { b.noWord with stitch := { b.stitch with eval := none } }

/-- The M stream's state as it goes out (R249, R259): a relocated seam goes back to its SEAMB, whose wait it makes again
(assumption 126), started k-steps are abandoned, weight slots and weight fills are to be made afresh. -/
def Bank.swapOutM (b : Bank) : Bank :=
  let b := match b.seam with
    | some ⟨id, pc, _, _, _, _, _, _, words, _, some _, some sn, _⟩ =>
      { b.unpop .fq (words.map QEntry.ofWord) with
        seam := none, seamHome := true, slots := sn.slots, reqs := sn.reqs, z := sn.z, zk := sn.zk, minst := none
        prods := b.prods.filter (·.seam != id)
        mS := { b.mS with pc := pc, wd := false, stage := .fresh } }
    | _ => b
  { b with
    mwpf := []
    mbuf := []
    stitch := { b.stitch with eval := b.stitch.eval.map fun x => { x with paid := false } }
    prods := b.prods.map fun p => { p with started := p.applied }
    slots := b.slots.map fun (x : Slot) => if x.fromWeight then { x with data := 0, scales := 0, mark := .refill } else x
    reqs := b.reqs.map fun (q : LoadReq) => if q.fromWeight then { q with filling := false } else q }

end Sys2Proof.Machine
end

