-- ==== Sys2Proof/Machine/Copy.lean ====
section
/-! DEFINITION. The copy engine: the D stream's register instructions, requests and their checks, copies, fills, gathers,
compressed buffers, adapter hints, the block-table store, superstep transfers (spec/12_copy.md R279 to R301). -/
namespace Sys2Proof.Machine

/-! ## Register instructions (R279) -/

def execDldi (d : Fin 16) (imm : BitVec 32) (s : State) : Host.Outcome State Fault Refusal :=
  issueR {} (fun b => b.setD d (imm.signExtend 64)) s
def execDaddi (d a : Fin 16) (imm : BitVec 32) (s : State) : Host.Outcome State Fault Refusal :=
  issueR {} (fun b => b.setD d (b.getD a + imm.signExtend 64)) s
def execDloop (a : Fin 16) (disp : BitVec 32) (s : State) :=
  hopThen .d (fun b => (b.setD a (countDown (b.getD a)), countDown (b.getD a) != 0)) disp.toInt s
def execDbnz (a : Fin 16) (disp : BitVec 32) (s : State) := hopThen .d (fun b => (b, b.getD a != 0)) disp.toInt s

/-! ## The len register (R285, R289, R298) -/

def lenN (w : Word) : Nat := fld w.toNat 0 32
def lenDsp (w : Word) : Nat := fld w.toNat 62 2
def lenSsp (w : Word) : Nat := fld w.toNat 60 2
def lenC (w : Word) : Bool := flag w.toNat 59
/-- DGATH: the row size. -/
def lenRb (w : Word) : Nat := fld w.toNat 32 15
/-- Transfers: peer, role, format, slot. -/
def lenPeer (w : Word) : Nat := fld w.toNat 52 6
def lenRole (w : Word) : Nat := fld w.toNat 50 2
def lenFmt (w : Word) : Nat := fld w.toNat 45 5
def lenSlot (w : Word) : Nat := fld w.toNat 32 13
/-- A block-table key (R294): offset, sequence, layer and block; a slot's number. -/
def keyOfs (w : Word) : Nat := fld w.toNat 48 14
def keySlot (w : Word) : Nat := fld w.toNat 0 48
/-- The formats of DCOLL (R298). -/
def collFmt (n : Nat) : Option Fmt :=
  match fmtOf n with
  | .ok f => if [Fmt.i8, .n8, .i16, .n16, .i32, .e4, .e5, .bf16, .fp16, .fp32, .t8e0, .t8e1, .t8e2, .t16e1, .t16e2].contains f
      then some f else none
  | .error _ => none

/-! ## Issue (R280, R286) -/

/-- The core and offset of a scratchpad (1) or cluster-window (2) address. -/
def spPlace (core space addr : Nat) : Nat × Nat :=
  if space = 2 then (core / 16 * 16 + fld addr 19 4, fld addr 0 19) else (core, addr % 2 ^ 19)
/-- R286 on a range of n bytes in a space: ILLEGAL outside the space, also for an empty range or one whose end is not known yet (assumption 127),
then ownership, then the labels (R347). -/
def State.spanTrap (s : State) (b : Bank) (space : Nat) (addr : Word) (n : Nat) : Option Trap :=
  if space = 0 then none
  else
    let a := addr.toNat
    let (core, off) := spPlace s.cur.core space a
    if fld a (if space = 2 then 23 else 19) 45 ≠ 0 || off + Nat.max n 1 > 0x60000 then some (trapOf .d .illegal addr)
    else if n = 0 then none
    else
      let us := (List.range ((off + n + 4095) / 4096 - off / 4096)).map (off / 4096 + ·)
      let cond (u : Nat) := s.unitCond b (b.level .d) b.dS.mo core (if space = 2 then none else some s.cur.seat) u
      let at_ (u : Nat) : Word := addr + BitVec.ofNat 64 (Nat.max off (4096 * u) - off)
      match us.find? fun u => cond u == .illegal with
      | some u => some (trapOf .d .illegal (at_ u))
      | none => (us.find? fun u => cond u == .gate).map fun u => trapOf .d .gate (at_ u)

/-- The instruction rings and HRINGs of the seats of a core, as base and bytes (R140 step 6). -/
def State.ringsOf (s : State) (core : Nat) : List (Nat × Nat) :=
  [0, 1, 2, 3].flatMap fun i => match s.bank core i with
    | none => []
    | some o => ([o.cring, o.aring, o.vring, o.mring, o.dring, o.hring].filter (·.len != 0)).map fun r => (r.base, 8 * r.len)

/-- What the checks of a request answer: a trap; held for its slot; or fine. -/
inductive ReqCheck where | trap (t : Trap) | held | ok

/-- The registers of a request as read at issue. -/
structure ReqRegs where
  dst : Word
  src : Word
  aux : Word
  len : Word

/-- The trap of a check that fails, if one does: the first pair whose condition holds names the failing value. -/
def firstBadValue (l : List (Bool × Word)) : Option Trap := (l.find? (·.1)).map fun x => trapOf .d .illegal x.2

/-- A transfer's slot has not opened yet (R299). -/
def State.slotAhead (s : State) (b : Bank) (slot : Nat) : Bool :=
  match (if b.ssPart then b.t0 else none) with | none => false | some t0 => s.timebase < t0 + slot * b.sslot
/-- The slot of a transfer (R299): not open yet, or a trap. -/
def State.slotCheck (s : State) (b : Bank) (slot : Nat) : ReqCheck :=
  match (if b.ssPart then b.t0 else none) with
  | none => .trap (trapOf .d .illegal)
  | some t0 =>
    if s.timebase < t0 + slot * b.sslot then .held
    else if s.timebase < t0 + (slot + 1) * b.sslot then .ok
    else .trap (trapOf .d .illegal (BitVec.ofNat 64 slot))

/-- The checks of an instruction (R285 to R298). A DGATH is checked at its src base too (assumption 128); a send whose dst field is not 0 traps with
the len register as TRAPADDR (assumption 133). -/
def State.reqCheck (s : State) (b : Bank) (k : CopyKind) (o : DcArgs) (r : ReqRegs) : ReqCheck :=
  let n := lenN r.len
  let dsp := lenDsp r.len
  let ssp := lenSsp r.len
  let c := lenC r.len
  let rest := fld r.len.toNat 32 27
  let plain := rest ≠ 0
  let common (l : List (Bool × Word)) : Option Trap :=
    firstBadValue ([(dsp = 3 || ssp = 3, r.len)] ++ l ++ [(o.ep ≠ 0 && !c, BitVec.ofNat 64 o.ep.val)])
  let keyBad (w : Word) : Bool := fld w.toNat 62 2 ≠ 0 || keyOfs w % 64 ≠ 0
  let spans (l : List (Nat × Word × Nat)) : ReqCheck :=
    match l.findSome? fun (sp, a, n) => s.spanTrap b sp a n with | some t => .trap t | none => .ok
  let done (x : Option Trap) (y : ReqCheck) : ReqCheck := match x with | some t => .trap t | none => y
  match k with
  | .dcopy =>
    if c then
      done (common [(plain || n ≠ 0 || ssp ≠ 0, r.len), (o.ep = 2 && dsp = 0, r.len),
        (o.ep = 3 && dsp ≠ 0, r.len), (o.ep = 3 && r.dst.toNat % 256 ≠ 0, r.dst)]) (spans [(dsp, r.dst, 0)])
    else done (common [(plain, r.len)]) (spans [(dsp, r.dst, n), (ssp, r.src, n)])
  | .dfill => done (common [(plain || c || ssp ≠ 0, r.len)]) (spans [(dsp, r.dst, n)])
  | .dgath =>
    let rb := lenRb r.len
    done (common [(fld r.len.toNat 47 12 ≠ 0 || c || n = 0 || n > 65535 || rb % 8 ≠ 0 || rb < 8 || rb > 16384, r.len),
      (r.aux.toNat % 4 ≠ 0, r.aux)]) (spans [(dsp, r.dst, n * rb), (ssp, r.src, 0)])
  | .dpfa =>
    done (common [(plain || c || ssp ≠ 0 || dsp > 1 || n = 0 || n > 256, r.len), (r.src.toNat % 16 ≠ 0, r.src),
      (if dsp = 0 then r.dst ≠ 0 else r.dst.toNat % 64 ≠ 0, r.dst)])
      (spans [(dsp, r.dst, 1)])
  | .dbtw =>
    done (common [(plain || c || dsp ≠ 0, r.len), (keyBad r.dst, r.dst),
      (n % 64 ≠ 0 || n = 0 || n + keyOfs r.dst > 16384, r.len)]) (spans [(ssp, r.src, n)])
  | .dbtr =>
    done (common [(plain || c || ssp ≠ 0, r.len), (keyBad r.src, r.src),
      (n % 64 ≠ 0 || n = 0 || n + keyOfs r.src > 16384, r.len)]) (spans [(dsp, r.dst, n)])
  | .dbtsh =>
    done (common [(plain || c || dsp ≠ 0 || ssp ≠ 0 || n = 0 || n > 65535, r.len),
      (keyBad r.dst || keyOfs r.dst ≠ 0 || r.dst.toNat % 65536 + n > 65536, r.dst),
      (keyBad r.src || keyOfs r.src ≠ 0 || r.src.toNat % 65536 + n > 65536, r.src)]) .ok
  | .dbtfree =>
    done (common [(plain || c || dsp ≠ 0 || ssp ≠ 0, r.len),
      (keyBad r.dst || (n = 0 && (keyOfs r.dst ≠ 0 || r.dst.toNat % 2 ^ 24 ≠ 0)), r.dst)]) .ok
  | .dxfer | .dcoll =>
    let p := s.part b.part
    let role := lenRole r.len
    let size := match collFmt (lenFmt r.len) with | some f => f.width / 8 | none => 0
    let fmtBad : Bool := if k = .dxfer then lenFmt r.len ≠ 0 else size = 0 || n % size ≠ 0
    done (common [(dsp > 1 || ssp > 1 || c || role > 1 || flag r.len.toNat 58 || fmtBad || (role = 0 && o.dst ≠ 0)
        || lenPeer r.len ≥ p.pkgCount || lenPeer r.len = p.pkgIndex, r.len)])
      (match (if role = 0 then [(ssp, r.src, n)] else if k = .dxfer then [(dsp, r.dst, n)]
          else [(dsp, r.dst, n), (ssp, r.src, n)]).findSome? fun (sp, a, n) => s.spanTrap b sp a n with
        | some t => .trap t
        | none => s.slotCheck b (lenSlot r.len))

/-- The end of the slots a DBTFREE covers (R297). -/
def freeEnd (key len : Word) : Nat :=
  let k := keySlot key
  if lenN len = 0 then k + 2 ^ 24 else Nat.min (k + lenN len) ((k / 65536 + 1) * 65536)

/-- A destination range of a core overlaps one of the rings (R140 step 6). -/
def overRings (rings : List (Nat × Nat)) (off n : Nat) : Bool := rings.any fun (x, k) => off < x + k && x < off + n
/-- A request as it is accepted (R280): its registers, the control registers it uses, and, for R140 step 6, the rings of its
destination core. -/
def State.newCopy (s : State) (b : Bank) (k : CopyKind) (o : DcArgs) (r : ReqRegs) : CopyReq :=
  let n := lenN r.len
  let role := lenRole r.len
  let dsp := lenDsp r.len
  let (core, off) := spPlace s.cur.core dsp r.dst.toNat
  let rings := if dsp ≠ 0 ∧ (k = .dcopy ∨ k = .dgath ∨ k = .dpfa) then s.ringsOf core else []
  let span : Nat := match k with | .dcopy => if lenC r.len then 64 else n | .dgath => n * lenRb r.len | _ => 0
  let stage : Nat := match k with
    | .dcopy => if lenC r.len then 0 else if n = 0 then 2 else 1
    | .dfill => if n = 0 then 2 else 1
    | .dgath => 1
    | .dxfer | .dcoll => if n = 0 then 2 else if role = 0 then 1 else 0
    | .dbtw => 1
    | _ => 0
  { id := s.nextId, job := b.job, core := s.cur.core, seat := s.cur.seat, vf := b.vf, part := b.part,
    kind := k, dst := r.dst, src := r.src, aux := r.aux, len := r.len, tag := o.tag, acq := o.acq,
    rel := o.rel, scope := o.scope, ep := o.ep.val, pm := b.pmD, mo := b.dS.mo, lvl := b.level .d,
    root := b.root, ut := b.ut, rings := rings, ring := overRings rings off span, stage := stage,
    status := if (k = .dxfer ∨ k = .dcoll) ∧ (s.vf b.vf).deadPeers.contains (lenPeer r.len) then some 8 else none,
    pos := if k = .dbtfree then keySlot r.dst else 0, place := r.dst.toNat }
/-- A request (R280): its checks, which are made once; the wait for its slot (R299), for its tag, for room among the 64 requests of the
seat's engine (and in the hint queue); its acceptance. -/
def request (k : CopyKind) (o : DcArgs) (s : State) : Host.Outcome State Fault Refusal :=
  issue {} (fun s b =>
    let r : ReqRegs := ⟨b.getD o.dst, b.getD o.src, b.getD (o.src + 1), b.getD o.len⟩
    let hints := if k = .dpfa then lenN r.len else 0
    let full := (s.copies.filter fun q => q.core == s.cur.core && q.seat == s.cur.seat).length ≥ 64
    let checked := b.dS.stage == .checked
    let later : Res State := if checked then .wait else .hold (s.put { b with dS := { b.dS with stage := .checked } })
    match (if checked then .ok else s.reqCheck b k o r) with
    | .trap t => .trap t s
    | .held => later
    | .ok =>
      if (checked && (k == .dxfer || k == .dcoll) && s.slotAhead b (lenSlot r.len)) || s.tagBusy b.job o.tag || full
          || b.hints + hints > 256 then later
      else
        .ok ({ s with nextId := s.nextId + 1, copies := s.copies ++ [s.newCopy b k o r] }.put
          { b.acceptTag o.tag with hints := b.hints + hints }) .next false) s

def execDcopy (o : DcArgs) (s : State) := request .dcopy o s
def execDfill (o : DcArgs) (s : State) := request .dfill o s
def execDgath (o : DcArgs) (s : State) := request .dgath o s
def execDpfa (o : DcArgs) (s : State) := request .dpfa o s
def execDbtw (o : DcArgs) (s : State) := request .dbtw o s
def execDbtr (o : DcArgs) (s : State) := request .dbtr o s
def execDbtsh (o : DcArgs) (s : State) := request .dbtsh o s
def execDbtfree (o : DcArgs) (s : State) := request .dbtfree o s
def execDxfer (o : DcArgs) (s : State) := request .dxfer o s
def execDcoll (o : DcArgs) (s : State) := request .dcoll o s

/-! ## Parts of a request (R282, R287 to R291) -/

/-- Where a request's parts go: its space (3: nowhere), address and length. -/
def CopyReq.out (r : CopyReq) : Nat × Nat × Nat :=
  let n := lenN r.len
  let dsp := lenDsp r.len
  match r.kind with
  | .dcopy => match r.comp with
    | some (blocks, frames, p) => if p = 3 then (0, r.dst.toNat, 256 * frames) else (dsp, r.dst.toNat, 64 * blocks)
    | none => (dsp, r.dst.toNat, n)
  | .dfill | .dbtr => (dsp, r.dst.toNat, n)
  | .dgath => (dsp, r.dst.toNat, n * lenRb r.len)
  | .dpfa => match r.entry with
    | some (_, bytes) => if dsp = 1 then (1, r.place, bytes) else (3, 0, bytes)
    | none => (3, 0, 0)
  | .dbtw => (3, 0, n)
  | .dxfer | .dcoll => if lenRole r.len = 0 then (3, 0, n) else (dsp, r.dst.toNat, n)
  | _ => (3, 0, 0)
/-- The number of aligned 8-byte parts of the destination. -/
def CopyReq.total (r : CopyReq) : Nat := let (_, a, n) := r.out; if n = 0 then 0 else (a + n - 1) / 8 - a / 8 + 1
/-- Part i: its first byte's offset in the destination, and its length. -/
def CopyReq.partAt (r : CopyReq) (i : Nat) : Nat × Nat :=
  let (_, a, n) := r.out
  let lo := Nat.max a ((a / 8 + i) * 8)
  let hi := Nat.min (a + n) ((a / 8 + i + 1) * 8)
  (lo - a, hi - lo)
def CopyReq.allDone (r : CopyReq) : Bool := r.done == 2 ^ r.total - 1
/-- A request has nothing more to do: it has stopped, but for parts that are partly written (R282), or it is finished. All frames of a
compressed buffer are read (R291). -/
def CopyReq.finished (r : CopyReq) : Bool :=
  (r.status.isSome && r.wr.isEmpty) || r.stage == 2 ||
    (r.stage == 1 && r.allDone && match r.kind with
      | .dpfa | .dbtw => false
      | .dxfer | .dcoll => lenRole r.len != 0
      | .dcopy => match r.comp with | some (_, frames, p) => p == 3 || r.frames == frames | none => true
      | _ => true)
/-- The source and destination addresses of a request are multiples of 8 (R192). -/
def CopyReq.whole8 (r : CopyReq) : Bool :=
  r.out.2.1 % 8 == 0 && match r.kind with
    | .dfill | .dbtr => true
    | .dpfa => (r.entry.map (·.1)).getD 0 % 8 == 0
    | .dxfer => lenRole r.len != 0 || r.src.toNat % 8 == 0
    | _ => r.src.toNat % 8 == 0
/-- Part i is atomic per byte only: it is read and written in pieces of one byte (R192). A piece is numbered 8 i and its byte. -/
def CopyReq.byteWise (r : CopyReq) (i : Nat) : Bool := !(r.whole8 && (r.partAt i).2 == 8)
def CopyReq.pieces (r : CopyReq) (i : Nat) : List Nat :=
  if r.byteWise i then (List.range (r.partAt i).2).map (8 * i + ·) else [8 * i]
/-- The bytes of part i and their poison, when all its pieces are read. -/
def CopyReq.partRead (r : CopyReq) (i : Nat) : Option (List Byte × Bool) :=
  (r.pieces i).foldl (fun acc k => acc.bind fun (l, p) => (r.read.find? k).map fun (x, q) => (l ++ x, p || q)) (some ([], false))
/-- The 64-byte destination unit of part i (R282), and whether all its parts are written. -/
def CopyReq.unitOf (r : CopyReq) (i : Nat) : Nat := (r.out.2.1 / 8 + i) / 8
def CopyReq.unitDone (r : CopyReq) (u : Nat) : Bool :=
  (List.range 8).all fun j =>
    let k := 8 * u + j
    k < r.out.2.1 / 8 || r.total ≤ k - r.out.2.1 / 8 || r.done.testBit (k - r.out.2.1 / 8)

/-- Runs of at most 8 bytes that do not cross an aligned 8-byte boundary. -/
def runsOf : (fuel a n : Nat) → List (Nat × Nat)
  | 0, _, _ => []
  | f + 1, a, n => if n = 0 then [] else let k := Nat.min n (8 - a % 8); (a, k) :: runsOf f (a + k) (n - k)

def State.setCopy (s : State) (r : CopyReq) : State := { s with copies := s.copies.map fun c => if c.id = r.id then r else c }
def CopyReq.noted (r : CopyReq) (code : Nat) : CopyReq := { r with note := if r.note = 0 then code else r.note }
/-- The next entry of a DPFA: nothing of the entry before it is left. -/
def CopyReq.nextEntry (r : CopyReq) : CopyReq :=
  { r with pos := r.pos + 1, place := r.place + (r.entry.map (·.2)).getD 0, entry := none, stage := 0, read := [], wr := [], xl := []
           fbuf := [], done := 0, bad := 0, ring := false, refused := none }
/-- A request stops with a status (R281). A hint is skipped instead (R293). Stalled writes give up their places. -/
def State.copyStop (s : State) (r : CopyReq) (code : Nat) : State :=
  let (sp, a, n) := r.out
  let s := if sp = 0 then s.dropWaits fun part w =>
      w.job == r.job && w.eng == .d && !s.lineKept part w && decide (a ≤ w.va.toNat ∧ w.va.toNat < a + n) else s
  if r.kind = .dpfa then (s.setCopy (r.noted code).nextEntry).mapJob r.job fun b => { b with hints := b.hints - 1 }
  else s.setCopy { r.noted code with status := some code, refused := none, xl := if r.wr.isEmpty then [] else r.xl }
/-- FAULT1 with its report (R281, R333). -/
def State.copyFault (s : State) (r : CopyReq) (va : Word) (detail : Nat) : State :=
  let silent := r.kind == .dpfa || r.kind == .dxfer || r.kind == .dcoll
  let s := if silent then s
    else s.reportVf r.vf { type := 2, strm := 4, cid := cid r.part r.vf, seat := seatNo r.core r.seat, a1 := va.toNat,
                           detail := detail + r.tag.val * 256 }
  s.copyStop r 1
/-- A request stalls on a refusing target; it keeps the place of its first arrival (R356). -/
def State.copyStall (s : State) (r : CopyReq) (target : Nat) (addr : Word) : State :=
  if r.refused.map (·.target) = some target then s.setCopy r
  else { s with nextId := s.nextId + 1 }.setCopy { r with refused := some ⟨s.nextId, target, addr⟩ }
/-- A failed check on a VA: a status or a stall (R137, R281, R346, R356). -/
def State.copyVaFail (s : State) (r : CopyReq) (va : Word) (write : Bool) (f : VaFail) : State :=
  match f with
  | .pfault k => s.copyFault r va k
  | .wtstore => s.copyFault r va (3 + 16)
  | .gate => s.copyFault r va 8
  | .misalign => s.copyFault r va 0
  | .pmdead => s.copyStop r 2
  | .integ => s.copyStop r 10
  | .uncorr => s.copyStop r 9
  | .stage2 gpa walk =>
    let seq := s.dev.pfBox.seq
    (s.stage2Report r.core r.seat .d r.vf r.part va gpa (if write then 1 else if r.ring then 3 else 0) walk).setCopy
      { r with s2stall := some seq }
  | .refuse t => s.copyStall r t va
def CopyReq.ctx (r : CopyReq) : VaCtx := ⟨r.core, .d, r.vf, r.part, r.lvl, r.mo, r.root, r.job⟩

/-- What reading a run gives: bytes with their poison, or that the request stops or stalls. -/
inductive CpRead where | ok (s : State) (r : CopyReq) (bytes : List Byte) (poison : Bool) | no (s : State)
/-- The location of a VA for a destination unit in progress: translated once for each 64-byte line, and kept until the unit is done
(R194). A part that is partly written (`begun`) meets only a refusing target again. -/
def State.copyLoc (s : State) (r : CopyReq) (unit : Option Nat) (begun : Bool) (va : Nat) (u : Use) :
    Except VaFail Loc × State × CopyReq :=
  let line := 2 * (va % 2 ^ 64 / 64) + b2n u.write
  match unit.bind fun x => (r.xl.find? x).bind fun y => Table.find? y.2 line with
  | some l =>
    let l := l.lineAt (va % 64)
    match s.recheck r.ctx l u with
    | some (.refuse t) => (.error (.refuse t), s, r)
    | some f => if begun then (.ok l, s, r) else (.error f, s, r)
    | none => (.ok l, s, r)
  | none =>
    match s.checkVa r.ctx (BitVec.ofNat 64 va) 1 r.pm.toNat u with
    | (.error f, s) => (.error f, s, r)
    | (.ok t, s) =>
      match unit with
      | none => (.ok t.loc, s, r)
      | some x =>
        let (n, tab) := r.xl.get x (s.nextId, [])
        (.ok t.loc, { s with nextId := s.nextId + 1 }, { r with xl := r.xl.put x (n, Table.put tab line t.loc) })
/-- One run of a space, within an aligned 8-byte part (R285). -/
def State.copyRun (s : State) (r : CopyReq) (unit : Option Nat) (space a n : Nat) : CpRead :=
  if space = 0 then
    match s.copyLoc r unit false a { write := false, writes := false, ringFill := r.ring, carry := true } with
    | (.error f, s, r) => .no (s.copyVaFail r (BitVec.ofNat 64 a) false f)
    | (.ok l, s, r) => .ok s r (s.view r.core r.seat l n) (s.locPoison l n)
  else
    let (core, off) := spPlace r.core space a
    let c := s.core core
    if c.scrubbing.getLsbD (off / 4096) then .no (s.copyStall r (targetNo 2 (core * 128 + off / 4096)) (BitVec.ofNat 64 a))
    else
      let bytes := s.readLoc (.sp core off) n
      match c.readCond off n with
      | .poison => .ok s r bytes true
      | .ok => .ok s r bytes false
      | .invalid p =>
        if r.ut then .no (s.copyStop r 12)
        else if r.warned then .ok s r bytes false
        else .ok (s.log r.core r.seat ⟨5, false, 4, cid r.part r.vf, 0, BitVec.ofNat 64 p⟩) { r with warned := true } bytes false
/-- Several runs in order. -/
def copyRuns (unit : Option Nat) (space : Nat) : List (Nat × Nat) → State → CopyReq → List Byte → Bool → CpRead
  | [], s, r, bytes, p => .ok s r bytes p
  | (a, n) :: l, s, r, bytes, p =>
    match s.copyRun r unit space a n with
    | .no s => .no s
    | .ok s r b q => copyRuns unit space l s r (bytes ++ b) (p || q)
def State.copyRead (s : State) (r : CopyReq) (unit : Option Nat) (space a n : Nat) : CpRead :=
  copyRuns unit space (runsOf (n / 8 + 2) a n) s r [] false
/-- The unit that stands for a header or frame that is being read. -/
def fetchUnit : Nat := 2 ^ 64
/-- Reads run j of a header or frame of n bytes; once all its runs are read, its bytes (R192). -/
def State.copyFetch (s : State) (r : CopyReq) (a n j : Nat) : CpRead :=
  let runs := runsOf (n / 8 + 2) a n
  if r.fbuf.length = runs.length then
    .ok s { r with fbuf := [], xl := r.xl.del fetchUnit, refused := none } (r.fbuf.flatMap (·.2.1)) (r.fbuf.any (·.2.2))
  else match runs[j]?, r.fbuf.find? j with
    | some (x, k), none =>
      match s.copyRun r (some fetchUnit) 0 x k with
      | .no s => .no s
      | .ok s r bytes p => .no (s.setCopy { r with fbuf := r.fbuf.put j (bytes, p) })
    | _, _ => .no s

/-- A scratchpad range that becomes known after acceptance lies in one scratchpad of its space and in units of the seat or VF (R286,
R289, R293). -/
def State.placeFine (s : State) (r : CopyReq) (space addr n : Nat) : Bool :=
  let (core, off) := spPlace r.core space addr
  space == 0 || match s.findJob r.job with
    | some (_, b) => off + n ≤ 0x60000 && (space != 1 || addr + n ≤ 0x60000) &&
      match s.rangeCond b r.lvl r.mo core (if space = 2 then none else some r.seat) off n with
      | .illegal | .gate => false
      | _ => true
    | none => false

/-- The bytes of DGATH's destination offsets o to o + n − 1, which lie in one row: RB is a multiple of 8 but the destination may
straddle rows, so a part is read row by row (R289). -/
def gatherRuns (rb : Nat) (o n : Nat) : List (Nat × Nat) :=
  let first := Nat.min n (rb - o % rb)
  if first = n then [(o, n)] else [(o, first), (o + first, n - first)]
/-- One piece of a row: its index is read once for the request. The row of a poisoned index is poisoned (R281); one in a unit that is not the
seat's, or of another label, ends the request with ILLHDR (assumption 131). -/
def State.gatherPiece (s : State) (r : CopyReq) (unit : Option Nat) (o n : Nat) : CpRead :=
  let rb := lenRb r.len
  let row := o / rb
  let go (s : State) (r : CopyReq) (v : Word) : CpRead :=
    let a : Int := (r.src.toNat : Int) + v.toInt * rb + (o % rb : Nat)
    let ssp := lenSsp r.len
    if ssp = 0 then s.copyRead r unit 0 (BitVec.ofInt 64 a).toNat n
    else
      -- the whole row must lie in a scratchpad of the space, in units that the seat or VF owns
      let start := (a - (o % rb : Nat)).toNat
      if a < (o % rb : Nat) ∨ start ≥ 2 ^ (if ssp = 2 then 23 else 19) ∨ !s.placeFine r ssp start rb then .no (s.copyStop r 4)
      else s.copyRead r unit ssp (start + o % rb) n
  match r.idx.find? row with
  | some v => go s r v
  | none =>
    match s.copyRead r none 0 ((r.aux + BitVec.ofNat 64 (4 * row)).toNat) 4 with
    | .no s => .no s
    | .ok s r bytes p =>
      if p then .ok s r (List.replicate n 0) true
      else
        let v := BitVec.ofInt 64 ((BitVec.ofNat 32 (leNat bytes)).toInt)
        let r := { r with idx := r.idx.put row v }
        go (s.setCopy r) r v
/-- Element e of a collective's sum (R300). -/
def sumElem (f : Fmt) (x y : Nat) : Nat :=
  roundTo f .rne false true (xadd .rne (decodeCode f false x) (decodeCode f false y))

/-- The source bytes of destination offsets o to o + n − 1. -/
def State.copySource (s : State) (r : CopyReq) (unit : Option Nat) (o n : Nat) : CpRead :=
  let ssp := lenSsp r.len
  let src (o : Nat) : Nat := (r.src + BitVec.ofNat 64 o).toNat
  match r.kind with
  | .dfill => .ok s r ((List.range n).map fun i => BitVec.ofNat 8 (r.src.toNat / 256 ^ ((r.dst.toNat + o + i) % 8))) false
  | .dcopy =>
    match r.comp with
    | some (_, _, 3) =>
      match s.copyRead r unit 0 (src (64 + o)) n with
      | .no s => .no s
      | .ok s r bytes p => .ok s r bytes (p || r.expBad.contains (o / 64))
    | some _ => if r.exp.length < o + n then .no s else .ok s r ((r.exp.drop o).take n) (r.expBad.contains (o / 64))
    | none => s.copyRead r unit ssp (src o) n
  | .dbtw => s.copyRead r unit ssp (src o) n
  | .dbtr => .ok s r ((r.exp.drop o).take n) (r.expBad.contains (o / 64) || r.expBad.contains ((o + n - 1) / 64))
  | .dpfa => s.copyRead r unit 0 ((r.entry.map (·.1)).getD 0 + o) n
  | .dgath =>
    match gatherRuns (lenRb r.len) o n with
    | [(a, k), (a', k')] =>
      match s.gatherPiece r unit a k with
      | .no s => .no s
      | .ok s r x p =>
        match s.gatherPiece r unit a' k' with
        | .no s => .no s
        | .ok s r y q => .ok s r (x ++ y) (p || q)
    | _ => s.gatherPiece r unit o n
  | .dxfer | .dcoll =>
    if lenRole r.len = 0 then s.copyRead r unit ssp (src o) n
    else match r.peer with
      | none => .no s
      | some d =>
        let sent := d.bad.any fun k => o / 8 ≤ k && k ≤ (o + n - 1) / 8
        if r.kind = .dxfer then .ok s r ((List.range n).map fun i => (d.bytes[o + i]?).getD 0) sent
        else match collFmt (lenFmt r.len) with
          | none => .no s
          | some f =>
            let z := f.width / 8
            let e0 := o / z
            let e1 := (o + n - 1) / z
            match s.copyRead r unit ssp (src (e0 * z)) ((e1 - e0 + 1) * z) with
            | .no s => .no s
            | .ok s r loc p =>
              let elem (e : Nat) : List Byte :=
                leBytes (sumElem f (leNat ((d.bytes.drop (e * z)).take z)) (leNat ((loc.drop ((e - e0) * z)).take z))) z
              let all := (List.range (e1 - e0 + 1)).flatMap fun i => elem (e0 + i)
              .ok s r ((all.drop (o - e0 * z)).take n) (p || d.bad.any fun k => e0 * z / 8 ≤ k && k ≤ ((e1 + 1) * z - 1) / 8)
  | _ => .no s

/-! ## Ordering of a stream's copies (R183, R191) -/

/-- Ranges a request still has to read or write: (write, space, address, length). -/
def CopyReq.spans (r : CopyReq) : List (Bool × Nat × Nat × Nat) :=
  let (sp, a, n) := r.out
  let w := if sp < 3 then [(true, sp, a, n)] else []
  match r.kind with
  | .dcopy => if r.comp.isSome || lenC r.len then w else (false, lenSsp r.len, r.src.toNat, lenN r.len) :: w
  | .dbtw => (false, lenSsp r.len, r.src.toNat, lenN r.len) :: w
  | .dcoll => (false, lenSsp r.len, r.src.toNat, lenN r.len) :: w
  | .dxfer => if lenRole r.len = 0 then (false, lenSsp r.len, r.src.toNat, lenN r.len) :: w else w
  | .dgath => (false, 0, r.aux.toNat, 4 * ((r.out.2.2 + lenRb r.len - 1) / lenRb r.len)) :: w
  | _ => w
/-- The block-table slots a request acts on, as ranges. -/
def CopyReq.slots (r : CopyReq) : List (Nat × Nat) :=
  match r.kind with
  | .dbtw => [(keySlot r.dst, keySlot r.dst + 1)]
  | .dbtr => [(keySlot r.src, keySlot r.src + 1)]
  | .dbtsh => [(keySlot r.dst, keySlot r.dst + lenN r.len), (keySlot r.src, keySlot r.src + lenN r.len)]
  | .dbtfree => [(keySlot r.dst, freeEnd r.dst r.len)]
  | _ => []
/-- Where the bytes of a page of a request lie: a page of a partition under a postmark, or the VA when it has no leaf. -/
def State.pagePlace (s : State) (r : CopyReq) (a : Nat) : (Nat × Nat) × Nat :=
  match (s.leafOf r.ctx (BitVec.ofNat 64 a)).1 with
  | .leaf e big => ((if e.getLsbD 7 then 1 else 0, if e.getLsbD 6 then r.pm.toNat else 0), leafAddr e big (BitVec.ofNat 64 a))
  | _ => ((2, 0), a)
/-- The locations of a range, whatever addresses name them (R183): a virtual range page by page, a scratchpad range by its core. -/
def State.places (s : State) (r : CopyReq) (x : Bool × Nat × Nat × Nat) : List (Bool × (Nat × Nat) × Nat × Nat) :=
  let (w, space, a, n) := x
  if space = 0 then
    (List.range ((a % 65536 + n + 65535) / 65536)).map fun (i : Nat) =>
      let lo := Nat.max a ((a / 65536 + i) * 65536)
      let hi := Nat.min (a + n) ((a / 65536 + i + 1) * 65536)
      let (k, g) := s.pagePlace r lo
      (w, k, g, hi - lo)
  else
    let (core, off) := spPlace r.core space a
    [(w, (3, core), off, n)]
/-- The row whose index is known, or is in memory now, of a gather: the range it reads. -/
def State.rowSpan (s : State) (r : CopyReq) (row : Nat) : Bool × Nat × Nat × Nat :=
  let rb := lenRb r.len
  let v : Int := match r.idx.find? row with
    | some v => v.toInt
    | none => match s.copyRead { r with ring := false } none 0 ((r.aux + BitVec.ofNat 64 (4 * row)).toNat) 4 with
      | .ok _ _ bytes _ => (BitVec.ofNat 32 (leNat bytes)).toInt
      | .no _ => 0
  (false, lenSsp r.len, (BitVec.ofInt 64 ((r.src.toNat : Int) + v * rb)).toNat, rb)
/-- Every location that a request still has to read or write. -/
def State.copyPlaces (s : State) (r : CopyReq) : List (Bool × (Nat × Nat) × Nat × Nat) :=
  let rows := if r.kind == .dgath then (List.range ((r.out.2.2 + lenRb r.len - 1) / lenRb r.len)).map (s.rowSpan r) else []
  let frames := match r.kind == .dcopy && lenC r.len, r.comp with
    | true, some (_, n, _) => [(false, 0, r.src.toNat, 64 + 256 * n)]
    | true, none => [(false, 0, r.src.toNat, 64)]
    | false, _ => []
  (r.spans ++ rows ++ frames).flatMap (s.places r)
/-- A request waits for an earlier one of its stream that touches the same location or slot, and behind a FENCE for every earlier
one. -/
def State.copyBehind (s : State) (r : CopyReq) : Bool :=
  let earlier := s.copies.filter fun q => q.job == r.job && q.id < r.id && !q.finished
  let mine := if earlier.isEmpty then [] else s.copyPlaces r
  earlier.any fun q =>
    (s.copyPlaces q).any (fun x => mine.any fun y =>
        x.2.1 == y.2.1 && x.2.2.1 < y.2.2.1 + y.2.2.2 && y.2.2.1 < x.2.2.1 + x.2.2.2)
    || q.slots.any (fun x => r.slots.any fun y => x.1 < y.2 && y.1 < x.2)
    || s.acc.any (fun a => a.job == r.job && a.eng == .d && q.id < a.id && a.id < r.id &&
        match a.kind with | .fence _ => true | _ => false)
    || (q.kind == .dpfa && r.kind == .dpfa)

/-! ## Writing a part -/

/-- A byte of the destination lies in the source too: its value is the one or the other (R282). -/
def CopyReq.overlaps (r : CopyReq) : Bool :=
  match r.spans with | [(false, sp, a, n), (true, sp', a', n')] => sp == sp' && a < a' + n' && a' < a + n | _ => false
/-- The whole page of a destination byte is written by the request (R358). -/
def CopyReq.pageWhole (r : CopyReq) (a : Nat) : Bool :=
  let (sp, d, n) := r.out
  sp == 0 && (r.kind == .dfill || (r.kind == .dcopy && !lenC r.len)) && d ≤ a / 65536 * 65536 && a / 65536 * 65536 + 65536 ≤ d + n
/-- The parts of an aligned block of the destination, as a mask, when the whole block lies in it. -/
def CopyReq.blockMask (r : CopyReq) (a size : Nat) : Option Nat :=
  let (_, d, n) := r.out
  let lo := a / size * size
  if d ≤ lo ∧ lo + size ≤ d + n then some ((2 ^ (size / 8) - 1) * 2 ^ (lo / 8 - d / 8)) else none
/-- A whole page has been written: it is sealed under its present key (R358). -/
def State.sealPage (s : State) (l : Loc) : State :=
  match l with
  | .mem _ 0 _ pa key =>
    let kg := (s.key key).map fun k => (key, k.gen)
    let s := { s with unsealed := s.unsealed.filter (· != pa / 65536)
                      resealed := s.resealed.filter (fun x => x / 1024 != pa / 65536) }
    (List.range 1024).foldl (fun s i =>
      let x := pa / 65536 * 65536 + 64 * i
      s.setLineMeta x { s.lineMeta x with keygen := kg }) s
  | _ => s
/-- The page of a location, when the request writes the whole of it while it is unsealed: it may be resealed by the VF that owns it, and by
the first such request to begin (R358). None: another's. -/
def State.claimPage (s : State) (r : CopyReq) (a : Nat) (l : Loc) : Option CopyReq :=
  match l with
  | .mem _ 0 _ pa key =>
    let page := pa / 65536
    if !r.pageWhole a || !s.isUnsealed pa || r.claims.contains page then some r
    else if !s.ownsKey r.vf key || s.copies.any (fun q => q.id != r.id && !q.finished && q.claims.contains page)
    then none
    else some { r with claims := r.claims ++ [page] }
  | _ => some r
/-- What follows the write of a part: whole lines lose their poison and are sealed, whole pages are sealed (R172, R326, R358). -/
def State.partWritten (s : State) (r : CopyReq) (a : Nat) (l : Loc) : State :=
  match l with
  | .mem .. =>
    let s := match r.blockMask a 64 with
      | some m => if r.done &&& m = m ∧ r.bad &&& m = 0 then s.wholeLine l else s
      | none => s
    match (if r.pageWhole a then r.blockMask a 65536 else none) with
    | some m => if r.done &&& m = m then s.sealPage l else s
    | none => s
  | _ => s
/-- Part i, or byte j of a part that is atomic per byte only, is written. -/
def CopyReq.wrote (r : CopyReq) (i j : Nat) (poison : Bool) : CopyReq :=
  let (_, n) := r.partAt i
  let mask := if r.byteWise i then r.wr.get i 0 + 2 ^ j else 2 ^ n - 1
  let r := { (if poison then r.noted 9 else r) with refused := none }
  if mask = 2 ^ n - 1 then
    let r := { r with read := (r.pieces i).foldl Table.del r.read, wr := r.wr.del i, done := r.done + 2 ^ i
                      bad := if poison then r.bad + 2 ^ i else r.bad }
    if r.unitDone (r.unitOf i) then { r with xl := r.xl.del (r.unitOf i) } else r
  else { r with wr := r.wr.put i mask }
/-- Writes part i, which has been read: all of it, or its byte j. Another store to the line that is performed for some scopes only, and
a pending load that poison must not overtake, go first. -/
def State.copyWrite (s : State) (r : CopyReq) (i j : Nat) (all : List Byte) (poison : Bool) : State :=
  let (space, base, _) := r.out
  let (o, n0) := r.partAt i
  let (x, n) := if r.byteWise i then (j, 1) else (0, n0)
  let a := base + o + x
  let va := BitVec.ofNat 64 a
  let bytes := (all.drop x).take n
  let store (s : State) (r : CopyReq) (l : Loc) : State :=
    if s.lineTaken r.job .d l || (poison && s.cReads l n) then s.setCopy r
    else
      let (f, s) := s.draw
      let old := s.readLoc l n
      let (_, sa, sn) := ((r.spans.head?).map (·.2)).getD (0, 0, 0)
      let bytes := if r.overlaps then bytes.mapIdx fun j x =>
          if sa ≤ a + j ∧ a + j < sa + sn ∧ f.testBit j then (old[j]?).getD 0 else x
        else bytes
      let s := s.writeLoc l bytes
      let s := if poison then s.poisonLoc l n else s
      let s := match l, r.comp with
        | .mem p m g pa _, some (_, _, 3) => let h := s.homePa p m g pa; s.setLineMeta h { s.lineMeta h with frame := true }
        | _, _ => s
      let r := r.wrote i j poison
      (if r.done.testBit i then s.partWritten r a l else s).setCopy r
  if n0 ≤ x ∨ (r.wr.get i 0).testBit x then s
  else if space = 0 then
    let use : Use := { write := true, writes := true, fullPage := r.pageWhole a, fullLine := (r.blockMask a 64).isSome }
    match s.copyLoc r (some (r.unitOf i)) (r.wr.find? i).isSome a use with
    | (.error f, s, r) => s.copyVaFail r va true f
    | (.ok l, s, r) =>
      match s.claimPage r a l with
      | none => s.copyVaFail r va true .integ
      | some r =>
        let s := if s.needsLine l then
            s.askLine r.job .d (((s.findJob r.job).map fun (_, b) => b.pmWaitLim.toNat).getD 0) va l
          else s
        if s.needsLine l then s.setCopy r else store s r l
  else
    let (core, off) := spPlace r.core space a
    if (s.core core).scrubbing.getLsbD (off / 4096) then s.copyStall r (targetNo 2 (core * 128 + off / 4096)) va
    else store s r (.sp core off)

/-! ## Compressed buffers (R290, R291) -/

/-- The blocks of a frame: n blocks from byte o on, expanded; none for a malformed frame: an illegal header, a block that runs past
it, or a byte behind the blocks that is not zero. -/
def frameBlocks (bytes : List Byte) : (n o : Nat) → Option (List Byte) → Option (List Byte)
  | 0, o, _ => if (bytes.drop o).all (· == 0) then some [] else none
  | n + 1, o, prev =>
    match bytes[o]? with
    | none => none
    | some h =>
      match payload h.toNat with
      | none => none
      | some k =>
        if o + 1 + k > 256 then none
        else match expandBlock h.toNat ((bytes.drop (o + 1)).take k) prev with
          | none => none
          | some blk => (frameBlocks bytes n (o + 1 + k) (some blk)).map (blk ++ ·)
/-- The buffer header is read: its counts and the effective point, or ILLHDR. Its reads are ring fills when the destination it gives
overlaps a ring (R140 step 6). What comes from a poisoned header is poison (R281; assumption 24). -/
def State.copyHeader (s : State) (r : CopyReq) (j : Nat) : State :=
  match s.copyFetch r r.src.toNat 64 j with
  | .no s => s
  | .ok s r bytes p =>
    let v := leNat bytes
    let blocks := fld v 0 32
    let frames := fld v 64 32
    let pt := Nat.max (fld v 32 2) r.ep
    let dsp := lenDsp r.len
    let r := if p then { r.noted 9 with expBad := List.range (if pt = 3 then 4 * frames else blocks) } else r
    if blocks = 0 ∨ blocks > 2 ^ 24 ∨ frames = 0 ∨ frames > 2 ^ 24 ∨ fld v 34 30 ≠ 0 ∨ fld v 96 416 ≠ 0
      ∨ (pt = 2 ∧ dsp = 0) ∨ (pt = 3 ∧ (dsp ≠ 0 ∨ r.dst.toNat % 256 ≠ 0)) ∨ !s.placeFine r dsp r.dst.toNat (64 * blocks) then
      s.copyStop r 4
    else if !r.ring && overRings r.rings (spPlace r.core dsp r.dst.toNat).2 (64 * blocks) then s.setCopy { r with ring := true }
    else s.setCopy { r with comp := some (blocks, frames, pt), stage := 1 }
/-- The next frame is read and expanded; its bytes behind its blocks are zero (R290). What comes from a poisoned frame on is poison
(R281; assumption 24). -/
def State.copyFrame (s : State) (r : CopyReq) (blocks frames j : Nat) : State :=
  if r.frames ≥ frames then s
  else match s.copyFetch r ((r.src + BitVec.ofNat 64 (64 + 256 * r.frames)).toNat) 256 j with
    | .no s => s
    | .ok s r bytes p =>
      let n := ((bytes[0]?).getD 0).toNat
      let prev := if r.exp.isEmpty then none else some (r.exp.drop (r.exp.length - 64))
      let r := if p then { r.noted 9 with expBad := r.expBad ++ (List.range blocks).drop (r.exp.length / 64) } else r
      match (if n = 0 then none else frameBlocks bytes n 1 prev) with
        | none => s.copyStop r 4
        | some l =>
          let r := { r with exp := r.exp ++ l, frames := r.frames + 1 }
          if r.exp.length > 64 * blocks ∨ (r.frames = frames ∧ r.exp.length ≠ 64 * blocks) then s.copyStop r 4
          else s.setCopy r

/-! ## Hints (R293) -/

/-- The next entry of a DPFA is read and its place is checked; after the last one the request is finished. The reads of an entry whose
place overlaps a ring of acceptance are ring fills (R140 step 6). -/
def State.copyHint (s : State) (r : CopyReq) (j : Nat) : State :=
  let at_ := (r.src + BitVec.ofNat 64 (16 * r.pos)).toNat
  if r.pos ≥ lenN r.len then s.setCopy { r with stage := 2 }
  else match s.copyFetch r at_ 16 j with
    | .no s => s
    | .ok s r bytes p =>
      let v := leNat bytes
      let va := fld v 0 64
      let n := fld v 64 32
      let r1 := { r with entry := some (va, n) }
      let dsp := lenDsp r.len
      if n % 64 ≠ 0 ∨ n < 64 ∨ n > 2 ^ 24 then s.copyStop r (if p then 9 else 4)
      else if p then s.copyStop r1 9
      else if va % 64 ≠ 0 ∨ fld v 112 16 ≠ 0 then s.copyStop r1 4
      else if dsp == 1 && !s.placeFine r 1 r.place n then s.copyStop r1 14
      else if dsp == 1 && !r.ring && overRings r.rings r.place n then s.setCopy { r with ring := true }
      else s.setCopy { r1 with stage := 1, refused := none }
/-- A staged entry: the next one. -/
def State.hintDone (s : State) (r : CopyReq) : State :=
  (s.setCopy r.nextEntry).mapJob r.job fun b => { b with hints := b.hints - 1 }

/-! ## The block-table store (R294 to R297) -/

def Partition.blockPa (p : Partition) (n : Nat) : Nat := p.btBase + 16384 * n
/-- The lowest free block. -/
def Partition.freeBlock (p : Partition) : Option Nat := (List.range p.btBlocks).find? fun n => (Table.find? p.btCount n).isNone
/-- A mapping to a block is removed; the block is freed when its count falls to 0. The second component is a block that is freed. -/
def Partition.dropBlock (p : Partition) (n : Nat) : Partition × Option Nat :=
  let c := p.btCount.get n 1
  if c ≤ 1 then ({ p with btCount := p.btCount.del n }, some n) else ({ p with btCount := p.btCount.put n (c - 1) }, none)
/-- The lines of a block are sealed again (R358). -/
def State.resealBlock (s : State) (pa : Nat) : State :=
  { s with resealed := s.resealed ++ ((List.range 256).map fun i => pa / 64 + i).filter fun x => s.isUnsealed (64 * x) }
/-- A slot becomes absent (R297). -/
def State.freeSlot (s : State) (part slot : Nat) : State :=
  let p := s.part part
  match Table.find? p.btMap slot with
  | none => s
  | some n =>
    let (p, freed) := { p with btMap := p.btMap.del slot }.dropBlock n
    let s := s.setPart part p
    match freed with | some n => s.resealBlock (p.blockPa n) | none => s
/-- What the lines of a block do to an access (R356, R358): the first that is not fine or poisoned. -/
def State.blockCond (s : State) (part pa n key : Nat) : LineCond :=
  if (s.key key).isNone then .integ
  else
    let l := (List.range (n / 64)).map fun i => s.lineCond part (pa + 64 * i) (pa + 64 * i) key
    match l.find? (fun c => match c with | .refuse _ => true | _ => false) with
    | some c => c
    | none => if l.contains .integ then .integ else if l.contains .mac then .mac else .ok
/-- Whole lines are written: sealed under the store's key, not poisoned but where `bad` says so. -/
def State.blockWrite (s : State) (pa key : Nat) (bytes : List Byte) (bad : List Nat) : State :=
  let kg := (s.key key).map fun k => (key, k.gen)
  (List.range (bytes.length / 64)).foldl (fun s i => s.setLineMeta (pa + 64 * i) ⟨kg, bad.contains i, false⟩)
    { s with dram := s.dram.writeBytes pa bytes }
/-- The poisoned lines of a range. -/
def State.badLines (s : State) (pa n : Nat) : List Nat := (List.range (n / 64)).filter fun i => (s.lineMeta (pa + 64 * i)).poison

/-- DBTW's action on its slot, once all its bytes are read (assumption 129). -/
def State.blockStore (s : State) (r : CopyReq) : State :=
  let p := s.part r.part
  let slot := keySlot r.dst
  let ofs := keyOfs r.dst
  let n := lenN r.len
  let part (i : Nat) : List Byte × Bool := (r.partRead i).getD ([], false)
  let bytes := (List.range (n / 8)).flatMap fun i => (part i).1
  let bad := (List.range (n / 64)).filter fun i => (List.range 8).any fun j => (part (8 * i + j)).2
  let whole := n = 16384
  let fin (s : State) (r : CopyReq) (pa : Nat) : State :=
    let s := if whole then s.resealBlock pa else s
    (s.blockWrite (pa + ofs) p.btKey bytes bad).setCopy { (if bad.isEmpty then r else r.noted 9) with stage := 2 }
  match Table.find? p.btMap slot with
  | none =>
    match p.freeBlock with
    | none => s.copyStop r 6
    | some q =>
      let pa := p.blockPa q
      match s.blockCond r.part pa 16384 p.btKey with
      | .refuse t => s.copyStall r t r.dst
      | _ =>
        let s := s.setPart r.part { p with btMap := p.btMap.put slot q, btCount := p.btCount.put q 1 }
        fin ((s.resealBlock pa).blockWrite pa p.btKey (List.replicate 16384 0) []) r pa
  | some q =>
    let pa := p.blockPa q
    let c := s.blockCond r.part pa 16384 p.btKey
    match c with
    | .refuse t => s.copyStall r t r.dst
    | c =>
      if !whole && (c == .integ || (c == .mac && p.btCount.get q 1 > 1)) then s.copyStop r 10
      else if p.btCount.get q 1 > 1 then
        match p.freeBlock with
        | none => s.copyStop r 6
        | some q' =>
          let pa' := p.blockPa q'
          let old := s.dram.readBytes pa 16384
          let badOld := s.badLines pa 16384
          let s := s.setPart r.part { p with btMap := p.btMap.put slot q', btCount := (p.btCount.put q (p.btCount.get q 1 - 1)).put q' 1 }
          -- a poisoned line that the copy keeps is poisoned data that was read (R281)
          let r := if badOld.any fun i => i < ofs / 64 || (ofs + n) / 64 ≤ i then r.noted 9 else r
          fin ((s.resealBlock pa').blockWrite pa' p.btKey old badOld) r pa'
      else fin s r pa
/-- DBTR's action on its slot: the block is held and its bytes are taken. -/
def State.blockLoad (s : State) (r : CopyReq) : State :=
  let p := s.part r.part
  match Table.find? p.btMap (keySlot r.src) with
  | none => s.copyStop r 5
  | some q =>
    let pa := p.blockPa q + keyOfs r.src
    let n := lenN r.len
    match s.blockCond r.part pa n p.btKey with
    | .refuse t => s.copyStall r t r.src
    | .integ | .mac => s.copyStop r 10
    | _ => s.setCopy { r with stage := 1, exp := s.dram.readBytes pa n, expBad := s.badLines pa n, refused := none }
/-- DBTSH's action on its next slot. A destination slot gives another block up first; the count of the block rises by 1, also when the
slot maps to it already (R296); a count that would pass 65535 ends it with the slot as it was (assumption 130). -/
def State.blockShare (s : State) (r : CopyReq) : State :=
  if r.pos ≥ lenN r.len then s.setCopy { r with stage := 2 }
  else
    let p := s.part r.part
    let d := keySlot r.dst + r.pos
    let next (s : State) : State := s.setCopy { r with pos := r.pos + 1 }
    match Table.find? p.btMap (keySlot r.src + r.pos) with
    | none => next (s.freeSlot r.part d)
    | some q =>
      if p.btCount.get q 1 ≥ 65535 then s.copyStop r 7
      else
        let s := if Table.find? p.btMap d = some q then s else s.freeSlot r.part d
        let p := s.part r.part
        next (s.setPart r.part { p with btMap := p.btMap.put d q, btCount := p.btCount.put q (p.btCount.get q 1 + 1) })
/-- DBTFREE's action on its next slot in use. -/
def State.blockFree (s : State) (r : CopyReq) : State :=
  match List.find? (fun (x : Nat × Nat) => decide (r.pos ≤ x.1) && decide (x.1 < freeEnd r.dst r.len)) (s.part r.part).btMap with
  | none => s.setCopy { r with stage := 2 }
  | some (slot, _) => (s.freeSlot r.part slot).setCopy { r with pos := slot + 1 }

/-! ## One action of a request -/

/-- One action of a request, `k` naming it. At stage 0: what comes before its parts. Then piece k of part k / 8 is read, or, when all pieces
of the part are, the part or that byte of it is written. A number behind the parts stands for the next frame, or for what comes after the
parts. A request that waits behind others, for an acquire, or in the order of arrival at a refusing target does nothing; one that has ended
still completes a part that it has begun to write (R282; assumption 134). -/
def State.copyStep (s : State) (id k : Nat) : State :=
  match s.copies.find? (·.id == id) with
  | none => s
  | some r =>
    let i := k / 8
    if r.finished || r.s2stall.isSome || s.copyBehind r || !(r.refused.all s.stallFirst) || (r.acq && !s.othersAt r.job r.core r.seat .d r.scope)
        || (r.status.isSome && (r.wr.find? i).isNone) then s
    else if r.stage = 0 then
      match r.kind with
      | .dcopy => s.copyHeader r k
      | .dpfa => s.copyHint r k
      | .dbtr => s.blockLoad r
      | .dbtsh => s.blockShare r
      | .dbtfree => s.blockFree r
      | _ => s
    else if i < r.total then
      if r.done.testBit i then s
      else match r.partRead i with
        | some (bytes, p) => if r.out.1 = 3 then s else s.copyWrite r i (k % 8) bytes p
        | none =>
          let (o, n) := r.partAt i
          let (x, n) := if r.byteWise i then (k % 8, 1) else (0, n)
          let piece := 8 * i + x
          if (r.read.find? piece).isSome ∨ (r.partAt i).2 ≤ x ∨ !s.requestFree r.core then s
          else match s.copySource r (some (r.unitOf i)) (o + x) n with
          | .no s => s
          | .ok s r bytes p =>
            let r : CopyReq := { (if p then r.noted 9 else r) with refused := none, read := r.read.put piece (bytes, p) }
            if r.out.1 = 3 ∧ (r.partRead i).isSome then
              let r : CopyReq := { r with done := r.done + 2 ^ i, read := if r.kind = .dbtw then r.read else (r.pieces i).foldl Table.del r.read }
              s.setCopy (if r.unitDone (r.unitOf i) then { r with xl := r.xl.del (r.unitOf i) } else r)
            else s.setCopy r
    else match r.kind, r.comp with
      | .dcopy, some (blocks, frames, p) => if p < 3 then s.copyFrame r blocks frames (k - 8 * r.total) else s
      | .dpfa, _ => if r.allDone then s.hintDone r else s
      | .dbtw, _ => if r.allDone then s.blockStore r else s
      | .dxfer, _ | .dcoll, _ => if r.allDone ∧ lenRole r.len = 0 ∧ r.peer.isSome then s.setCopy { r with stage := 2 } else s
      | _, _ => s

/-! ## Events -/

/-- A request's completion may set its tag: with release = 1 what happens before it is performed at its scope, its stream's earlier
requests among it (R187, R188, R191); that of a collective is a release at system scope (R300). -/
def State.tagReady (s : State) (r : CopyReq) : Bool :=
  let scope := if r.kind = .dcoll then Scope.system else r.scope
  !(r.rel || r.kind == .dcoll) ||
    (s.othersAt r.job r.core r.seat .d scope && !s.copies.any fun q => q.job == r.job && q.id < r.id && !q.finished)
/-- COPY_COMPLETE (`ev.idx`: the request): STATUS, then TAGBITS, in the bank wherever it is (R280, R283). -/
def execCopyComplete (s : State) : Host.Outcome State Fault Refusal :=
  match s.copies.find? (·.id == s.cur.ev.idx) with
  | none => .next s
  | some r =>
    if !r.finished || !s.tagReady r then .next s
    else
      let st := if r.note ≠ 0 then r.note else r.status.getD 0
      .next (({ s with copies := s.copies.filter (·.id != r.id) }.mapJob r.job (·.completeTag r.tag (BitVec.ofNat 8 st))).refreshImages)

/-- XFER_SLOT_OPEN (`ev.core`, `ev.seat`, `ev.slot`): TIMEBASE reaches the opening of a superstep slot, so that a DXFER or DCOLL held for
it issues when its stream next takes its turn (R299). -/
def execXferSlotOpen (s : State) : Host.Outcome State Fault Refusal :=
  match s.eventBank with
  | none => .next s
  | some b =>
    match (if b.ssPart then b.t0 else none) with
    | none => .next s
    | some t0 => .next { s with timebase := Nat.max s.timebase (t0 + s.cur.ev.slot * b.sslot) }

/-- A transfer of VF `vf` in partition `part` with a peer. -/
def CopyReq.pairsWith (r : CopyReq) (part vf peer : Nat) : Bool :=
  (r.kind == .dxfer || r.kind == .dcoll) && r.part == part && r.vf == vf && lenPeer r.len == peer && !r.finished
/-- XFER_DATA_ARRIVAL (`ev.part`, `ev.vf`, `ev.idx`: the peer package, `ev.slot`, `ev.peer`; `ev.quad` = 1: the peer's acceptance of a send): the
oldest transfer that pairs with it receives its data; a pair that differs in length or format ends with MISMATCH (R300). -/
def execXferDataArrival (s : State) : Host.Outcome State Fault Refusal :=
  let ev := s.cur.ev
  match s.copies.find? fun r => r.pairsWith ev.part ev.vf ev.idx && lenSlot r.len == ev.slot && r.peer.isNone
      && (r.kind == .dcoll) == ev.peer.collective && (lenRole r.len == 0) == (ev.quad == 1) with
  | none => .next s
  | some r =>
    if ev.peer.len ≠ lenN r.len ∨ ev.peer.fmt ≠ lenFmt r.len then .next (s.copyStop r 13)
    else .next (s.setCopy { r with peer := some ev.peer, stage := if lenRole r.len = 0 then r.stage else 1 })

/-- ABORT_FLIT (`ev.part`, `ev.vf`, `ev.idx`: the peer package): transfers with a reset VF end with ABORTED, later ones too (R301). -/
def execAbortFlit (s : State) : Host.Outcome State Fault Refusal :=
  let ev := s.cur.ev
  let v := s.vf ev.vf
  let s := s.setVf ev.vf { v with deadPeers := if v.deadPeers.contains ev.idx then v.deadPeers else v.deadPeers ++ [ev.idx] }
  .next ((s.copies.filter fun r => r.pairsWith ev.part ev.vf ev.idx).foldl (fun s r => s.copyStop r 8) s)

end Sys2Proof.Machine
end

