-- ==== Sys2Proof/Machine/Stitch.lean ====
section
/-! DEFINITION. The stitch engine: segments, the stitch file and its owner, the evaluation of rules, and the six instructions
(spec/11_stitch.md R260 to R277; sums R75 of spec/03_numbers.md). -/
namespace Sys2Proof.Machine

/-! ## The file and its owner (R264, R265) -/

/-- An attempt to own the file: it is owned; it may not be; it has just been claimed or a place taken; or it still waits. -/
inductive Own where | owned | no | moved (s : State) | wait
/-- `claims`: the instruction is STCLR, or the bank holds a saved claim. Waiting claims are served in order. -/
def State.own (s : State) (b : Bank) (claims : Bool) : Own :=
  let c := s.core s.cur.core
  if c.stOwner = some s.cur.seat then .owned
  else if !claims && !b.stitch.claim then .no
  else
    let l := if c.stWait.contains b.job then c.stWait else c.stWait ++ [b.job]
    if c.stOwner.isNone && l.head? == some b.job then
      .moved ((s.setCore s.cur.core { c with stOwner := some s.cur.seat, stWait := l.drop 1 }).put
        { b with stitch := { b.stitch with claim := false } })
    else if c.stWait.contains b.job then .wait
    else .moved (s.setCore s.cur.core { c with stWait := l })
/-- A seat gives the file up, and its place among the waiting claims. -/
def State.freeStitch (s : State) (core seat job : Nat) : State :=
  let c := s.core core
  s.setCore core { c with stOwner := if c.stOwner = some seat then none else c.stOwner, stWait := c.stWait.filter (· != job) }
/-- The bank of an owner as it goes out: a saved claim. -/
def Bank.saveClaim (b : Bank) (owner : Bool) : Bank :=
  if owner then { b with stitch := { b.stitch with claim := true } } else b

/-- The issue of a stitch instruction: SEAM in an open seam (R271), then the file (R264; assumption 110), then its own meaning. -/
def stitchInst (claims : Bool) (body : State → Bank → Res State) (s : State) : Host.Outcome State Fault Refusal :=
  issue {} (fun s b =>
    if b.seam.isSome then .trap (mkTrap .seam) s
    else match s.own b claims with
      | .no => .trap (mkTrap .illegal) s
      | .wait => .wait
      | .moved s => .hold s
      | .owned => body s b) s
/-- A stitch instruction ends: counter 2 rises by a number of cycles that is not fixed (R277). -/
def State.stitchEnd (s : State) (b : Bank) : State :=
  let (f, s) := s.draw
  s.put { b with stitch := { b.stitch with cycles := b.stitch.cycles + BitVec.ofNat 64 f } }

/-! ## Batches and headers (R260, R261, R267, R272 to R274) -/


/-- STCLR. -/
def execStclr (s : State) : Host.Outcome State Fault Refusal :=
  stitchInst true (fun s b => payThen 1 s b fun s => .ok (s.put { b with stitch := {} }) .next false) s

/-- STIN. -/
def execStin (a : Fin 16) (batch : Fin 64) (s : State) : Host.Outcome State Fault Refusal :=
  stitchInst false (popWord fun w f s b =>
    let base := b.getH a
    if f.af.isBlock then wordTrap s b w
    else match s.mCheck b base (batch.val * vecBytes ((b.stitch.header.map (·.width)).getD 32768) f.af) 64 with
      | some t => .trap t s
      | none => payThen 1 s b fun s =>
        .ok (s.put { b.noWord with stitch := { header := b.stitch.header, batch := some ⟨base, batch.val, f.af, f.asc⟩ } })
          .next false) s

/-- The header at a weight address from its 64 bytes; none when a field breaks R260 or R261. -/
def headerOf (addr : Word) (v : Nat) : Option StHeader :=
  let rules := fld v 0 16
  let tops := fld v 16 16
  let width := fld v 48 16
  let dlim := fld v 64 8
  let ocol := fld v 72 8
  let seglen := fld v 96 32
  match fmtOf (fld v 32 8) with
  | .error _ => none
  | .ok f =>
    if rules = 0 || 2048 < rules || tops = 0 || rules < tops || f.width > 16 || f.isBlock || width = 0 || 32768 < width
      || dlim = 0 || 15 < dlim || 63 < ocol || fld v 80 16 ≠ 0 || seglen % 4 ≠ 0 || seglen < 64 + 4 * rules
      || fld v 128 384 ≠ 0 then none
    else some ⟨addr, rules, tops, f, sint8 (fld v 40 8), width, dlim, ocol, seglen⟩

/-- STHDR: the five checks in order (R274). -/
def execSthdr (r : Fin 16) (s : State) : Host.Outcome State Fault Refusal :=
  stitchInst false (fun s b =>
    let a := b.getH r
    let core := s.cur.core
    let off := fld a.toNat 0 27
    let sl := s.slice core
    let bad (n : Nat) : Bool :=
      wtAddrBad core a n || (sl.firstBad (foreign b.vf) off n).isSome || (sl.firstBad s.keyless off n).isSome
    if wtAddrBad core a 1 then .trap (mkTrap .illegal a) s
    else if a.toNat % 64 ≠ 0 then .trap (mkTrap .misalign a) s
    else if bad 64 then .trap (mkTrap .illegal a) s
    else match s.portRead core off 64 with
      | .bad _ => .trap (mkTrap .uncorr a) s
      | .keyless => .trap (mkTrap .illegal a) s
      | .data v =>
        match headerOf a v with
        | none => .trap (mkTrap .illegal a) s
        | some h =>
          if bad h.seglen then .trap (mkTrap .illegal a) s
          else match b.stitch.batch.bind fun x => s.mCheck b x.base (x.b * vecBytes h.width x.fmt) 64 with
            | some t => .trap t s
            | none => payThen 1 s b fun s =>
              .ok (s.stitchEnd { b with stitch := { b.stitch with header := some h, file := [] } }) .next false) s

/-! ## The evaluation of a rule (R266 to R269) -/

/-- Why a rule stops: a failing check, after which the STEVAL is finished; an error after which it resumes at the rule; or a
refusing scratchpad unit. -/
inductive RuleStop where | fail (c : Cause) (a : Word) | again (c : Cause) (a : Word) | stall (target addr : Nat)
/-- A rule while its symbols are summed. -/
structure RuleSum where
  dep : Nat := 1
  refs : Nat := 0
  sum : Option (List Nat) := none
  ibc : Bool := false
  warn : Option Nat := none

/-- The 32-bit word at a weight address of the segment, with the rows that have been read before. On another core than the address names,
the port cannot read it. -/
def State.segWord (s : State) (a : Word) (held : Table (BitVec 512) := []) : Except RuleStop Nat :=
  if fld a.toNat 27 11 ≠ s.cur.core then .error (.fail .illegal a)
  else match s.portRead s.cur.core (fld a.toNat 0 27) 4 held with
    | .data v => .ok v
    | .bad _ => .error (.again .uncorr a)
    | .keyless => .error (.fail .illegal a)

/-- The first byte and the bytes of element j < 64 of a unit, and the element of those bytes (R55). -/
def elemAt (f : Fmt) (j : Nat) : Nat × Nat :=
  if f = .trit5 then (j / 5, 1) else (f.width * j / 8, (f.width * (j + 1) + 7) / 8 - f.width * j / 8)
def elemIn (f : Fmt) (fzi : Bool) (v j : Nat) : XVal × Bool :=
  if f = .trit5 then elemOf f fzi v (j % 5) else elemOf f fzi (v / 2 ^ (f.width * j % 8)) 0
/-- x_b[c] for the vectors b of the batch, with its illegal codes and warnings in `m` (R267). -/
def State.inputs (s : State) (b : Bank) (h : StHeader) (x : StBatch) (fzi : Bool) (c : Nat) (m : RuleSum) :
    Except (RuleStop × RuleSum) (List XVal × RuleSum) :=
  (List.range x.b).foldl (fun r i =>
    match r with
    | .error e => .error e
    | .ok (l, m) =>
      let (lo, n) := elemAt x.fmt (c % 64)
      let at_ := x.base.toNat + i * vecBytes h.width x.fmt + c / 64 * x.fmt.rowBytes + lo
      match s.mRead b (0, 1) at_ n with
      | .stall t a => .error (.stall t a, m)
      | .bad cause a => .error (.again cause (BitVec.ofNat 64 (if cause = .uncorr then at_ else a)), m)
      | .data v w =>
        let (e, bad) := elemIn x.fmt fzi v (c % 64)
        .ok (l ++ [e.scale x.asc], { m with ibc := m.ibc || bad, warn := match m.warn with | some p => some p | none => w }))
    (.ok ([], m))

/-- The sums with one symbol's values: the first is rounded, later ones are added and rounded (R75). -/
def addValues (f : FmtWord) (sum : Option (List Nat)) (vs : List XVal) : List Nat :=
  match sum with
  | none => vs.map (f.round .fp32)
  | some l => List.zipWith (fun a v => f.round .fp32 (xadd f.rnd (f32 a) v)) l vs

/-- One symbol of rule n, at weight address `a`. A reference reads the file, which may be poisoned (R326). -/
def State.symbol (s : State) (b : Bank) (h : StHeader) (x : StBatch) (f : FmtWord) (n ddep : Nat) (a : Word) (m : RuleSum) :
    Except (RuleStop × RuleSum) RuleSum :=
  match s.segWord a (b.heldRows (0, 2)) with
  | .error e => .error (e, m)
  | .ok y =>
    if flag y 31 then
      let k := fld y 0 11
      if fld y 11 20 ≠ 0 then .error (.fail .illegal a, m)
      else if k < n && b.bad.contains .stitch then .error (.again .uncorr 0, m)
      else match (if k < n then b.stitch.file.find? k else none) with
        | none => .error (.fail .storder a, m)
        | some e =>
          let dep := Nat.max m.dep (e.depth + 1)
          if dep > ddep then .error (.fail .stdepth a, m)
          else .ok { m with dep := dep, refs := m.refs + 1
                            sum := some (addValues f m.sum ((e.vals.take x.b).map fun v => f32 v.toNat)) }
    else
      let c := fld y 16 15
      let code := fld y 0 16
      if c ≥ h.width ∨ code ≥ 2 ^ h.vfmt.width then .error (.fail .illegal a, m)
      else
        let (w, bad) := elemOf h.vfmt f.fzi code 0
        match s.inputs b h x f.fzi c { m with ibc := m.ibc || bad } with
        | .error e => .error e
        | .ok (xs, m) => .ok { m with sum := some (addValues f m.sum (xs.map fun v => (w.scale h.vsc).mul v)) }

/-- The header of a rule: its weight address, declared depth and number of symbols (R262, R266). -/
def State.ruleHeader (s : State) (h : StHeader) (n : Nat) (held : Table (BitVec 512) := []) : Except RuleStop (Word × Nat × Nat) :=
  match s.segWord (h.addr + BitVec.ofNat 64 (64 + 4 * n)) held with
  | .error e => .error e
  | .ok entry =>
    let a := h.addr + BitVec.ofNat 64 (4 * entry)
    if 4 * entry + 4 > h.seglen then .error (.fail .illegal a)
    else match s.segWord a held with
      | .error e => .error e
      | .ok hdr =>
        let nsym := fld hdr 0 16
        let ddep := fld hdr 28 4
        if 4 * entry + 4 + 4 * nsym > h.seglen ∨ nsym > 256 ∨ fld hdr 16 12 ≠ 0 then .error (.fail .illegal a)
        else if ddep = 0 ∨ ddep > h.dlim then .error (.fail .stdepth a)
        else .ok (a, ddep, nsym)

/-- The symbols of rule n, and the final check. -/
def State.ruleBody (s : State) (b : Bank) (h : StHeader) (x : StBatch) (f : FmtWord) (n : Nat) (a : Word) (ddep nsym : Nat) :
    Except (RuleStop × RuleSum) RuleSum :=
  let r : Except (RuleStop × RuleSum) RuleSum := (List.range nsym).foldl (fun r i =>
    match r with
    | .error e => .error e
    | .ok m => s.symbol b h x f n ddep (a + BitVec.ofNat 64 (4 + 4 * i)) m) (.ok ({} : RuleSum))
  match r with
  | .error e => .error e
  | .ok m => if m.dep ≠ ddep then .error (.fail .stdepth a, m) else .ok m

/-- A rule's effects on MSTAT and the log, whether it is written or not. -/
def State.ruleSide (s : State) (b : Bank) (ev : StEval) (m : RuleSum) : State × Bank × StEval :=
  (if ev.warned then s else s.warn b m.warn, { b with ibc := b.ibc || m.ibc }, { ev with warned := ev.warned || m.warn.isSome })
/-- What has been read before for the rule in progress is used up. -/
def Bank.dropRule (b : Bank) : Bank := { b with mbuf := b.mbuf.filter fun x => x.id != 0 || x.step == 0 }
/-- A rule is written (R266). -/
def Bank.writeRule (b : Bank) (x : StBatch) (ev : StEval) (m : RuleSum) : Bank :=
  let vals := m.sum.getD (List.replicate x.b 0)
  let e : StEntry := ⟨(vals ++ List.replicate (8 - x.b) 0).map (BitVec.ofNat 32), m.dep⟩
  { b with stitch := { b.stitch with file := b.stitch.file.put ev.rule e
                                     rulesEvaluated := b.stitch.rulesEvaluated + 1
                                     refsReused := b.stitch.refsReused + BitVec.ofNat 64 m.refs
                                     eval := some { ev with rule := ev.rule + 1, paid := false } } }
/-- A rule stops (R268): an STEVAL whose rule fails is finished. -/
def State.ruleStop (s : State) (b : Bank) (ev : StEval) (r : RuleStop) : State :=
  let core := s.cur.core
  let seat := s.cur.seat
  let up (s : State) (b : Bank) (t : Trap) : State :=
    let b := b.dropRule
    (s.dropTokWait b.job fun _ => true).raise core seat b .m (b.trapRec .m t b.mS.wclr)
  match r with
  | .stall t a => (s.put { b with stitch := { b.stitch with eval := some ev } }).mStall
      { b with stitch := { b.stitch with eval := some ev } } t a
  | .fail c a => up s { b with stitch := { b.stitch with eval := none } } { cause := c, addr := a, past := true }
  | .again c a => up s { b with stitch := { b.stitch with eval := some { ev with paid := false } } } (mkTrap c a)

/-- STITCH_RULE_EVAL (`ev.core`, `ev.seat`): the rule an STEVAL in progress is at: its header is checked and its tokens are spent; then its
symbols are evaluated, with the parts of its inputs and the rows that have been read before (R192, R269). Its reads come after the stream's
earlier loads and products, which also makes its traps precise (R230, R267, R268). -/
def execStitchRuleEval (s : State) : Host.Outcome State Fault Refusal :=
  let s := { s with cur := { s.cur with eng := .m } }
  match s.eventBank with
  | none => .next s
  | some b =>
    match b.stitch.eval, b.stitch.header, b.stitch.batch with
    | some ev, some h, some x =>
      if ev.rule > ev.last || b.mS.trapped || b.stopped || b.frozen.isSome || (s.core s.cur.core).stOwner != some s.cur.seat
          || s.mOrder b s.nextId || b.prods.any (!·.allApplied) then .next s
      else match s.readAhead b s.nextId with
      | none => .next s
      | some (s, b) => match fmtWord ev.fw, s.ruleHeader h ev.rule (b.heldRows (0, 2)) with
        | none, _ => .next s
        | some _, .error r => .next (s.ruleStop b ev r)
        | some f, .ok (a, ddep, nsym) =>
          if !ev.paid then
            match s.spend s.cur.core ⟨s.cur.core, b.job, 3⟩ ((nsym + 16) / 16) with
            | .queued s => .next s
            | .wait => .next s
            | .paid s => .next (s.put { b with stitch := { b.stitch with eval := some { ev with paid := true } } })
          else
            match s.ruleBody b h x f ev.rule a ddep nsym with
            | .error (r, m) =>
              let (s, b, ev) := s.ruleSide b ev m
              .next (s.ruleStop b ev r)
            | .ok m =>
              let (s, b, ev) := s.ruleSide b ev m
              .next (s.put ({ b.dropRule with mS := { b.mS with scrub := none } }.writeRule x ev m))
    | _, _, _ => .next s

/-! ## STEVAL, STOUT, STSTAT (R275 to R277) -/

/-- STEVAL: the word, the checks, then the rules by STITCH_RULE_EVAL. -/
def execSteval (a r : Fin 16) (s : State) : Host.Outcome State Fault Refusal :=
  stitchInst false (fun s b =>
    match b.stitch.eval with
    | some ev =>
      if ev.rule > ev.last then .ok (s.stitchEnd { b with stitch := { b.stitch with eval := none } }) .passed false else .wait
    | none => popWord (fun w _ s b =>
      match b.stitch.batch, b.stitch.header with
      | some _, some h =>
        let first := b.getH a
        let last := b.getH r
        if last.toNat ≥ h.rules then .trap (mkTrap .storder last) s
        else if first.toNat > last.toNat then .trap (mkTrap .storder first) s
        else .begun (s.put { (s.issueSignal b).noWord with
          stitch := { b.stitch with eval := some { rule := first.toNat, last := last.toNat, fw := w } } })
      | _, _ => .trap (mkTrap .illegal) s) s b) s

/-- The value of output j for vector b. -/
def Bank.topValue (b : Bank) (h : StHeader) (j i : Nat) : XVal :=
  match b.stitch.file.find? (h.rules - h.tops + j) with
  | some e => f32 ((e.vals[i]?).getD 0).toNat
  | none => .zero
/-- The first top rule that is not valid raises STORDER at its rule header. -/
def State.topTrap (s : State) (b : Bank) (h : StHeader) : Option Trap :=
  match (List.range h.tops).find? fun j => (b.stitch.file.find? (h.rules - h.tops + j)).isNone with
  | none => none
  | some j =>
    match s.segWord (h.addr + BitVec.ofNat 64 (64 + 4 * (h.rules - h.tops + j))) with
    | .ok entry => some (mkTrap .storder (h.addr + BitVec.ofNat 64 (4 * entry)))
    | .error (.fail c a) | .error (.again c a) => some (mkTrap c a)
    | .error (.stall _ _) => none

/-- STOUT. -/
def execStout (z : Fin 4) (kind : Fin 64) (tab : Fin 16) (s : State) : Host.Outcome State Fault Refusal :=
  stitchInst false (fun s b =>
    if kind = 0 && b.tileBusy z then .wait
    else popWord (fun w f s b =>
      match b.stitch.batch, b.stitch.header with
      | some x, some h =>
        match s.topTrap b h with
        | some t => .trap t s
        | none =>
          if kind = 0 then
            if b.zk.getLsbD z then .trap (mkTrap .illegal w) s
            else if h.ocol + h.tops > 64 then .trap (mkTrap .illegal (BitVec.ofNat 64 h.tops)) s
            else payThen 2 s b fun s =>
              let t := tileOf fun i n =>
                let e := tileElem b.z[z] i n
                if i < x.b && h.ocol ≤ n && n < h.ocol + h.tops then
                  f.round .fp32 (xadd f.rnd (f32 e) ((b.topValue h (n - h.ocol) i).scale f.osc))
                else e
              .ok (s.stitchEnd (b.noWord.setTile z false t)) .next false
          else
            let dst := b.getH tab
            let bits := f.out.width * h.tops
            let stride := (h.tops + 63) / 64 * f.out.rowBytes
            match s.mCheck b dst ((x.b - 1) * stride + (bits + 7) / 8) 64 with
            | some t => .trap t s
            | none => if !s.requestFree s.cur.core then .wait else payThen 2 s b fun s =>
              -- bits above the last element of a row's last byte are not stated
              let (free, s) := s.draw
              let row (i : Nat) : Nat × List Byte :=
                let v := (List.range h.tops).foldr
                  (fun j acc => acc * 2 ^ f.out.width + f.round f.out ((b.topValue h j i).scale f.osc) % 2 ^ f.out.width)
                  (free / 256 ^ i % 256)
                (dst.toNat + i * stride, leBytes v ((bits + 7) / 8))
              let rows := (List.range x.b).map row
              match s.readAhead b s.nextId with
              | none => .wait
              | some (s, b) =>
                let s := s.postRows b s.nextId rows s.cur.ann.late
                .ok ({ s with nextId := s.nextId + 1 }.stitchEnd b.noWord) .next true
      | _, _ => .trap (mkTrap .illegal) s) s b) s

/-- STSTAT. -/
def execStstat (d : Fin 16) (n : Fin 3) (s : State) : Host.Outcome State Fault Refusal :=
  stitchInst false (fun s b =>
    let v := match n with | 0 => b.stitch.rulesEvaluated | 1 => b.stitch.refsReused | 2 => b.stitch.cycles
    .ok (s.put (b.setH d v)) .next false) s

end Sys2Proof.Machine
end

