-- ==== Sys2Proof/Machine/System.lean ====
section
/-! DEFINITION. System instructions and traps (spec/14_system.md R319 to R324, R331, R340 to R343): TRAP, BRK, the diversion to the
handler, RTE, ERRPOP, TLBI, TLBIA, GPAFL, MONRD and WFE. -/
namespace Sys2Proof.Machine

/-! ## Traps by instruction, the diversion, the return (R319, R323, R324) -/

def execTrap (code : BitVec 16) (s : State) : Host.Outcome State Fault Refusal :=
  issue {} (fun s _ => .trap (mkTrap .swtrap (code.setWidth 64)) s) s
/-- BRK: outside C, TRAPNPC is the next word. -/
def execBrk (code : BitVec 16) (s : State) : Host.Outcome State Fault Refusal :=
  let t : Trap := { cause := .brk, addr := code.setWidth 64, past := s.cur.eng != .c }
  issue {} (fun s _ => .trap t s) s

/-- TRAP_DIVERSION (`ev.core`, `ev.seat`): at an instruction boundary C enters its handler; what its interrupted instruction has asked
for is withdrawn, to be asked for again. -/
def execTrapDiversion (s : State) : Host.Outcome State Fault Refusal :=
  let core := s.cur.core
  match s.eventBank with
  | none => .next s
  | some b =>
    if b.canDivert then .next (((s.withdraw core b).dropStale b.job .c).put { b.divert with cS := { b.divert.cS with scrub := none } })
    else .next s

/-- What the resumed stream does with its interrupted instruction (R158, R258, R323). `pos`: where M stood. -/
def resumeStream (pos trapc : Nat) (b : Bank) (e : Engine) (prog : Nat) : Bank :=
  let same := (b.ctl e).pc == trapc
  match e with
  | .a => b.resumeA same prog
  | .m => b.resumeM pos trapc prog same
  | _ => b
/-- A job ended by its handler: nothing of its instructions goes on (R323). -/
def Bank.endWork (b : Bank) : Bank :=
  { b with ainst := none, reqs := [], prods := [], minst := none, mbuf := [], mwpf := [], seam := none, stitch := { b.stitch with eval := none } }
/-- Steal requests of a job are withdrawn. -/
def State.dropSteals (s : State) (job : Nat) : State :=
  { s with cores := s.cores.map fun (n, c) =>
      (n, { c with seats := c.seats.map fun t =>
        { t with live := t.live.map fun b => { b with steals := b.steals.filter (·.1 != job) } } }) }

/-- RTE. -/
def execRte (k : Fin 8) (s : State) : Host.Outcome State Fault Refusal :=
  issue { lvl := .s, ctl := true } (fun s b =>
    let kv := BitVec.ofNat 64 k.val
    if !b.handler || 5 ≤ k.val || b.trap.strm ≠ kv then .trap (mkTrap .illegal kv) s
    else
      let trapc := b.trap.c.toNat
      let fin := flag b.trap.fl.toNat 11
      let moved := k.val = 0 ∧ b.kept.any (fun x => x.pc != trapc)
      let b' := b.ret (resumeStream b.mS.pc trapc)
      let b' := if fin then b'.endWork else b'
      let s := if fin ∨ (k.val = 1 ∧ b'.ainst.isNone) then s.dropStale b.job .a else s
      let s := if fin ∨ moved then (s.withdraw s.cur.core b).dropSteals b.job else s
      .ok (s.put b') .set false) s

/-! ## ERRPOP (R329 to R331) -/

/-- The high word of a log entry in a seat's part (R330). -/
def LogEntry.high (x : LogEntry) (core seat : Nat) : Word :=
  BitVec.ofNat 64 (x.kind * 2 ^ 58 + b2n x.spec * 2 ^ 57 + x.strm * 2 ^ 54 + seat * 2 ^ 52 + core * 2 ^ 41 + x.cid * 2 ^ 29
    + x.detail % 2 ^ 29)
/-- What a part offers: its oldest entry of an accepted CID, or its overflow counter. -/
def LogPart.oldest (p : LogPart) (ok : Nat → Bool) : Option (Nat × LogEntry) :=
  match List.find? (fun (x : Nat × LogEntry) => ok x.2.cid) p.entries with
  | some x => some x
  | none => if p.dropped ≠ 0 ∧ ok p.dropCid then some (p.dropOrder, ⟨7, false, 7, p.dropCid, p.dropped, 0⟩) else none
/-- The part without that entry. -/
def LogPart.remove (p : LogPart) (order : Nat) : LogPart :=
  if p.entries.any (·.1 == order) then { p with entries := p.entries.filter (·.1 != order) } else { p with dropped := 0 }
/-- The oldest accepted entry of a core, with its seat. -/
def Core.oldest (c : Core) (ok : Nat → Bool) : Option (Nat × Nat × LogEntry) :=
  ([0, 1, 2, 3].filterMap fun i => (c.log[Fin.ofNat 4 i].oldest ok).map fun x => (i, x.1, x.2)).foldl
    (fun best x => match best with | none => some x | some y => if x.2.1 < y.2.1 then some x else best) none
/-- The register after an even code. -/
def CReg.next : CReg → CReg
  | .k i => .k (i + 1) | .p i => .p (i + 1) | .l i => .l (i + 1) | .q i => .q (i + 1) | .zr => .zr

/-- ERRPOP. -/
def execErrpop (d : CReg) (s : State) : Host.Outcome State Fault Refusal :=
  issue { lvl := .s, regs := [d, CReg.next d] } (fun s b =>
    let core := s.cur.core
    let c := s.core core
    let ok (x : Nat) : Bool := b.level .c == .h || x % 128 == b.vf
    match c.oldest ok with
    | none => .ok (s.put ((b.setC d 0).setC (CReg.next d) 0)) .next false
    | some (i, order, x) =>
      let j := Fin.ofNat 4 i
      let s := s.setCore core { c with log := c.log.set j (c.log[j].remove order) }
      .ok (s.put ((b.setC d x.addr).setC (CReg.next d) (x.high core i))) .next false) s

/-! ## Translation maintenance (R340, R341) -/

/-- An access of a VF to a location that is not performed, was posted before `mark` and meets a test; a destination unit of a copy in
progress is one access for each of its lines (R194). -/
def State.busyBefore (s : State) (mark : Nat) (f : Nat → Loc → Bool) : Bool :=
  s.acc.any (fun a => a.id < mark && a.elems.any fun x => !x.done && f a.vf x.loc)
    || s.copies.any fun r => !r.finished && r.xl.any fun (_, (n, tab)) => n < mark && tab.any fun (_, l) => f r.vf l
/-- An instruction that acts at once and then waits for accesses in flight: its checks and first wait (`start`), and what it waits
for. -/
def flushInst (lvl : Lvl) (regs : List CReg) (start : State → Bank → Res State) (busy : Bank → Nat → Loc → Bool) (s : State) :
    Host.Outcome State Fault Refusal :=
  issue { lvl := lvl, regs := regs } (fun s b =>
    match b.cS.stage with
    | .posted mark => if s.busyBefore mark (busy b) then .wait else .ok s .passed false
    | _ =>
      match start s b with
      | .ok s _ _ =>
        if s.busyBefore s.nextId (busy b) then
          let b := s.issueSignal b
          .begun (s.put { b with cS := { b.cS with stage := .posted s.nextId } })
        else .ok s .next false
      | r => r) s
/-- The C stream's earlier stores are performed. -/
def State.storesDone (s : State) (b : Bank) : Bool :=
  !(s.acc.any fun a => a.job == b.job && a.eng == .c && a.elems.any fun x => x.write && !x.done)
/-- TLBI and TLBIA: entries of the VF that meet a test. -/
def tlbFlush (regs : List CReg) (bad : Bank → Option Trap) (f : Bank → TlbEntry → Bool) (s : State) :
    Host.Outcome State Fault Refusal :=
  flushInst .s regs (fun s b =>
    match bad b with
    | some t => .trap t s
    | none =>
      if s.storesDone b then .ok { s with tlb := s.tlb.filter fun t => !(t.vf == b.vf && f b t) } .next false else .wait)
    (fun b vf _ => vf == b.vf) s
def execTlbi (a : CReg) (s : State) : Host.Outcome State Fault Refusal :=
  tlbFlush [a] (fun b => if canonical (b.getC a) then none else some (mkTrap .illegal (b.getC a)))
    (fun b t => t.va == vaPage (b.getC a) t.big) s
def execTlbia (s : State) : Host.Outcome State Fault Refusal := tlbFlush [] (fun _ => none) (fun _ _ => true) s

/-- GPAFL's range (R341): its first GPA and its length. -/
def flushRange (v : Nat) : Nat × Nat := if flag v 15 then (fld v 29 23 * 2 ^ 29, 2 ^ 29) else (fld v 16 36 * 65536, 65536)
/-- GPAFL (R194, R341): the lines of the range leave the LLC, each written back to the PA kept with it. -/
def execGpafl (a : CReg) (s : State) : Host.Outcome State Fault Refusal :=
  let inRange (v g : Nat) : Bool := let (lo, n) := flushRange v; lo ≤ g && g < lo + n
  flushInst .h [a] (fun s b =>
    let v := (b.getC a).toNat
    let p := fld v 52 5
    if fld v 57 7 ≠ 0 ∨ fld v 0 15 ≠ 0 ∨ (flag v 15 ∧ fld v 16 13 ≠ 0) ∨ 20 ≤ p ∨ !(s.part p).valid then
      .trap (mkTrap .illegal (b.getC a)) s
    else .ok { s with llc := s.llc.filter fun l => !(l.part == p && inRange v l.gpa) } .next false)
    (fun b _ l => match l with
      | .mem p _ g _ _ => p == fld (b.getC a).toNat 52 5 && inRange (b.getC a).toNat g
      | _ => false) s

/-! ## Monitors and waiting (R342, R343) -/

/-- MONRD: the value a sensor gives is not fixed; its width is. -/
def execMonrd (d a : CReg) (s : State) : Host.Outcome State Fault Refusal :=
  issue { lvl := .s, regs := [d, a] } (fun s b =>
    let v := (b.getC a).toNat
    let kind := fld v 12 4
    let unit := fld v 0 12
    let cluster := if kind < 2 then clusterOf unit else unit
    if v ≥ 65536 ∨ kind ≥ 4 ∨ unit ≥ (if kind < 2 then 1536 else 96)
        ∨ (b.level .c ≠ .h ∧ !(s.part b.part).clusters.getLsbD cluster) then .trap (mkTrap .illegal (b.getC a)) s
    else
      let (f, s) := s.draw
      .ok (s.put (b.setC d (BitVec.ofNat 64 (f % 2 ^ (if kind = 3 then 32 else 16))))) .next false) s

/-- WFE. -/
def execWfe (s : State) : Host.Outcome State Fault Refusal :=
  issueB {} (fun b => if b.wfe then .ok { b with wfe := false } .next false else .wait) s

end Sys2Proof.Machine
end

