-- ==== Sys2Proof/Machine/Banks.lean ====
section
/-! DEFINITION. Banks (R334 to R339, spec/14_system.md; R14, R110, R372): SWAPB, save images, BANKLD, BANKST and BLST, the
background save, and the retirement of a job. -/
namespace Sys2Proof.Machine

/-! ## Save images (R335) -/

/-- Why an access to an image stops: the page is not one an image may lie on, or the address fails. -/
inductive ImgFail where | page | va (f : VaFail)
deriving DecidableEq, Repr
/-- The location of a 64-byte line of an image: pages with W = 1, P = 0, WT = 0. -/
def State.imageLine (s : State) (c : VaCtx) (va : Word) (write : Bool) : Except ImgFail Loc × State :=
  if !canonical va then (.error (.va (.pfault 4)), s)
  else match s.leafOf c va with
  | (.fault k, s) => (.error (.va (.pfault k)), s)
  | (.stage2 g, s) => (.error (.va (.stage2 g true)), s)
  | (.line .integ, s) | (.line .mac, s) => (.error (.va .integ), s)
  | (.line (.refuse t), s) => (.error (.va (.refuse t)), s)
  | (.line _, s) => (.error (.va .uncorr), s)
  | (.leaf e big, s) =>
    if !e.getLsbD 4 || e.getLsbD 6 || e.getLsbD 7 then (.error .page, s)
    else
      let a := leafAddr e big va
      match s.stage2 c.part c.vf a (if write then .write else .read) with
      | (none, s) => (.error (.va (.stage2 a false)), s)
      | (some f, s) =>
        match s.lineCond c.part a f.pa f.key with
        | .refuse t => (.error (.va (.refuse t)), s)
        | .integ => (.error (.va .integ), s)
        | .mac => if write then (.ok (.mem c.part 0 a f.pa f.key), s) else (.error (.va .integ), s)
        | .poison => if write then (.ok (.mem c.part 0 a f.pa f.key), s) else (.error (.va .uncorr), s)
        | .ok => (.ok (.mem c.part 0 a f.pa f.key), s)

/-- The 64 bytes of an image from offset `off` on: its header, then sealed bytes. -/
def imageBytes (n : Nat) (header : List Byte) (off : Nat) : List Byte :=
  if off = 0 then header else (List.range 64).map fun i => Config.sealedByte n (off + i)
/-- The line of an image at offset `off` is moved; the failing address and reason, when it fails. Reading gives the bytes. A whole line is
one request (assumption 121). -/
def State.moveLine (s : State) (c : VaCtx) (va : Word) (write : Option Nat) (off : Nat) : Except (Word × ImgFail) (List Byte) × State :=
  let a := va + BitVec.ofNat 64 off
  match s.imageLine c a write.isSome with
  | (.error f, s) => (.error (a, f), s)
  | (.ok l, s) =>
    match write with
    | none => (.ok (s.readLoc l 64), s)
    | some n => (.ok [], if off = 0 then s else s.writeLoc l (imageBytes n [] off))
/-- The images of a job are no longer kept up to date. -/
def State.oldImages (s : State) (job : Nat) : State :=
  { s with images := s.images.map fun im => if im.bank.job = job then { im with old := true } else im }
/-- The header of an image is written, and the image recorded (R335). -/
def State.imageDone (s : State) (c : VaCtx) (va : Word) (n : Nat) (b : Bank) : Except ImgFail Unit × State :=
  match s.imageLine c va true with
  | (.error f, s) => (.error f, s)
  | (.ok l, s) =>
    let k := s.inflight b.job
    let s := (s.oldImages b.job).writeLoc l (imageHeader n b k)
    (.ok (), { s with images := s.images ++ [⟨n, b, some l, k, false⟩] })
/-- The translation context of a background save: the bank's own, at level S (R337). -/
def Bank.saveCtx (b : Bank) (core : Nat) : VaCtx := ⟨core, .c, b.vf, b.part, .s, false, b.root, b.job⟩
/-- The place of an image has no valid header from now on (R337; assumption 111). -/
def State.spoilImage (s : State) (c : VaCtx) (va : Word) : State :=
  match s.imageLine c va true with
  | (.ok l, s) =>
    let s := s.writeLoc l (List.replicate 64 0)
    { s with images := s.images.filter fun im => im.header != some l }
  | (.error _, s) => s

/-! ## Going out and coming in (R336) -/

/-- A bank goes live: WFE's latch is clear, and its background save ends (R337, R343). -/
def Bank.comeIn (b : Bank) : Bank :=
  { b with wfe := false, saving := false, saved := false, saveStall := none, saveProg := 0, saveLine := 0, evict := none, swapping := false, frozen := none }
/-- The loaded shadow bank of a seat goes live; an EMPTY shadow leaves the seat empty. A background save of the bank that has not
finished ends without a valid header (R337); a VF that leaves the core loses its counters (R129). -/
def State.swapIn (s : State) (core t : Nat) : State :=
  match ((s.core core).seat t).shadow with
  | .loaded b =>
    let s := if b.saving then s.spoilImage (b.saveCtx core) b.saveva else s
    (((s.setLive core t (some b.comeIn)).setShadow core t .empty).oldImages b.job).dropGone core
  | _ => (s.setLive core t none).dropGone core

/-- A stream as it goes out: its fetched-ahead words are discarded, and it gives up its place among the streams stalled on a
refusing target. -/
def Ctl.goOut (c : Ctl) : Ctl := { c with fetched := [], scrub := none }
/-- A bank as it goes out (R158, R200, R259, R265, R283); `owner`: its seat owns the stitch file. -/
def Bank.goOut (b : Bank) (owner : Bool) : Bank :=
  let b := b.swapOutM.saveClaim owner
  { b with
    cS := { b.cS.goOut with stage := b.cS.stage.afterDivert }
    aS := b.aS.goOut
    vS := b.vS.goOut
    mS := b.mS.goOut
    dS := b.dS.goOut
    swapping := false
    frozen := none
    saving := true
    saved := false
    saveStall := none
    saveProg := 0
    saveLine := 0
    wbuf := [] }
/-- What the streams of a job have asked for and have not been given is withdrawn: places of PMALLOC, JOIN and WSEAL, pool lines,
tokens, the stitch file. -/
def State.withdrawAll (s : State) (core seat : Nat) (b : Bank) : State :=
  let s := (((s.withdraw core b).dropStale b.job .c).dropStale b.job .a).dropTokWait b.job fun _ => true
  let p := s.part b.part
  (s.setPart b.part { p with joinWait := p.joinWait.filter (fun w => w.1.job != b.job || w.1.pkg != 0) }).freeStitch core seat b.job
/-- The exchange of a seat's live and shadow banks (R336, cycles 73 to 97). Stream TLBs drop the entries of the outgoing root; steal
requests on the seat are answered empty (R126). -/
def State.exchange (s : State) (core t : Nat) : State :=
  let s := s.answerEmpty core t
  match s.bank core t with
  | none => s.swapIn core t
  | some o =>
    let owner := (s.core core).stOwner == some t
    let s := s.withdrawAll core t o
    let (n, s) := s.fresh
    let out := { o.goOut owner with saveN := n }
    let s := { s with tlb := s.tlb.filter fun (e : TlbEntry) =>
      !(e.core == core && e.eng != Engine.c && e.vf == o.vf && e.root == o.root && !e.leaf.getLsbD 9) }
    (s.swapIn core t).setShadow core t (.loaded out)
/-- The target's outgoing streams still have something to finish: register results of C, a spill or fill, rows of MSTZ, the
reads of MLDZ, a fill of MLDS (R259, R336, cycles 1 to 72); not what stands behind k-steps that the swap abandons. -/
def State.winding (s : State) (o : Bank) : Bool :=
  let stuck := s.swapStuck o
  let held (id : Nat) : Bool := stuck.any fun p => p.id < id && (p.readsSp || p.op == .store)
  o.spill.isSome || o.reqs.any (fun q => !q.fromWeight && q.filling && !held q.id)
    || o.prods.any (fun p => !p.allApplied && !stuck.contains p)
    || s.acc.any fun a => a.job == o.job && match a.kind with
      | .load .. => a.eng == .c | .amo .. => true | .tile => !held a.id | _ => false

/-! ## Seat selectors (R336) -/

def seatSel (w : Word) : Nat := w.toNat % 4
/-- A nonzero bit above the selector; below level H, a live or shadow bank of another VF. -/
def State.selBad (s : State) (b : Bank) (w : Word) : Bool :=
  let t := (s.core s.cur.core).seat (seatSel w)
  4 ≤ w.toNat || (b.level .c != .h && [t.live, t.shadow.bank].any fun o => o.any (·.vf != b.vf))

/-- SWAPB. It is no instruction of an operation that BLST records as in progress (ILLEGAL at BLST, R339). It issues once and is then never
interrupted: it waits for the shadow, for another SWAPB, stops the target's streams, waits for what they have to finish, and exchanges the
banks. -/
def execSwapb (a : CReg) (s : State) : Host.Outcome State Fault Refusal :=
  issue { lvl := .s, regs := [a] } (fun s b =>
    let core := s.cur.core
    let w := b.getC a
    let t := seatSel w
    if b.cS.stage ≠ .second then
      if s.selBad b w then .trap (mkTrap .illegal w) s
      else if b.blst.act then .trap (mkTrap .illegal b.blst.word) s
      else
        let b := s.issueSignal b
        .begun (s.put { b with swapping := true, cS := { b.cS with stage := .second },
                               blst := { b.blst with act := true, fail := false, tseat := t, op := 2 } })
    else
      let seat := (s.core core).seat t
      let self := t == s.cur.seat
      match seat.shadow with
      | .loading _ => .wait
      | _ =>
        let done (b : Bank) : Bank := { b with swapping := false, blst := { b.blst with act := false, fail := false, step := 2 } }
        match seat.live with
        | none => .ok ((s.put (done b)).exchange core t) .passed false
        | some o =>
          if o.frozen = some b.job then
            if s.winding o then .wait
            else if self then .hold ((s.finish core t (done b) .c s.cur.ann .passed false).exchange core t)
            else .ok ((s.put (done b)).exchange core t) .passed false
          else if o.frozen.isSome || (o.swapping && !self) then .wait
          else .hold (s.setBank core t { o with frozen := some b.job })) s

/-! ## BANKLD and BANKST (R338, R339) -/

/-- The translation context of a bank operation. -/
def BankOp.ctx (o : BankOp) : VaCtx := ⟨o.core, .c, o.vf, o.part, o.lvl, false, o.root, o.issuer⟩
/-- The operation of a bank that is in progress. -/
def State.opOf (s : State) (job : Nat) : Option BankOp := s.bankOps.find? (·.issuer == job)
def State.setOp (s : State) (o : BankOp) : State :=
  { s with bankOps := s.bankOps.map fun x => if x.issuer = o.issuer then o else x }
/-- The code of a fault that its instruction raises later: kinds 0 to 7 of PFAULT1, PFAULT2, ILLEGAL, INTEG, UNCORR, BANKSCRUB. -/
def opTrap (k : Nat) (a : Word) : Trap :=
  if k < 8 then { cause := .pfault1, addr := a, pfk := k }
  else if k = 8 then mkTrap .pfault2 a
  else if k = 9 then mkTrap .illegal a
  else if k = 10 then mkTrap .integ a
  else if k = 12 then mkTrap .bankscrub a
  else mkTrap .uncorr a
/-- A failed access of an operation: it stalls or is tried again, or its instruction raises the fault. -/
def State.opFail (s : State) (o : BankOp) (va : Word) (f : ImgFail) : State :=
  let fault (k : Nat) (a : Word) : State := s.setOp { o with fault := some (k, a), raised := false }
  match f with
  | .page => fault 9 va
  | .va (.pfault k) => fault k va
  | .va .integ => fault 10 va
  | .va (.refuse t) =>
    if o.refused.map (·.target) = some t then s
    else { s with nextId := s.nextId + 1 }.setOp { o with refused := some ⟨s.nextId, t, va⟩ }
  | .va (.stage2 g walk) =>
    if o.lvl = .h then fault 8 (BitVec.ofNat 64 g)
    else
      let seq := s.dev.pfBox.seq
      let seat := match s.findJob o.issuer with | some (.live _ i, _) => i | some (.shadow _ i, _) => i | _ => 0
      (s.stage2Report o.core seat .c o.vf o.part va g (b2n (!o.load)) walk).setOp { o with s2stall := some seq }
  | .va _ => fault 11 va

/-- The checks of both instructions. -/
def State.bankCheck (s : State) (b : Bank) (a w : Word) : Option Trap :=
  if a.toNat % 65536 ≠ 0 then some (mkTrap .misalign a)
  else if s.selBad b w then some (mkTrap .illegal w)
  else none
/-- The issue of BANKLD and BANKST: an operation in progress or its recorded result is taken up; otherwise `start`. -/
def bankInst (op : Nat) (a b : CReg) (start : State → Bank → Res State) (s : State) : Host.Outcome State Fault Refusal :=
  issue { lvl := .s, regs := [a, b] } (fun s x =>
    let va := x.getC a
    let w := x.getC b
    let same := x.blst.op == op && x.blst.tseat == seatSel w
    match s.bankCheck x va w with
    | some t => .trap t s
    | none =>
      if x.blst.act then
        if !same then .trap (mkTrap .illegal x.blst.word) s
        else match s.opOf x.job with
          | some o =>
            match o.fault with
            | some (k, at_) =>
              if o.raised then .hold (s.setOp { o with fault := none, raised := false })
              else .trap (opTrap k at_) (s.setOp { o with raised := true })
            | none => .wait
          | none => .wait
      else if x.cS.stage == .second && same && x.blst.step == op then
        if x.blst.fail then .trap (mkTrap .illegal va) (s.put { x with cS := { x.cS with stage := .fresh } }) else .ok s .passed false
      else start s x) s
/-- An operation begins: BLST says so, and the instruction waits for its end. -/
def State.beginOp (s : State) (x : Bank) (o : BankOp) (op : Nat) : State :=
  let x := s.issueSignal x
  { s with bankOps := s.bankOps ++ [o] }.put { x with
    cS := { x.cS with stage := .second }
    blst := { x.blst with prog := 0, act := true, fail := false, tseat := o.tseat, op := op } }

/-- BANKLD (R338): INFLIGHT is read until it is 0, then the shadow is LOADING. -/
def execBankld (a b : CReg) (s : State) : Host.Outcome State Fault Refusal :=
  bankInst 1 a b (fun s x =>
    let core := s.cur.core
    let va := x.getC a
    let w := x.getC b
    let t := seatSel w
    if ((s.core core).seat t).shadow ≠ .empty then .trap (mkTrap .illegal w) s
    else match s.imageLine (x.vaCtx core .c) va false with
      | (.error .page, s) => .trap (mkTrap .illegal va) s
      | (.error (.va f), s) => s.vaStop x .c va va 0 0 f
      | (.ok l, s) =>
        if leNat ((s.readLoc l 12).drop 8) ≠ 0 then .wait
        else
          let o : BankOp := { core := core, issuer := x.job, tseat := t, va := va, load := true, lvl := x.level .c, vf := x.vf,
                              part := x.part, root := x.root, cands := s.images.map (·.n) }
          .begun ((s.beginOp x o 1).setShadow core t (.loading none))) s

/-- BANKST (R338): a bank that has been saved there already is given up at once; else its image is written. -/
def execBankst (a b : CReg) (s : State) : Host.Outcome State Fault Refusal :=
  bankInst 3 a b (fun s x =>
    let core := s.cur.core
    let va := x.getC a
    let w := x.getC b
    let t := seatSel w
    match ((s.core core).seat t).shadow with
    | .loading _ => .wait
    | .empty => .trap (mkTrap .illegal w) s
    | .loaded o =>
      if o.saving then .wait
      else if va = o.saveva ∧ o.saved then
        let x := { x with blst := { x.blst with prog := 0, fail := false, tseat := t, op := 3, step := 3 } }
        .ok ((s.put x).setShadow core t .empty) .next false
      else
        let (n, s) := s.fresh
        let op : BankOp := { core := core, issuer := x.job, tseat := t, va := va, load := false, lvl := x.level .c, vf := x.vf,
                             part := x.part, root := x.root, n := n, subject := o.job }
        .begun (s.beginOp x op 3)) s

/-- One line of an operation is moved, or the operation stalls or faults with PROG kept: BLST.PROG rises at the end of a 4 KiB unit. A line
that is read leaves the images it agrees with. -/
def State.bankUnit (s : State) (n : Nat) : State :=
  match s.bankOps[n]? with
  | none => s
  | some o =>
    match s.findJob o.issuer with
    | none => s
    | some (_, b) =>
      let u := b.blst.prog
      if o.fault.isSome || o.s2stall.isSome || !(o.refused.all s.stallFirst) || 64 ≤ u then s
      else match s.moveLine o.ctx o.va (if o.load then none else some o.n) (4096 * u + 64 * o.line) with
        | (.error (va, f), s) => s.opFail o va f
        | (.ok bytes, s) =>
          let agrees (im : SaveImage) : Bool :=
            bytes == imageBytes im.n (imageHeader im.n im.bank im.inflight) (4096 * u + 64 * o.line)
          let o : BankOp := { o with refused := none }
          let o : BankOp := if o.load then { o with cands := (s.images.filter fun im => o.cands.contains im.n && agrees im).map (·.n) } else o
          if o.line < 63 then s.setOp { o with line := o.line + 1 }
          else (s.setOp { o with line := 0 }).mapJob o.issuer fun b => { b with blst := { b.blst with prog := u + 1 } }

/-- An operation ends: its result is recorded in the issuer's BLST, wherever its bank is (R339). -/
def State.endOp (s : State) (o : BankOp) (fail : Bool) : State :=
  { s with bankOps := s.bankOps.filter (·.issuer != o.issuer) }.mapJob o.issuer fun b =>
    { b with blst := { b.blst with act := false, fail := fail, step := if o.load then 1 else 3 } }
/-- The bank an image holds, as it is loaded: SAVEVA is the image's address. An image of a bank that has gone live since loads as a job
of its own. -/
def State.loadImage (s : State) (o : BankOp) (im : SaveImage) : State :=
  let (job, s) := if im.old then s.fresh else (im.bank.job, s)
  let b := { im.bank with job := job, saveva := o.va, saving := false, saved := false, saveStall := none, saveProg := 0, saveLine := 0 }
  (s.oldImages im.bank.job).setShadow o.core o.tseat (.loaded b)
/-- BANK_OPERATION_DONE (`ev.idx`: the operation): the whole image has been moved. BANKLD checks it: MAGIC, tag, CID and LVL; BANKST writes
the header. No bank is loaded outside the clusters of its VF's partition (R345; assumption 116). An operation whose faulting instruction's
job has ended is given up. -/
def execBankOperationDone (s : State) : Host.Outcome State Fault Refusal :=
  match s.bankOps[s.cur.ev.idx]? with
  | none => .next s
  | some o =>
    match s.findJob o.issuer with
    | none => .next s
    | some (_, b) =>
      if o.fault.isSome ∧ b.ended then .next ((if o.load then s.setShadow o.core o.tseat .empty else s).endOp o true)
      else if o.fault.isSome || o.s2stall.isSome || !(o.refused.all s.stallFirst) || b.blst.prog < 64 then .next s
      else if o.load then
        let fits (im : SaveImage) : Bool :=
          o.cands.contains im.n && (o.lvl == .h || (im.bank.vf == o.vf && im.bank.part == o.part)) && im.bank.lvl.le o.lvl
            && im.bank.part == (s.vf im.bank.vf).partition && s.coreInPart o.core im.bank.part
        match s.images.find? fits with
        | some im =>
          -- a bank that is loaded into an empty seat goes live (R14)
          let s := (s.loadImage o im).endOp o false
          .next (if (s.bank o.core o.tseat).isNone then s.swapIn o.core o.tseat else s)
        | none => .next ((s.setShadow o.core o.tseat .empty).endOp o true)
      else
        match ((s.core o.core).seat o.tseat).shadow with
        | .loaded x =>
          if x.job ≠ o.subject then .next (s.endOp o true)
          else match s.imageDone o.ctx o.va o.n { x with saveva := o.va } with
            | (.error f, s) => .next (s.opFail o o.va f)
            | (.ok _, s) => .next ((s.setShadow o.core o.tseat .empty).endOp o false)
        | _ => .next (s.endOp o true)

/-! ## The background save (R337) -/

/-- A failed access of a background save: it stalls, is tried again, or ends with a SAVEFAULT report. -/
def State.saveFail (s : State) (core seat : Nat) (b : Bank) (va : Word) (f : ImgFail) : State :=
  let fault (d : Nat) : State :=
    (s.setShadow core seat (.loaded { b with saving := false })).reportVf b.vf
      { type := 0xC, cid := b.cid, seat := seatNo core seat, a1 := b.saveva.toNat, a2 := va.toNat, detail := d }
  match f with
  | .page => fault 8
  | .va (.pfault k) => fault k
  | .va (.stage2 g walk) =>
    let seq := s.dev.pfBox.seq
    (s.reportPf { type := 4, walk := walk, cid := b.cid, seat := seatNo core seat, a1 := va.toNat, a2 := g, detail := 1 }).setShadow
      core seat (.loaded { b with saveStall := some seq })
  | .va (.refuse _) => s
  | .va _ => fault 0
/-- One line of a background save; its progress counts 4 KiB units. -/
def State.saveUnit (s : State) (core seat : Nat) : State :=
  match ((s.core core).seat seat).shadow with
  | .loaded b =>
    if !b.saving || b.saveStall.isSome || 64 ≤ b.saveProg then s
    else match s.moveLine (b.saveCtx core) b.saveva (some b.saveN) (4096 * b.saveProg + 64 * b.saveLine) with
      | (.error (va, f), s) => s.saveFail core seat b va f
      | (.ok _, s) =>
        s.setShadow core seat (.loaded (if b.saveLine < 63 then { b with saveLine := b.saveLine + 1 }
          else { b with saveLine := 0, saveProg := b.saveProg + 1 }))
  | _ => s
/-- BACKGROUND_SAVE_DONE (`ev.core`, `ev.seat`): the header is written last. -/
def execBackgroundSaveDone (s : State) : Host.Outcome State Fault Refusal :=
  let core := s.cur.core
  let seat := s.cur.seat
  match ((s.core core).seat seat).shadow with
  | .loaded b =>
    if !b.saving || b.saveStall.isSome || b.saveProg < 64 then .next s
    else
      let b' := { b with saving := false, saved := true }
      match s.imageDone (b.saveCtx core) b.saveva b.saveN b' with
      | (.error f, s) => .next (s.saveFail core seat b b.saveva f)
      | (.ok _, s) => .next (s.setShadow core seat (.loaded b'))
  | _ => .next s

/-! ## Retirement (R14, R110, R323, R372, R375) -/

/-- A completion word: its status and the low bits of the packet's ID (R372). -/
def State.completionWord (s : State) (vf part : Nat) (i : JobInfo) (status : Nat) : State :=
  if i.cmpl = 0 then s else s.putWord { vf := vf, part := part, gpa := i.cmpl, val := status * 2 ^ 56 + i.pktId.toNat % 2 ^ 32 }
/-- A node of a graph has ended. -/
def State.endNode (s : State) (graph node : Nat) : State :=
  { s with graphs := s.graphs.map fun (g : Graph) =>
      if g.id = graph then { g with nodes := g.nodes.mapIdx fun i (x : GraphNode) => if i = node then { x with ended := true } else x } else g }
/-- A job leaves the machine: groups, supersteps, places and requests of its own (R110, R121, R124). -/
def State.forget (s : State) (core seat : Nat) (b : Bank) : State :=
  let s := (s.answerEmpty core seat).withdrawAll core seat b
  let s := Engine.all.foldl (fun s e => s.leaveAll b.part ⟨b.job, e, 0⟩) s
  let p := s.part b.part
  let s := s.setPart b.part { p with ssArrived := p.ssArrived.filter (· != b.job), ssReleased := p.ssReleased.filter (· != b.job) }
  ((s.dropJobWaits b.job).dropSteals b.job).oldImages b.job
/-- Nothing of a job remains to be done: its streams are done, or it was ended by its handler; no trap that its handler is to take, request
or access is left. When C executes RDV in its handler, nothing is left that could take a trap (R110). A
LOADING shadow is waited for (R338), but not one whose loading waits for this job to retire (R374). -/
def State.mayRetire (s : State) (core seat : Nat) (b : Bank) : Bool :=
  (b.ended || Engine.all.all fun e => !(b.ctl e).started || (b.ctl e).done)
    && ((!b.handling && !b.handler) || (b.handler && b.cS.done)) && !b.stopped && !b.swapping && b.frozen.isNone
    && s.inflight b.job == 0 && !(s.sigs.any (·.job == b.job)) && (s.opOf b.job).isNone
    && (match ((s.core core).seat seat).shadow with
        | .loading _ => s.launches.any fun l => l.target == some (core, seat) && l.record.clashes b
        | _ => true)
/-- JOB_RETIRE (`ev.core`, `ev.seat`). -/
def execJobRetire (s : State) : Host.Outcome State Fault Refusal :=
  let core := s.cur.core
  let seat := s.cur.seat
  match s.eventBank with
  | none => .next s
  | some b =>
    if !s.mayRetire core seat b then .next s
    else
      let s := (s.forget core seat b).completionWord b.vf b.part b.info 0
      let s := match b.info.graph with | some (g, n) => s.endNode g n | none => s
      .next (((s.setLive core seat none).swapIn core seat).settleSuperstep b.part)

end Sys2Proof.Machine
end

