-- ==== Sys2Proof/Machine/Atomics.lean ====
section
/-! DEFINITION. FENCE, the AMO family and AFADD (spec/08_ordering.md R195 to R199). -/
namespace Sys2Proof.Machine

/-- FENCE (R195). In V it has no effect; elsewhere it leaves a marker that later accesses respect, unless nothing is pending. -/
def execFence (scope : Scope) (kinds : BitVec 4) (s : State) : Host.Outcome State Fault Refusal :=
  issue {} (fun s b =>
    let e := s.cur.eng
    let busy := s.streamBusy b e || (e == .d && s.copies.any (·.job == b.job)) || (e == .c && s.sigs.any (·.job == b.job))
      || !s.othersAt b.job s.cur.core s.cur.seat e scope
    if e = .v || !busy then .ok s .next false
    else .ok (s.post b 0 (.fence kinds) 0 [] false false s.cur.ann.late scope) .next true) s

/-- How an atomic uses its page: the checks of a store; a failing AMOCAS writes nothing (R168, R197). -/
def useAtomic (writes : Bool) : Use := { write := true, writes := writes, atomic := true }

/-- The value at a location as an atomic reads it. -/
def State.oldAt (s : State) (l : Loc) (n : Nat) : Nat := leNat (s.view s.cur.core s.cur.seat l n)

/-- An atomic on a VA (R197): checked as a store, performed later as one action. -/
def cAtomic (op : AmoOp) (o : CaArgs) (c : CReg) (s : State) : Host.Outcome State Fault Refusal :=
  issue { regs := [o.d, o.a, o.b, c] } (fun s x =>
    let va := x.getC o.a
    cVaAccess (.amo op o.d o.size (x.getC o.b) (x.getC c)) va va o.size.bytes x.pmC.toNat (useAtomic true) [] o.acq o.rel o.scope s x) s

def execAmoadd (o : CaArgs) (s : State) := cAtomic .add o .zr s
def execAmoand (o : CaArgs) (s : State) := cAtomic .and o .zr s
def execAmoor (o : CaArgs) (s : State) := cAtomic .or o .zr s
def execAmoxor (o : CaArgs) (s : State) := cAtomic .xor o .zr s
def execAmomin (o : CaArgs) (s : State) := cAtomic .min o .zr s
def execAmomax (o : CaArgs) (s : State) := cAtomic .max o .zr s
def execAmominn (o : CaArgs) (s : State) := cAtomic .minn o .zr s
def execAmomaxn (o : CaArgs) (s : State) := cAtomic .maxn o .zr s
def execAmoswp (o : CaArgs) (s : State) := cAtomic .swp o .zr s
def execAfadd (o : CaArgs) (s : State) := cAtomic .fadd o .zr s

/-- AMOCAS (R197). Under a postmark, on a line without a cell and without a pool line, it is held like every C write (R171)
until its turn comes, and then compared: when the comparison fails it is a read, needs no line and completes at once (R168);
else it asks for a line and goes on as the other atomics. -/
def execAmocas (o : CaArgs) (c : CReg) (s : State) : Host.Outcome State Fault Refusal :=
  issue { regs := [o.d, o.a, o.b, c] } (fun s x =>
    let va := x.getC o.a
    let n := o.size.bytes
    let z := (x.getC c).toNat % 2 ^ (8 * n)
    let kind : AccKind := .amo .cas o.d o.size (x.getC o.b) (x.getC c)
    match s.checkVa (x.vaCtx s.cur.core .c) va n x.pmC.toNat (useAtomic true) with
    | (.error f, s) => s.vaStop x .c va va 2 0 f
    | (.ok t, s) =>
      let elem : Elem := ⟨t.loc, n, t.ord, true, [], false, false, false, 0⟩
      let noCell := match t.loc with | .mem part m gpa _ _ => m != 0 && ((s.part part).cell m gpa).isNone | _ => false
      let go (s : State) : Res State := .ok (s.post x 0 kind va [elem] o.acq o.rel s.cur.ann.late o.scope) .next true
      if !s.firstStalled x .c || !s.requestFree s.cur.core then .wait
      else if noCell then
        if s.mustWait s.cur.core s.cur.seat x.job .c s.nextId 0 (if o.rel then some o.scope else none) true elem then .wait
        else if s.oldAt t.loc n ≠ z then
          -- a read performed at its turn; a place it held for a pool line is given up
          let s := s.dropStale x.job .c
          let v := BitVec.ofNat 64 (s.oldAt t.loc n)
          .ok (s.setBank s.cur.core s.cur.seat (x.setC o.d v)) .next false
        else if !s.needsLine t.loc then
          let v := BitVec.ofNat 64 (s.oldAt t.loc n)
          .ok ((s.writeLoc t.loc (leBytes (x.getC o.b).toNat n)).setBank s.cur.core s.cur.seat (x.setC o.d v)) .next false
        else if s.asked x.job .c t.loc then .wait
        else .hold (s.askLine x.job .c x.pmWaitLim.toNat va t.loc)
      else go s) s

end Sys2Proof.Machine
end

