-- ==== Sys2Proof/Machine/CArith.lean ====
section
/-! DEFINITION. Register arithmetic, immediates and constants of the control engine (spec/04_control.md R94 to R98). -/
namespace Sys2Proof.Machine

/-! ## The operations -/

/-- Bits [127:64] of the signed product (R95). -/
def mulHigh (a b : Word) : Word := BitVec.ofInt 64 (sx a * sx b / 2 ^ 64)
/-- Bits [127:64] of the unsigned product (R95). -/
def mulHighN (a b : Word) : Word := BitVec.ofNat 64 (ux a * ux b / 2 ^ 64)
/-- DIV (R96). -/
def divS (a b : Word) : Word :=
  if b = 0 then BitVec.allOnes 64
  else if sx a = -2 ^ 63 ∧ sx b = -1 then a
  else BitVec.ofInt 64 (Int.tdiv (sx a) (sx b))
/-- REM (R96). -/
def remS (a b : Word) : Word :=
  if b = 0 then a
  else if sx a = -2 ^ 63 ∧ sx b = -1 then 0
  else BitVec.ofInt 64 (sx a - Int.tdiv (sx a) (sx b) * sx b)
/-- DIVN (R96). -/
def divN (a b : Word) : Word := if b = 0 then BitVec.allOnes 64 else BitVec.ofNat 64 (ux a / ux b)
/-- REMN (R96). -/
def remN (a b : Word) : Word := if b = 0 then a else BitVec.ofNat 64 (ux a % ux b)
/-- Shift amounts are b[5:0] (R95). -/
def shiftAmount (b : Word) : Nat := ux b % 64
def shl (a : Word) (n : Nat) : Word := a <<< n
def shr (a : Word) (n : Nat) : Word := a >>> n
def sra (a : Word) (n : Nat) : Word := a.sshiftRight n
/-- A truth value as 1 or 0. -/
def bool01 (b : Bool) : Word := if b then 1 else 0
/-- The number of leading zero bits among the `n` low bits of `a` (R95). -/
def leadingZeros (a : Word) : Nat → Nat
  | 0 => 0
  | n + 1 => if a.getLsbD n then 0 else leadingZeros a n + 1
/-- The number of one bits among the `n` low bits of `a` (R95). -/
def onesCount (a : Word) : Nat → Nat
  | 0 => 0
  | n + 1 => (if a.getLsbD n then 1 else 0) + onesCount a n

/-! ## The shapes -/

/-- A result of two registers (form CR). -/
def cOp2 (f : Word → Word → Word) (d a b : CReg) (s : State) : Host.Outcome State Fault Refusal :=
  issueR { regs := [d, a, b] } (fun x => x.setC d (f (x.getC a) (x.getC b))) s
/-- A result of one register. -/
def cOp1 (f : Word → Word) (d a : CReg) (s : State) : Host.Outcome State Fault Refusal :=
  issueR { regs := [d, a] } (fun x => x.setC d (f (x.getC a))) s

/-! ## Form CR (R95, R96) -/

def execAdd (d a b : CReg) (s : State) := cOp2 (· + ·) d a b s
def execSub (d a b : CReg) (s : State) := cOp2 (· - ·) d a b s
def execMul (d a b : CReg) (s : State) := cOp2 (· * ·) d a b s
def execMulh (d a b : CReg) (s : State) := cOp2 mulHigh d a b s
def execMulhn (d a b : CReg) (s : State) := cOp2 mulHighN d a b s
def execDiv (d a b : CReg) (s : State) := cOp2 divS d a b s
def execDivn (d a b : CReg) (s : State) := cOp2 divN d a b s
def execRem (d a b : CReg) (s : State) := cOp2 remS d a b s
def execRemn (d a b : CReg) (s : State) := cOp2 remN d a b s
def execAnd (d a b : CReg) (s : State) := cOp2 (· &&& ·) d a b s
def execOr (d a b : CReg) (s : State) := cOp2 (· ||| ·) d a b s
def execXor (d a b : CReg) (s : State) := cOp2 (· ^^^ ·) d a b s
def execShl (d a b : CReg) (s : State) := cOp2 (fun x y => shl x (shiftAmount y)) d a b s
def execShr (d a b : CReg) (s : State) := cOp2 (fun x y => shr x (shiftAmount y)) d a b s
def execSra (d a b : CReg) (s : State) := cOp2 (fun x y => sra x (shiftAmount y)) d a b s
def execSeq (d a b : CReg) (s : State) := cOp2 (fun x y => bool01 (x == y)) d a b s
def execSlt (d a b : CReg) (s : State) := cOp2 (fun x y => bool01 (decide (sx x < sx y))) d a b s
def execSltn (d a b : CReg) (s : State) := cOp2 (fun x y => bool01 (decide (ux x < ux y))) d a b s
def execMin (d a b : CReg) (s : State) := cOp2 (fun x y => if sx y < sx x then y else x) d a b s
def execMax (d a b : CReg) (s : State) := cOp2 (fun x y => if sx x < sx y then y else x) d a b s
/-- SEL reads a, b and c. -/
def execSel (d a b c : CReg) (s : State) : Host.Outcome State Fault Refusal :=
  issueR { regs := [d, a, b, c] } (fun x => x.setC d (if x.getC a ≠ 0 then x.getC b else x.getC c)) s
def execClz (d a : CReg) (s : State) := cOp1 (fun x => BitVec.ofNat 64 (leadingZeros x 64)) d a s
def execPopc (d a : CReg) (s : State) := cOp1 (fun x => BitVec.ofNat 64 (onesCount x 64)) d a s

/-! ## Form CI (R97) and CL (R98) -/

def execAddi (d a : CReg) (imm : BitVec 28) (s : State) := cOp1 (· + imm.signExtend 64) d a s
def execAndi (d a : CReg) (imm : BitVec 28) (s : State) := cOp1 (· &&& imm.setWidth 64) d a s
def execOri (d a : CReg) (imm : BitVec 28) (s : State) := cOp1 (· ||| imm.setWidth 64) d a s
def execXori (d a : CReg) (imm : BitVec 28) (s : State) := cOp1 (· ^^^ imm.setWidth 64) d a s
def execShli (d a : CReg) (n : Fin 64) (s : State) := cOp1 (fun x => shl x n) d a s
def execShri (d a : CReg) (n : Fin 64) (s : State) := cOp1 (fun x => shr x n) d a s
def execSrai (d a : CReg) (n : Fin 64) (s : State) := cOp1 (fun x => sra x n) d a s
def execSlti (d a : CReg) (imm : BitVec 28) (s : State) :=
  cOp1 (fun x => bool01 (decide (sx x < sx (imm.signExtend 64)))) d a s
def execLdi (d : CReg) (imm : BitVec 34) (s : State) : Host.Outcome State Fault Refusal :=
  issueR { regs := [d] } (fun x => x.setC d (imm.signExtend 64)) s
/-- LDIH replaces bits [63:32] and keeps [31:0]. -/
def execLdih (d : CReg) (imm : BitVec 32) (s : State) := cOp1 (fun x => imm ++ x.setWidth 32) d d s

end Sys2Proof.Machine
end

