-- ==== Sys2Proof/Machine/MemC.lean ====
section
/-! DEFINITION. Loads and stores of the control engine, SPALLOC, LDA, STL and PMLDX (spec/06_memory.md R150, R151;
spec/08_ordering.md R196; spec/07_postmarks.md R177). -/
namespace Sys2Proof.Machine

/-- How LD uses its page; ST, LDA and STL likewise. -/
def useLoad : Use := { write := false, writes := false }
def useStore : Use := { write := true, writes := true }

/-- A C load or store of a virtual address under the stream's postmark. -/
def cLoad (d a : CReg) (size : Size) (x acq : Bool) (scope : Scope) (disp : Word) (s : State) : Host.Outcome State Fault Refusal :=
  issue { regs := [d, a] } (fun s b =>
    let ea := b.getC a + disp
    cVaAccess (.load d size x) ea ea size.bytes b.pmC.toNat useLoad [] acq false scope s b) s
def cStore (d a : CReg) (size : Size) (rel : Bool) (scope : Scope) (disp : Word) (s : State) : Host.Outcome State Fault Refusal :=
  issue { regs := [d, a] } (fun s b =>
    let ea := b.getC a + disp
    cVaAccess .store ea ea size.bytes b.pmC.toNat useStore (leBytes (b.getC d).toNat size.bytes) false rel scope s b) s

def execLd (o : CmArgs) (s : State) := cLoad o.d o.a o.size o.x false .stream (o.disp.signExtend 64) s
def execSt (o : CmArgs) (s : State) := cStore o.d o.a o.size false .stream (o.disp.signExtend 64) s
/-- LDA: its acquire holds back every later access of the stream; none on a UO page (R190, R196). -/
def execLda (o : CnArgs) (s : State) := cLoad o.d o.a o.size o.x true o.scope (o.disp.signExtend 64) s
/-- STL: its release waits for every earlier access of the stream; none on a UO page (R190, R196). -/
def execStl (o : CnArgs) (s : State) := cStore o.d o.a o.size true o.scope (o.disp.signExtend 64) s

/-- A scratchpad or cluster-window access of C. -/
def cSp (window write : Bool) (o : CmArgs) (s : State) : Host.Outcome State Fault Refusal :=
  issue { regs := [o.d, o.a] } (cSpAccess window write o) s
def execSld (o : CmArgs) (s : State) := cSp false false o s
def execSst (o : CmArgs) (s : State) := cSp false true o s
def execWld (o : CmArgs) (s : State) := cSp true false o s
def execWst (o : CmArgs) (s : State) := cSp true true o s

/-- PMLDX: an 8-byte load under the postmark of b (R177). -/
def execPmldx (d a b : CReg) (s : State) : Host.Outcome State Fault Refusal :=
  issue { regs := [d, a, b] } (fun s x =>
    let pm := x.getC b
    if pm.toNat ≥ 65536 then .trap (mkTrap .illegal pm) s
    else cVaAccess (.load d .b8 false) (x.getC a) pm 8 pm.toNat { useLoad with explicitPm := true } [] false false .stream s x) s

/-- Gives units to (seat, VF), labels them DO and clears their valid bits (R151, R347). -/
def Core.allocUnits (c : Core) (u0 n seat vf : Nat) : Core :=
  { c with
    owner := (List.range n).foldl (fun t i => t.put (u0 + i) (seat, vf)) c.owner
    mo := c.mo &&& ~~~ (BitVec.ofNat 96 ((2 ^ n - 1) * 2 ^ u0))
    valid := c.valid &&& ~~~ (BitVec.ofNat 98304 ((2 ^ (1024 * n) - 1) * 2 ^ (1024 * u0))) }

/-- SPALLOC (R151). -/
def execSpalloc (a b : CReg) (s : State) : Host.Outcome State Fault Refusal :=
  issue { lvl := .s, regs := [a, b] } (fun s x =>
    let va := x.getC a
    let u0 := va.toNat / 4096
    let n := fld (x.getC b).toNat 0 8
    let seat := fld (x.getC b).toNat 8 2
    let c := s.core s.cur.core
    let other (u : Nat) : Bool := match c.owner.find? u with | some (_, vf) => vf != x.vf | none => false
    if va.toNat % 4096 ≠ 0 ∨ (x.getC b).toNat ≥ 1024 ∨ n = 0 ∨ u0 + n > 96 then .trap (mkTrap .illegal va) s
    else if (List.range n).any (fun i => other (u0 + i)) then .trap (mkTrap .illegal va) s
    else if s.acc.any (fun o => o.job == x.job && o.eng == .c && o.elems.any fun y =>
        match y.loc with | .sp _ _ => true | _ => false) then .wait
    else .ok (s.setCore s.cur.core (c.allocUnits u0 n seat x.vf)) .next false) s

end Sys2Proof.Machine
end

