-- ==== Sys2Proof/Machine/Postmark.lean ====
section
/-! DEFINITION. The postmark instructions and the franking unit (spec/07_postmarks.md R160 to R179); PMLDX stands in MemC. -/
namespace Sys2Proof.Machine

/-! ## The franking unit (R162, R164, R170) -/

def Partition.isLive (p : Partition) (m : Nat) : Bool := match p.pm.find? m with | some (.live _) => true | _ => false
/-- LIVE: the number of live postmarks. -/
def Partition.live (p : Partition) : Nat := (p.pm.filter fun e => match e.2 with | .live _ => true | _ => false).length
/-- The value after v, cyclic over 1 to 65535. -/
def pmAfter (v : Nat) : Nat := if v = 65535 then 1 else v + 1
/-- The first value from v on that is not live, within `fuel` values. -/
def Partition.firstFree (p : Partition) : (fuel v : Nat) → Nat
  | 0, v => v
  | n + 1, v => if p.isLive v then Partition.firstFree p n (pmAfter v) else v
/-- `allocate` of R164, once LIVE < PMTAGS. -/
def Partition.allocate (p : Partition) (vf : Nat) : Nat × Partition :=
  let v := p.firstFree 65535 p.pmNext
  (v, { p with pm := p.pm.put v (.live vf), pmNext := pmAfter v })

/-- Whether an access under (partition, m) has passed its check and is not yet performed, the rest of a copy's part that is partly
written among them (R170). -/
def State.pmInFlight (s : State) (part m : Nat) : Bool :=
  let under (l : Loc) : Bool := match l with | .mem p k _ _ _ => p == part && k == m | _ => false
  (s.acc.any fun a => a.elems.any fun x => !x.done && under x.loc)
    || s.copies.any fun r => !r.wr.isEmpty && r.xl.any fun y => y.2.2.any fun z => under z.2
/-- What a retirement releases is performed at its scope (R176, R187): every earlier access of C, and what happens-before it. -/
def State.retireReady (s : State) (b : Bank) (scope : Scope) : Bool :=
  !(s.acc.any fun a => a.job == b.job && a.eng == .c && a.elems.any fun x => !x.at scope) && s.releaseReady b.job .c scope
/-- The point T of R170: m is dead, writes stalled for a line under it are withdrawn, its cells are gone and their lines are
on the way back to the pool. -/
def Partition.retire (p : Partition) (m : Nat) : Partition :=
  { p with
    pm := p.pm.put m .dead
    cells := p.cells.filter (·.m != m)
    poolWait := p.poolWait.filter (·.m != m)
    returning := p.returning ++ ((p.cells.filter (·.m == m)).map fun c => (m, c.line))
      ++ ((p.poolWait.filter (·.m == m)).filterMap fun w => w.granted.map fun l => (m, l)) }

/-- PM_ALLOCATE (`ev.part`): the oldest waiting PMALLOC is served while LIVE < PMTAGS. -/
def execPmAllocate (s : State) : Host.Outcome State Fault Refusal :=
  let p := s.part s.cur.ev.part
  match p.pmReqs with
  | [] => .next s
  | (job, vf) :: rs =>
    if p.live < p.pmtags then
      let (v, p) := p.allocate vf
      .next ((s.setPart s.cur.ev.part { p with pmReqs := rs }).mapJob job fun b =>
        { b with cS := { b.cS with stage := .answered (BitVec.ofNat 64 v) } })
    else .next s
/-- POOL_LINE_RETURN (`ev.part`, `ev.idx`): a line of a retired postmark is back and goes to the oldest stalled write. -/
def execPoolLineReturn (s : State) : Host.Outcome State Fault Refusal :=
  let p := s.part s.cur.ev.part
  match p.returning[s.cur.ev.idx]? with
  | none => .next s
  | some (_, line) =>
    .next (s.setPart s.cur.ev.part (({ p with returning := p.returning.eraseIdx s.cur.ev.idx } : Partition).giveLine line))

/-! ## Instructions -/

/-- PMSET in C, A and D (R174). -/
def execPmset (a : SReg) (s : State) : Host.Outcome State Fault Refusal :=
  let e := s.cur.eng
  issueB { regs := a.cregs } (fun b =>
    let v := b.getS a
    if v.toNat ≥ 65536 then .trap (trapOf e .illegal v) b else .ok (b.setPm e (v.setWidth 16)) .next false) s
/-- PMGET in C, A and D (R174). -/
def execPmget (d : SReg) (s : State) : Host.Outcome State Fault Refusal :=
  let e := s.cur.eng
  issueR { regs := d.cregs } (fun b => b.setS d ((b.pm e).setWidth 64)) s

/-- PMALLOC (R175): the request takes its place at the unit; the answer is written to d. -/
def execPmalloc (d : CReg) (s : State) : Host.Outcome State Fault Refusal :=
  issue { regs := [d] } (fun s b =>
    match b.cS.stage with
    | .answered v => .ok (s.setBank s.cur.core s.cur.seat (b.setC d v)) .next false
    | _ =>
      let p := s.part b.part
      if p.pmReqs.any (·.1 == b.job) then .wait
      else .hold (s.setPart b.part { p with pmReqs := p.pmReqs ++ [(b.job, b.vf)] })) s

/-- PMRET and PMRETW (R176): the value checks, the release, the point T; PMRETW then waits for the pool lines. -/
def pmRet (lines : Bool) (a : CReg) (scope : Scope) (s : State) : Host.Outcome State Fault Refusal :=
  issue { regs := [a] } (fun s b =>
    let v := b.getC a
    let m := v.toNat
    let p := s.part b.part
    if lines && b.cS.stage == .second then (if p.returning.any (·.1 == m) then .wait else .ok s .passed false)
    else if m ≥ 65536 ∨ m = 0 then .trap (mkTrap .illegal v) s
    else if !p.liveFor m b.vf then .trap (mkTrap .pmdead v) s
    else if !s.retireReady b scope || s.pmInFlight b.part m then .wait
    else
      let s := s.setPart b.part (p.retire m)
      if lines && !((p.retire m).returning.any (·.1 == m)) then .ok s .next false
      else if lines then .begun (s.setBank s.cur.core s.cur.seat ((s.issueSignal b).setCtl .c { b.cS with stage := .second }))
      else .ok s .next false) s
def execPmret (a : CReg) (scope : Scope) (s : State) := pmRet false a scope s
def execPmretw (a : CReg) (scope : Scope) (s : State) := pmRet true a scope s

/-- The STATE field of PMPROBE (R179). -/
def Partition.probeState (p : Partition) (m vf : Nat) : Nat :=
  if m = 0 then 3 else match p.pm.find? m with | none => 0 | some (.live o) => if o = vf then 1 else 2 | some .dead => 2
/-- PMPROBE (R179): CELLS, LIVE, LIMIT and STATE. -/
def execPmprobe (d a : CReg) (s : State) : Host.Outcome State Fault Refusal :=
  issue { regs := [d, a] } (fun s b =>
    let v := b.getC a
    let m := v.toNat
    if m ≥ 65536 then .trap (mkTrap .illegal v) s
    else
      let p := s.part b.part
      let st := p.probeState m b.vf
      let cells := if st = 1 then Nat.min (p.cells.filter (·.m == m)).length 0xFFFFFF else 0
      let r := cells * 2 ^ 40 + p.live % 8192 * 2 ^ 24 + p.pmtags % 8192 * 256 + st
      .ok (s.setBank s.cur.core s.cur.seat (b.setC d (BitVec.ofNat 64 r))) .next false) s

end Sys2Proof.Machine
end

