-- ==== Sys2Proof/Machine/SwQueues.lean ====
section
/-! DEFINITION. Software queues (R367 to R369, R372): their descriptors, and the end of the packet that one dispatches. -/
namespace Sys2Proof.Machine

/-- Packets of a queue. -/
def SwQueue.size (q : SwQueue) : Nat := 2 ^ q.logsize
/-- A descriptor in the layout of R368; none for a nonzero zero-field or a LOGSIZE outside 4 to 16. -/
def queueOf (v : Nat) (pf : Bool) : Option SwQueue :=
  let n := fld v 59 5
  if fld v 0 6 ≠ 0 ∨ n < 4 ∨ n > 16 then none
  else some { logsize := n, die := fld v 56 3, cls := fld v 54 2, watch := flag v 53, en := flag v 52, base := fld v 6 46 * 64, pf := pf }
/-- The descriptor of a queue as it reads. -/
def SwQueue.word (q : SwQueue) : Nat :=
  q.logsize * 2 ^ 59 + q.die * 2 ^ 56 + q.cls * 2 ^ 54 + b2n q.watch * 2 ^ 53 + b2n q.en * 2 ^ 52 + q.base
/-- Two descriptors that agree in every field but EN. -/
def SwQueue.alike (a b : SwQueue) : Bool :=
  a.logsize == b.logsize && a.die == b.die && a.cls == b.cls && a.watch == b.watch && a.base == b.base
/-- Enabled queues of a die over all VFs. -/
def State.enabled (s : State) (die : Nat) : Nat :=
  (s.vfs.map fun (_, x) => (x.queues.filter fun y => y.2.en && y.2.die == die).length).sum
/-- A queue that is no longer enabled leaves its slot. -/
def State.unmap (s : State) (vf q : Nat) : State :=
  { s with slots := s.slots.filter fun ((_, h) : Nat × HwSlot) => !(h.vf == vf && h.queue == q) || h.reclaim }
def State.setQ (s : State) (vf k : Nat) (q : SwQueue) : State :=
  let x := s.vf vf
  s.setVf vf { x with queues := x.queues.put k q }
/-- The packet that a queue dispatches next is done with: the queue goes on, or closes. -/
def State.packetDone (s : State) (vf k : Nat) : State :=
  match (s.vf vf).queues.find? k with
  | none => s
  | some q =>
    let s := s.setQ vf k { q with rd := q.rd + 1, busy := false, en := q.en && !q.closing, closing := false, next := none }
    if !q.closing then s
    else
      let s := s.unmap vf k
      match q.next.bind fun d => queueOf d q.pf with
      | some q' => if s.enabled q'.die ≥ 4096 then s else s.setQ vf k { q' with waitSince := s.nextId }
      | none => s

end Sys2Proof.Machine
end

