-- ==== Sys2Proof/Machine/Tenancy.lean ====
section
/-! DEFINITION. Partitions, tenants and protection (spec/15_tenancy.md R344 to R362): gates, key slots, the zeroing engine, refusing
targets, second-stage answers, integrity failures, resize and VF reset. -/
namespace Sys2Proof.Machine

/-! ## GATE (R350, R351) -/

/-- Work that the M stream issued before `mark` still reads or writes the scratchpad range lo to hi − 1. -/
def Bank.mTouches (b : Bank) (lo hi mark : Nat) : Bool :=
  let scales (x : Option Word) (k : Nat) : Bool := x.any fun a => meets lo hi a.toNat (128 * k)
  b.prods.any (fun p => p.id < mark && match fmtWord p.fw with
    | none => false
    | some w =>
      (match p.src with
        | .sp a => meets lo hi a.toNat (match p.op with | .store => w.out.blockBytes | .load => 16384 | _ => p.k * w.af.blockBytes)
        | .queue _ => false)
      || scales p.scaleAddr p.k
      || (p.ptrs.getD []).any fun a => !a.getLsbD 63 && meets lo hi a.toNat (p.k * w.bf.blockBytes))
  || b.reqs.any (fun q => q.id < mark && !q.fromWeight && (meets lo hi q.addr.toNat (q.k * q.fmt.blockBytes) || scales q.scaleAddr q.k))
  || (b.stitch.eval.isSome && match b.stitch.batch, b.stitch.header with
      | some x, some h => meets lo hi x.base.toNat (x.b * vecBytes h.width x.fmt)
      | _, _ => false)
/-- A copy may still write scratchpad bytes lo to hi − 1 of a core. One whose extent is not known yet, a compressed buffer before its
header is read or a DPFA, may write from its destination on. -/
def CopyReq.mayWrite (r : CopyReq) (core lo hi : Nat) : Bool :=
  let (sp, a, k) := match r.kind, r.comp with
    | .dcopy, none => if lenC r.len then (lenDsp r.len, r.dst.toNat, 0x60000) else r.out
    | .dpfa, _ => (if lenDsp r.len = 1 then 1 else 0, r.place, 0x60000)
    | _, _ => r.out
  let (c, off) := spPlace r.core sp a
  sp != 0 && sp != 3 && c == core && meets lo hi off k
/-- What GATE waits for: accesses of the seat's streams to the units, and copies that write them, from before `mark`; and the C
stream's earlier accesses, since the relabel point is a release. -/
def State.gateBusy (s : State) (b : Bank) (u0 n mark : Nat) : Bool :=
  let core := s.cur.core
  let lo := 4096 * u0
  let hi := 4096 * (u0 + n)
  s.acc.any (fun a => a.job == b.job && a.id < mark && a.elems.any fun x => !x.done && match x.loc with
    | .sp c off => c == core && meets lo hi off x.len
    | _ => false)
  || s.copies.any (fun r => r.id < mark && r.mayWrite core lo hi)
  || b.mTouches lo hi mark || !s.releaseAt core s.cur.seat b.job .c mark .seat
/-- GATE: the checks, the wait, and the relabel point. -/
def execGate (a b : CReg) (s : State) : Host.Outcome State Fault Refusal :=
  issue { regs := [a, b] } (fun s x =>
    let c := s.core s.cur.core
    let av := x.getC a
    let g := (x.getC b).toNat
    let u0 := av.toNat / 4096
    match x.gates[g]? with
    | none => .trap (mkTrap .gate (x.getC b)) s
    | some e =>
      let relabel (go : Go) : Res State :=
        let mask : BitVec 96 := BitVec.ofNat 96 ((2 ^ e.units - 1) * 2 ^ u0)
        let s := s.setCore s.cur.core { c with mo := if e.out then c.mo &&& ~~~ mask else c.mo ||| mask }
        .ok (s.put { x with gates := x.gates.set g { e with count := e.count - 1 } }) go false
      match x.cS.stage with
      | .posted mark => if s.gateBusy x u0 e.units mark then .wait else relabel .passed
      | _ =>
        let wrong (u : Nat) : Bool := c.owner.find? u != some (s.cur.seat, x.vf) || c.sealed u || c.mo.getLsbD u != e.out
        if x.cS.mo ≠ e.out ∨ e.count = 0 then .trap (mkTrap .gate (x.getC b)) s
        else if av.toNat ≥ 2 ^ 19 ∨ av.toNat % 4096 ≠ 0 ∨ u0 + e.units > 96 then .trap (mkTrap .illegal av) s
        else if (List.range e.units).any fun i => wrong (u0 + i) then .trap (mkTrap .gate av) s
        else if s.gateBusy x u0 e.units s.nextId then
          let x := s.issueSignal x
          .begun (s.put { x with cS := { x.cS with stage := .posted s.nextId } })
        else relabel .next) s

/-! ## Records that KEYLD and ZSCRUB read -/

/-- The bytes of `n` aligned 64-byte lines (or of a part of one) at a VA, read behind the stream's earlier accesses; or what stops the
reading. -/
def State.readLines (s : State) (b : Bank) (size : Nat) : (n : Nat) → Word → Except (Res State) (List Byte × State)
  | 0, _ => .ok ([], s)
  | n + 1, va =>
    match s.checkVa (b.vaCtx s.cur.core .c) va size b.pmC.toNat useLoad with
    | (.error f, s) => .error (s.vaStop b .c va va 0 0 f)
    | (.ok t, s) =>
      let elem : Elem := ⟨t.loc, size, t.ord, false, [], false, false, false, 0⟩
      if !s.firstStalled b .c || s.mustWait s.cur.core s.cur.seat b.job .c s.nextId 0 none true elem then .error .wait
      else match s.readLines b size n (va + BitVec.ofNat 64 size) with
        | .error r => .error r
        | .ok (l, s) => .ok (s.view s.cur.core s.cur.seat t.loc size ++ l, s)

/-! ## Key slots (R352 to R354) -/

/-- A slot operand that no instruction accepts. -/
def slotBad (w : Word) : Bool := w.toNat ≥ 512 || w.toNat == 0
/-- A key record (R353): kind, VF, compartment and key; none when it is malformed or fails to unwrap. -/
def keyRecord (pkg : Nat) (r : List Byte) : Option (Nat × Nat × Bool × Nat) :=
  let f (i n : Nat) : Nat := leNat ((r.drop i).take n)
  if f 0 1 > 2 ∨ f 1 1 > 95 ∨ f 2 1 > 1 ∨ f 3 13 ≠ 0 ∨ f 88 40 ≠ 0 then none
  else match keyUnwrap pkg ((r.drop 16).take 72) with
    | none => none
    | some k => if f 0 1 ≠ 0 ∧ k ≥ 2 ^ 256 then none else some (f 0 1, f 1 1, f 2 1 == 1, k % 2 ^ 512)
/-- KEYLD: the key stands in the slot of every die. -/
def execKeyld (a b : CReg) (s : State) : Host.Outcome State Fault Refusal :=
  issue { lvl := .h, regs := [a, b] } (fun s x =>
    let slot := x.getC a
    let va := x.getC b
    if slotBad slot ∨ (s.key slot.toNat).isSome then .trap (mkTrap .illegal slot) s
    else if va.toNat % 128 ≠ 0 then .trap (mkTrap .illegal va) s
    else match s.readLines x 64 2 va with
      | .error r => r
      | .ok (bytes, s) =>
        match keyRecord (Config.packageKey s.dev.bootCount) bytes with
        | none => .trap (mkTrap .illegal va) s
        | some (kind, vf, mo, key) =>
          .ok { s with keys := s.keys.put slot.toNat ⟨key, kind, vf, mo, s.keyGen⟩, keyGen := s.keyGen + 1 } .next false) s

/-- LLC lines that meet a test are dropped without write-back: LPDDR-6 keeps what it held, bytes and seal. A cell line counts while its
cell stands. -/
def State.dropLines (s : State) (f : LlcLine → Bool) : State :=
  let stands (l : LlcLine) : Bool :=
    l.m == 0 || ((s.part l.part).cell l.m l.gpa).any fun c => (s.part l.part).poolBase + 64 * c.line == l.pa
  (s.llc.filter fun l => f l && stands l).foldl
    (fun s l => { s with dram := s.dram.writeBytes l.pa l.clean }.setLineMeta l.pa l.cleanMeta)
    { s with llc := s.llc.filter fun l => !f l }
/-- Weight offsets from `off` on, `n` of them, meet a region of a key slot. -/
def State.weightUnder (s : State) (core off n slot : Nat) : Bool :=
  (s.slice core).regions.any fun x => x.2.key == slot && x.2.len != 0 && meets x.2.base (x.2.base + x.2.len) off n
/-- Accesses under a slot from before `mark` that are not performed, the weight port's fills in progress and accepted WPROGs under a weight
key among them (R354). -/
def State.slotBusy (s : State) (slot mark : Nat) : Bool :=
  s.busyBefore mark (fun _ l => match l with
      | .mem p m g _ k => s.homeKey p m g k == slot
      | .wt c o => s.weightUnder c o 1 slot
      | .sp _ _ => false)
    || s.cores.any (fun (n, c) => c.wreqs.any fun r => r.id < mark && r.out == 1 && s.weightUnder n (64 * r.row) 64 slot)
    || s.liveBanks.any fun (core, _, b) => b.weightFill.any fun (k, a, sa, f) => k.1 < mark &&
      (s.weightUnder core (fld a.toNat 0 27) f.blockBytes slot || sa.any fun x => s.weightUnder core (fld x.toNat 0 27) 128 slot)
/-- A key is erased on every die: what the caches hold under it is gone, and no row written under it can be decrypted again. -/
def State.zapKey (s : State) (slot : Nat) : State :=
  let s := s.dropLines (·.key == slot)
  let lost (r : PhysRow) : PhysRow := if r.under.any (·.1 == slot) then { r with under := none } else r
  { s with keys := s.keys.del slot
           tier := s.tier.map fun (n, sl) => (n, { sl with phys := sl.phys.map fun (k, r) => (k, lost r) }) }
/-- KEYZAP. -/
def execKeyzap (a : CReg) (s : State) : Host.Outcome State Fault Refusal :=
  issue { lvl := .h, regs := [a] } (fun s x =>
    let slot := x.getC a
    match x.cS.stage with
    | .posted mark => if s.slotBusy slot.toNat mark then .wait else .ok (s.zapKey slot.toNat) .passed false
    | _ =>
      if slotBad slot then .trap (mkTrap .illegal slot) s
      else if (s.key slot.toNat).isNone then .ok s .next false
      else if s.slotBusy slot.toNat s.nextId then
        let x := s.issueSignal x
        .begun (s.put { x with cS := { x.cS with stage := .posted s.nextId } })
      else .ok (s.zapKey slot.toNat) .next false) s

/-! ## The zeroing engine (R355, R356) -/

/-- A ZSCRUB descriptor: kind, first target, number of targets; none for a violation. -/
def scrubRecord (r : List Byte) : Option (Nat × Nat × Nat) :=
  let f (i n : Nat) : Nat := leNat ((r.drop i).take n)
  let kind := f 0 1
  let start := f 8 8
  let n := f 16 8
  let ok : Bool := match kind with
    | 0 => 1 ≤ n && n ≤ 256 && start + n ≤ 2048
    | 1 => start % 65536 == 0 && 1 ≤ n && n ≤ 2 ^ 24 && start + 65536 * n ≤ 2 ^ 52
    | 2 => 1 ≤ n && start / 128 < 1536 && start % 128 + n ≤ 96
    | _ => false
  if f 1 1 ≠ 0 ∨ fld (f 2 2) 12 4 ≠ 0 ∨ f 4 4 ≠ 0 ∨ f 24 8 ≠ 0 ∨ !ok then none else some (kind, start, n)
/-- The units a scrub of kind 2 covers in a core, one bit each. -/
def Scrub.units (x : Scrub) (core : Nat) : BitVec 96 :=
  if x.kind = 2 ∧ x.start / 128 = core then BitVec.ofNat 96 ((2 ^ x.count - 1) * 2 ^ (x.start % 128)) else 0
/-- A scrub covers the line, page or unit of a location. -/
def State.covers (s : State) (x : Scrub) (l : Loc) : Bool :=
  match l with
  | .sp core off => (x.units core).getLsbD (off / 4096)
  | .mem p m g pa _ =>
    let bank := Config.llcBank p (g / 64)
    let page := s.homePa p m g pa / 65536
    (x.kind == 0 && x.start ≤ bank && bank < x.start + x.count)
      || (x.kind == 1 && x.start ≤ page * 65536 && page * 65536 < x.start + 65536 * x.count)
  | .wt _ _ => false
/-- Accesses that were accepted before a scrub of their target are not all performed: the target does not refuse them (assumption 132). -/
def State.scrubWaits (s : State) (x : Scrub) : Bool :=
  s.acc.any fun a => a.id < x.mark && a.elems.any fun y => !y.done && s.covers x y.loc
/-- ZSCRUB: the targets refuse access from now on; the instruction is performed when those accepted before are (R355). -/
def execZscrub (a : CReg) (s : State) : Host.Outcome State Fault Refusal :=
  issue { lvl := .h, regs := [a] } (fun s x =>
    let va := x.getC a
    match x.cS.stage with
    | .answered w =>
      if (s.scrubs.find? (·.mark == w.toNat)).any s.scrubWaits then .wait else .ok s .passed false
    | _ =>
    if va.toNat % 32 ≠ 0 then .trap (mkTrap .illegal va) s
    else match s.readLines x 32 1 va with
      | .error r => r
      | .ok (bytes, s) =>
        match scrubRecord bytes with
        | none => .trap (mkTrap .illegal va) s
        | some (kind, start, n) =>
          let core := start / 128
          let c := s.core core
          let used (u : Nat) : Bool := match c.owner.find? u with | some (seat, _) => (c.seat seat).live.isSome | none => false
          let z : Scrub := { kind := kind, start := start, count := n, mark := s.nextId }
          if kind = 2 ∧ (List.range n).any fun i => used (start % 128 + i) then .trap (mkTrap .illegal va) s
          else
            let s := { s with scrubs := s.scrubs ++ [z], nextId := s.nextId + 1 }
            let s := if kind = 2 then s.setCore core { c with scrubbing := c.scrubbing ||| z.units core } else s
            if s.scrubWaits z then
              .begun (s.put { s.issueSignal x with cS := { x.cS with stage := .answered (BitVec.ofNat 64 z.mark) } })
            else .ok s .next false) s

/-- Two scrubs share a target. -/
def Scrub.overlaps (x y : Scrub) : Bool :=
  let w := if x.kind = 1 then 65536 else 1
  x.kind == y.kind && meets x.start (x.start + w * x.count) y.start (w * y.count)
/-- LPDDR-6 from lo to hi − 1 reads as zeros, in the zero state. -/
def State.zeroRange (s : State) (lo hi : Nat) : State :=
  let inside (a : Nat) : Bool := lo ≤ a && a < hi
  { s with
    dram := s.dram.filter fun c => !inside c.1
    metas := s.metas.filter fun e => !inside (64 * e.1)
    llc := s.llc.filter fun l => !inside l.pa
    unsealed := s.unsealed.filter fun p => !inside (65536 * p)
    resealed := s.resealed.filter fun l => !inside (64 * l) }
/-- What a scrub leaves (R355): banks lose their lines; pages read as zeros in the zero state; units are free and invalid. -/
def State.scrubEffect (s : State) (x : Scrub) : State :=
  match x.kind with
  | 0 => s.dropLines fun l => let b := Config.llcBank l.part (l.gpa / 64); x.start ≤ b && b < x.start + x.count
  | 1 => s.zeroRange x.start (x.start + 65536 * x.count)
  | _ =>
    let core := x.start / 128
    let c := s.core core
    let u := x.start % 128
    let parts : BitVec 98304 := BitVec.ofNat 98304 ((2 ^ (1024 * x.count) - 1) * 2 ^ (1024 * u))
    s.setCore core { c with
      valid := c.valid &&& ~~~ parts
      poison := c.poison &&& ~~~ parts
      owner := c.owner.filter fun e => !(u ≤ e.1 && e.1 < u + x.count) }
/-- ZSCRUB_COMPLETE (`ev.idx`: the scrub): it ends behind earlier scrubs of a target, and targets that no other scrub covers accept
access again. -/
def execZscrubComplete (s : State) : Host.Outcome State Fault Refusal :=
  let i := s.cur.ev.idx
  match s.scrubs[i]? with
  | none => .next s
  | some x =>
    if x.complete || s.scrubWaits x || (s.scrubs.take i).any (fun y => !y.complete && y.overlaps x) then .next s
    else
      let s := (s.scrubEffect x)
      let s := { s with scrubs := s.scrubs.set i { x with complete := true } }
      if x.kind = 2 then
        let core := x.start / 128
        let c := s.core core
        let left := (s.scrubs.filter (!·.complete)).foldl (fun (m : BitVec 96) y => m ||| y.units core) 0
        .next (s.setCore core { c with scrubbing := left })
      else .next s

/-- BANKSCRUB: an access has stalled on a refusing target for 1 ms. `ev.idx`: the stream of seat (`ev.core`, `ev.seat`), or 4 for the copy
request `ev.slot`, or 5 for the bank operation of the job `ev.slot`, whose instruction raises it (R338). -/
def execBankscrub (s : State) : Host.Outcome State Fault Refusal :=
  let core := s.cur.core
  let seat := s.cur.seat
  if s.cur.ev.idx = 4 then
    match s.copies.find? (·.id == s.cur.ev.slot) with
    | some r => if r.refused.any (fun st => s.refuses st.target) ∧ !r.finished then .next (s.copyStop r 11) else .next s
    | none => .next s
  else if s.cur.ev.idx = 5 then
    match s.opOf s.cur.ev.slot with
    | none => .next s
    | some o =>
      match o.refused with
      | some st => if s.refuses st.target then .next (s.setOp { o with refused := none, fault := some (12, st.addr), raised := false }) else .next s
      | none => .next s
  else match s.eventBank with
    | none => .next s
    | some b =>
      if b.stopped || b.ended then .next s
      else if s.cur.ev.idx = 3 then
        let s := { s with cur := { s.cur with eng := .m } }
        match b.mS.scrub with
        | none => .next s
        | some st =>
          if !s.refuses st.target then .next s
          else match s.fillScrub b st with
          | some s => .next s
          | none =>
            -- the work that reads the address, else what stands after all of it, so that the trap is precise (R258, R268)
            let reads (p : Product) : Bool := (List.range p.k).any fun i =>
              (b.operands p.id i).any fun x => x.1 ≤ st.addr.toNat && st.addr.toNat < x.1 + x.2
            match b.prods.find? reads, b.stitch.eval with
            | some p, _ => .next (s.raiseProduct b p .bankscrub st.addr)
            | none, some ev => if b.unsettled .m then .next s else .next (s.ruleStop b ev (.again .bankscrub st.addr))
            | none, none =>
              if b.unsettled .m then .next s
              else .next (s.raise core seat b .m (b.trapRec .m (mkTrap .bankscrub st.addr) b.mS.wclr))
      else
        let e : Engine := if s.cur.ev.idx = 1 then .a else .c
        match (b.ctl e).scrub with
        | none => .next s
        | some st =>
          if !s.refuses st.target then .next s else
          let prog := if e = .a then (b.ainst.map (·.prog)).getD 0 else 0
          let clr := if e = .a then (b.ainst.map (·.clr)).getD false else b.cS.wclr
          .next (s.raise core seat b e (b.trapRec e { mkTrap .bankscrub st.addr with prog := prog } clr))

/-- PMPOOL (`ev.part`, `ev.idx`: the stalled write): a write has stalled for the cycles of PMWAITLIM; it gives up its place (R167, R171). -/
def execPmpool (s : State) : Host.Outcome State Fault Refusal :=
  match (s.part s.cur.ev.part).poolWait[s.cur.ev.idx]? with
  | none => .next s
  | some w =>
    if w.lim = 0 ∨ !(s.part s.cur.ev.part).stalled w then .next s
    else if w.eng = .d then
      match s.copies.find? (fun r => r.job == w.job && !r.finished && match r.out with
        | (0, a, n) => a ≤ w.va.toNat && w.va.toNat < a + n
        | _ => false) with
      | some r => .next (s.copyStop r 3)
      | none => .next s
    else match s.findJob w.job with
      | some (.live core seat, b) =>
        if (b.ctl w.eng).trapped || b.stopped || b.frozen.isSome || (w.eng == .c && b.canDivert) then .next s
        else
          let prog := if w.eng = .a then (b.ainst.map (·.prog)).getD 0 else 0
          let clr := if w.eng = .a then (b.ainst.map (·.clr)).getD false else b.cS.wclr
          .next ((s.dropStale w.job w.eng).raise core seat b w.eng
            (b.trapRec w.eng { mkTrap .pmpool w.va with prog := prog } clr))
      | _ => .next s

/-! ## Second-stage answers (R137) -/

def Ctl.retry (c : Ctl) (seq : Nat) : Ctl := if c.s2stall = some seq then { c with s2stall := none } else c
def Bank.retry (b : Bank) (seq : Nat) : Bank :=
  { b with cS := b.cS.retry seq, aS := b.aS.retry seq, vS := b.vS.retry seq, mS := b.mS.retry seq, dS := b.dS.retry seq,
           saveStall := if b.saveStall = some seq then none else b.saveStall }
def Bank.stalledOn (b : Bank) (seq : Nat) : Bool :=
  Engine.all.any (fun e => (b.ctl e).s2stall == some seq) || b.saveStall == some seq
/-- The STAGE2 answer register is written: SEQ, and bit 32 for reset; the stalled access is repeated in full, or its VF is to be reset. -/
def State.stage2Answer (s : State) (v : Nat) : State :=
  let s := { s with dev := { s.dev with answer := fld v 0 33 } }
  let seq := fld v 0 32
  if flag v 32 then
    let vfs := (s.allBanks.filter fun x => x.2.stalledOn seq).map (fun x => x.2.vf)
      ++ (s.copies.filter (·.s2stall == some seq)).map (·.vf) ++ (s.bankOps.filter (·.s2stall == some seq)).map (·.vf)
      ++ (s.dev.cmpl.filter (·.s2stall == some seq)).map (·.vf) ++ (s.graphs.filter (·.s2stall == some seq)).map (·.vf)
      ++ (s.vfs.filter fun x => x.2.queues.any (fun y => y.2.s2stall == some seq) || x.2.reports.any (·.s2stall == some seq)).map (·.1)
    vfs.foldl (fun s v => s.setVf v { s.vf v with reset := true }) s
  else
    { s with
      cores := s.cores.map fun (n, c) =>
        (n, { c with seats := c.seats.map fun t => ⟨t.live.map (·.retry seq), t.shadow.mapBank (·.retry seq)⟩ })
      images := s.images.map fun (im : SaveImage) => { im with bank := im.bank.retry seq }
      copies := s.copies.map fun (r : CopyReq) => if r.s2stall = some seq then { r with s2stall := none } else r
      bankOps := s.bankOps.map fun (o : BankOp) => if o.s2stall = some seq then { o with s2stall := none } else o
      graphs := s.graphs.map fun (g : Graph) => if g.s2stall = some seq then { g with s2stall := none } else g
      vfs := s.vfs.map fun (v, x) => (v, { x with
        queues := x.queues.map fun (k, q) => (k, if q.s2stall = some seq then { q with s2stall := none } else q)
        reports := x.reports.map fun (p : PendReport) => if p.s2stall = some seq then { p with s2stall := none } else p })
      dev := { s.dev with cmpl := s.dev.cmpl.map fun w => if w.s2stall = some seq then { w with s2stall := none } else w } }
/-- STAGE2_ANSWER (`ev.val`: what is written to the register). -/
def execStage2Answer (s : State) : Host.Outcome State Fault Refusal := .next (s.stage2Answer s.cur.ev.val.toNat)

/-! ## Integrity failures (R357, R358) -/

/-- The page (PA / 65536) that a VF owns at a GPA, by its partition's second stage (R358; assumption 117). -/
def State.pageOf (s : State) (vf gpa : Nat) : Option Nat :=
  match walk2 s.dram (s.part (s.vf vf).partition).s2root gpa with
  | some f => if s.ownsKey vf f.key then some (f.pa / 65536) else none
  | none => none
/-- The levels of the arity-8 tree over the 64-byte lines of a die of `die` pages (R352, R383). -/
def treeLevels (die : Nat) : Nat := if die ≤ 2 ^ 20 then 10 else 11
/-- The pages that a node of a level, counted from the top, covers: 4 · 8^k, or it lies within one. -/
def nodeSpan (die level : Nat) : Nat :=
  let h := treeLevels die + 1 - level
  if h ≤ 3 then 1 else 4 * 8 ^ (h - 4)
/-- A place where a node can stand in the tree of one of the eight dies, each of 16 to 128 GiB: below the two top levels it holds the lines of one
key ID only (R352; assumption 117). -/
def State.nodeFits (s : State) (f : NodeFail) : Bool :=
  ([2 ^ 18, 2 ^ 19, 2 ^ 20, 2 ^ 21].any fun die => 1 ≤ f.level && f.level ≤ treeLevels die && f.lo < 8 * die
      && f.pages == Nat.min (nodeSpan die f.level) die && f.lo % die % nodeSpan die f.level == 0)
    && (f.level ≤ 2 || s.metas.all fun (l, m) => !(f.lo ≤ l / 1024 && l / 1024 < f.lo + f.pages) || m.keygen.all fun g => g.1 == f.key)
/-- INTEG_NODE_FAILURE (`ev.val`: the node's level; `ev.idx`, `ev.quad`: the first 64 KiB page beneath it and their number; `ev.slot`: its key ID):
the node is made anew, and its pages are unsealed. -/
def execIntegNodeFailure (s : State) : Host.Outcome State Fault Refusal :=
  let lo := s.cur.ev.idx
  let n := s.cur.ev.quad
  let node : NodeFail := { level := s.cur.ev.val.toNat, lo := lo, pages := n, key := s.cur.ev.slot }
  let inside (p : Nat) : Bool := lo ≤ p && p < lo + n
  let busy := s.acc.any fun a => a.elems.any fun x => match x.loc with
    | .mem p m g pa _ => inside (s.homePa p m g pa / 65536)
    | _ => false
  if busy || !s.nodeFits node then .next s
  else
    .next { s with unsealed := s.unsealed ++ ((List.range n).map (lo + ·)).filter fun p => !s.unsealed.contains p
                   resealed := s.resealed.filter fun l => !inside (l / 1024)
                   integ := s.integ ++ [node] }
/-- A run of GPA-contiguous pages of a VF beneath a failed node that the firmware reports: as long as it can be, and not reported before; a
node of one key ID reports to that key's VF only (R357). -/
def State.runFits (s : State) (f : NodeFail) (r : PageRun) : Bool :=
  let fresh (gpa : Nat) : Bool := (s.pageOf r.vf gpa).any fun p =>
    f.lo ≤ p && p < f.lo + f.pages && !f.told.contains (gpa / 65536, r.vf)
  r.pages != 0 && r.gpa % 65536 == 0 && (List.range r.pages).all (fun i => fresh (r.gpa + 65536 * i))
    && !(65536 ≤ r.gpa && fresh (r.gpa - 65536)) && !fresh (r.gpa + 65536 * r.pages)
    && (f.level ≤ 2 || (s.key f.key).any (·.vf == r.vf))
/-- INTEG_REPORT (`ev.idx`: the node, `ev.runs`: the run): the firmware writes the report of one run. -/
def execIntegReport (s : State) : Host.Outcome State Fault Refusal :=
  match s.integ[s.cur.ev.idx]?, s.cur.ev.runs.head? with
  | some f, some r =>
    if !s.runFits f r then .next s
    else
      let f' := { f with told := f.told ++ (List.range r.pages).map fun i => (r.gpa / 65536 + i, r.vf) }
      .next ({ s with integ := s.integ.set s.cur.ev.idx f' }.reportVf r.vf
        { type := 6, cid := s.vfCid r.vf, a1 := r.gpa, a2 := r.pages, detail := f.level % 16 })
  | _, _ => .next s

/-! ## VF reset (R360, R377) -/

/-- VF_RESET_REQUEST (`ev.vf`): RESET is written in the VF's descriptor, or a STAGE2 report is answered reset. -/
def execVfResetRequest (s : State) : Host.Outcome State Fault Refusal :=
  .next (s.setVf s.cur.ev.vf { s.vf s.cur.ev.vf with reset := true })
/-- FLR (`ev.vf`; `ev.fromPf`: of the PF): the function-level reset of a VF is a VF reset (R363); that of the PF resets every VF
(assumption 73). -/
def execFlr (s : State) : Host.Outcome State Fault Refusal :=
  if s.cur.ev.fromPf then .next { s with vfs := s.vfs.map fun (v, x) => (v, { x with reset := true }) }
  else .next (s.setVf s.cur.ev.vf { s.vf s.cur.ev.vf with reset := true })

/-- Every trace of a job but its banks: its places, requests and accesses. -/
def State.dropJob (s : State) (b : Bank) : State :=
  let s := s.cores.foldl (fun s (n, _) => (s.withdraw n b)) s
  let s := Engine.all.foldl (fun s e => s.leaveAll b.part ⟨b.job, e, 0⟩) s
  let p := s.part b.part
  let s := s.setPart b.part { p with ssArrived := p.ssArrived.filter (· != b.job), ssReleased := p.ssReleased.filter (· != b.job),
                                     joinWait := p.joinWait.filter (fun w => w.1.job != b.job || w.1.pkg != 0) }
  let s := (((s.dropJobWaits b.job).dropSteals b.job).dropTokWait b.job fun _ => true).oldImages b.job
  { s with
    cores := s.cores.map fun (n, c) => (n, { c with stWait := c.stWait.filter (· != b.job) })
    bankOps := s.bankOps.filter (·.issuer != b.job) }
/-- The seats lose the banks of a VF; a steal request on such a seat is answered empty, and the stitch file is free. -/
def State.emptySeats (s : State) (vf : Nat) : State :=
  s.liveBanks.foldl (fun s (core, seat, b) =>
    if b.vf ≠ vf then s
    else
      let s := s.answerEmpty core seat
      let c := s.core core
      ((s.setCore core { c with stOwner := if c.stOwner = some seat then none else c.stOwner }).setLive core seat none).dropGone core) s
def Shadow.without (t : Shadow) (vf : Nat) : Shadow :=
  match t with
  | .loaded b => if b.vf = vf then .empty else t
  | .loading (some b) => if b.vf = vf then .empty else t
  | t => t
/-- VF_RESET (`ev.vf`): the reset point. -/
def execVfReset (s : State) : Host.Outcome State Fault Refusal :=
  let v := s.cur.ev.vf
  let x := s.vf v
  if !x.reset then .next s
  else
    let jobs := s.jobBanks.filter (·.vf == v)
    -- shadows that a BANKLD of the VF was loading
    let s := s.bankOps.foldl (fun s o => if o.vf = v ∧ o.load then s.setShadow o.core o.tseat .empty else s) s
    -- and those that a launch of the VF was loading
    let s := s.launches.foldl (fun s l => match l.target with | some (c, t) => if l.vf = v then s.setShadow c t .empty else s | none => s) s
    let s := jobs.foldl (fun s b => s.dropJob b) s
    -- completion words of the jobs' packets and of the packets not yet launched; words that stall are withdrawn, those of the reset among them
    let s := jobs.foldl (fun s b => s.completionWord v b.part b.info 3) s
    let held := s.launches.filter (·.vf == v)
    let gs := s.graphs.filter (·.vf == v)
    let s := (held.map (·.info) ++ gs.map (·.info)).foldl (fun (s : State) i => s.completionWord v x.partition i 3) s
    let s := { s with dev := { s.dev with cmpl := s.dev.cmpl.filter (·.vf != v) } }
    let aborted (n : Nat) (h : HwSlot) : Nat :=
      (held.filter fun l => l.die == n / 64 && l.info.queue == h.queue && l.info.graph.isNone).length
        + (gs.filter fun g => g.die == n / 64 && g.info.queue == h.queue).length + h.aborted
    let s : State := { s.emptySeats v with
      launches := s.launches.filter (·.vf != v)
      graphs := s.graphs.filter (·.vf != v)
      slots := s.slots.map fun ((n, h) : Nat × HwSlot) => (n, if h.vf = v then { h with aborted := aborted n h, reclaim := true } else h) }
    let strip (c : Core) : Core := { c with
      seats := c.seats.map fun t => { t with shadow := t.shadow.without v }
      owner := c.owner.filter fun (e : Nat × Nat × Nat) => e.2.2 != v
      wreqs := c.wreqs.filter fun (r : WReq) => r.vf != v || r.begun
      seals := c.seals.filter fun (z : Seal) => !jobs.any fun b => b.job == z.job }
    let s : State := { s with
      cores := s.cores.map fun (n, c) => (n, strip c)
      acc := s.acc.filter (·.vf != v)
      copies := s.copies.filter (·.vf != v)
      sigs := s.sigs.filter (·.vf != v) }
    -- postmarks and stalled PMALLOCs (R173)
    let bare (p : Partition) : Partition :=
      let live := (List.filter (fun (e : Nat × PmState) => e.2 == PmState.live v) p.pm).map (·.1)
      live.foldl Partition.retire { p with pmReqs := p.pmReqs.filter (·.2 != v) }
    let s := { s with parts := s.parts.map fun (k, p) => (k, bare p) }
    let busy := ((s.vf v).queues.filter (·.2.busy)).map (·.1)
    let s := s.setVf v { s.vf v with reset := false, deadPeers := [], reports := [], mbox := { (s.vf v).mbox with seq := 0 },
                                     queues := (s.vf v).queues.map fun (k, q) => (k, { q with s2stall := none }) }
    -- the packets being dispatched have drained, so that their queues go on or close
    .next ((busy.foldl (fun (s : State) k => s.packetDone v k) s).settleSuperstep x.partition)
/-- SLOT_RECLAIM (`ev.die`, `ev.slot`): a hardware slot of a reset VF is free again, with a SLOTABORT report when it held aborted
packets. -/
def execSlotReclaim (s : State) : Host.Outcome State Fault Refusal :=
  let k := s.cur.ev.die * 64 + s.cur.ev.slot
  match s.slots.find? k with
  | none => .next s
  | some h =>
    if !h.reclaim then .next s
    else
      let s := { s with slots := s.slots.del k }
      if h.aborted = 0 then .next s
      else .next (s.reportPf { type := 0xB, cid := cid h.part h.vf, a1 := h.queue, a2 := h.aborted, detail := k })

/-! ## Resize and core removal (R359) -/

/-- What stands for the firmware where a bank's streams are stopped. -/
def firmware : Nat := 2 ^ 64
/-- The firmware's next action on a seat of a core whose seats it evicts. -/
def State.evictSeat (s : State) (core seat : Nat) : State :=
  let t := (s.core core).seat seat
  match t.shadow with
  | .loading _ => s
  | .loaded b =>
    match b.evict with
    | none =>
      let (n, s) := s.fresh
      let b := if b.saved ∨ b.saving then { b with evict := some 1 }
        else { b with evict := some 1, saving := true, saveProg := 0, saveLine := 0, saveN := n }
      s.setShadow core seat (.loaded b)
    | some k =>
      if b.saving then s
      else
        (s.setShadow core seat .empty).reportVf b.vf
          { type := 7, cid := b.cid, seat := seatNo core seat, a1 := b.saveva.toNat, a2 := seatNo core seat,
            detail := k + (if b.saved then 0 else 4) }
  | .empty =>
    match t.live with
    | none => s
    | some b =>
      if b.frozen = some firmware then
        if s.winding b then s
        else
          let s := s.exchange core seat
          match ((s.core core).seat seat).shadow with
          | .loaded o => s.setShadow core seat (.loaded { o with evict := some 0 })
          | _ => s
      else if b.frozen.isSome || b.swapping then s
      else s.setBank core seat { b with frozen := some firmware }
/-- PARTITION_RESIZE (`ev.core`): the hypervisor's request, which is refused while rows of the core belong to an assigned region of a VF of
its partition; or (`ev.quad` = 1) the firmware's next action on `ev.seat`; the request ends when the core's seats are empty, and no job is
placed on the core again before its cluster has another partition. -/
def execPartitionResize (s : State) : Host.Outcome State Fault Refusal :=
  let core := s.cur.ev.core
  if s.cur.ev.quad = 1 then
    if !s.dev.resizing.contains core then .next s else .next (s.evictSeat core s.cur.ev.seat)
  else if s.dev.removed.contains core then .next s
  else if s.dev.resizing.contains core then
    let c := s.core core
    if c.seats.toList.all fun t => t.live.isNone && t.shadow == .empty then
      .next { s with dev := { s.dev with resizing := s.dev.resizing.filter (· != core), removed := s.dev.removed ++ [core] } }
    else .next s
  else
    let assigned := (s.slice core).regions.any fun (_, r) => r.len != 0 && r.vf != 0xFF && s.coreInPart core (s.vf r.vf).partition
    if assigned then .next s else .next { s with dev := { s.dev with resizing := s.dev.resizing ++ [core] } }

end Sys2Proof.Machine
end

