-- ==== Sys2Proof/Machine/Host.lean ====
section
/-! DEFINITION. The host's windows (spec/16_host.md R363 to R368): the registers of the PF and VF windows, partition, VF and region
descriptors, software queues and their descriptor pages. Each write is one aligned 8-byte access; one that a rule forbids is
discarded. -/
namespace Sys2Proof.Machine

/-- Multiples of 64 KiB within the physical and guest-physical space. -/
def pageOk (v : Nat) : Bool := v % 65536 == 0 && v < 2 ^ 52
/-- Ring sizes of mailboxes and queues: powers of two from 16 to 65536. -/
def ringSize (n : Nat) : Bool := (List.range 13).any fun k => n == 2 ^ (k + 4)

/-! ## Partition descriptors (R344, R365) -/

/-- A cluster may leave a partition: the resize procedure has emptied each of its cores (R344, R359), no VF of the partition has its home
there (R345), and no region there is assigned to one (R359). -/
def State.mayLeave (s : State) (p cl : Nat) : Bool :=
  (List.range 16).all (fun i => s.dev.removed.contains (16 * cl + i))
    && !(s.vfs.any fun (_, x) => x.partition == p && x.home == cl)
    && !(s.tier.any fun (n, sl) => clusterOf n == cl && sl.regions.any fun (_, r) => r.len != 0 && r.vf != 0xFF && (s.vf r.vf).partition == p)
/-- CLUSTERS of partition p may become m: no cluster of another partition, and a cluster leaves only by the resize procedure. -/
def State.clustersOk (s : State) (p : Nat) (m : BitVec 96) : Bool :=
  let old := (s.part p).clusters
  !(s.parts.any fun (k, x) => k != p && (x.clusters &&& m) != 0)
    && (List.range 96).all fun cl => !(old.getLsbD cl && !m.getLsbD cl && !s.mayLeave p cl)
/-- The partition after quad q of its descriptor is written, or none when the write is discarded. Lines on their way back to a pool that is
moved are dropped (assumption 114). -/
def State.partWrite (s : State) (k q v : Nat) : Option Partition :=
  let p := s.part k
  let ok (b : Bool) (x : Partition) : Option Partition := if b then some x else none
  let pool (x : Partition) : Partition := { x with freeLines := [], usedLines := 0, returning := [] }
  match q with
  | 0 =>
    let m : BitVec 96 := BitVec.ofNat 96 (p.clusters.toNat / 2 ^ 64 * 2 ^ 64 + v)
    ok (s.clustersOk k m) { p with clusters := m }
  | 1 =>
    let m : BitVec 96 := BitVec.ofNat 96 (p.clusters.toNat % 2 ^ 64 + fld v 0 32 * 2 ^ 64)
    ok (v < 2 ^ 32 && s.clustersOk k m) { p with clusters := m }
  | 2 => ok (pageOk v) { p with s2root := v }
  | 3 => ok (1 ≤ v && v ≤ 4096) { p with pmtags := v }
  | 4 => ok (pageOk v && p.live == 0) (pool { p with poolBase := v })
  | 5 => ok (v ≤ 2 ^ 24 && p.live == 0) (pool { p with poolLines := v })
  | 6 => ok (pageOk v && p.btMap.isEmpty) { p with btBase := v }
  | 7 => ok (fld v 0 32 ≤ 2 ^ 24 && fld v 41 23 == 0 && p.btMap.isEmpty) { p with btBlocks := fld v 0 32, btKey := fld v 32 9 }
  | 8 => ok (1 ≤ v && v < 2 ^ 32) { p with tickper := v }
  | 9 =>
    let n := fld v 32 8
    let i := fld v 40 8
    ok (fld v 0 32 == 0 && fld v 48 16 == 0 && 1 ≤ n && n ≤ 64 && i < n) { p with pkgCount := n, pkgIndex := i }
  | 10 => some { p with sslotMax := v }
  | 11 =>
    -- setting VALID creates the partition: its tick count starts (R127), its postmarks are free (R162), and it holds nothing
    if v ≥ 2 then none
    else if v = 1 ∧ !p.valid then some {
      clusters := p.clusters, s2root := p.s2root, pmtags := p.pmtags, poolBase := p.poolBase, poolLines := p.poolLines,
      btBase := p.btBase, btBlocks := p.btBlocks, btKey := p.btKey, tickper := p.tickper, pkgCount := p.pkgCount,
      pkgIndex := p.pkgIndex, sslotMax := p.sslotMax, valid := true, nextEdge := s.timebase + p.tickper }
    else some { p with valid := v == 1 }
  | _ => ok (v == 0) p
/-- PARTITION_DESC_WRITE (`ev.part`, `ev.quad`, `ev.val`). A partition that is created has its pool zeroed (R173; assumption 96); a core of
a cluster that has left may be used again. -/
def execPartitionDescWrite (s : State) : Host.Outcome State Fault Refusal :=
  let ev := s.cur.ev
  if ev.part ≥ 20 ∨ ev.quad ≥ 32 then .next s
  else match s.partWrite ev.part ev.quad ev.val.toNat with
    | some p =>
      let q := s.part ev.part
      let s := if p.valid ∧ !q.valid then s.zeroRange p.poolBase (p.poolBase + 64 * p.poolLines) else s
      let left := s.dev.removed.filter fun c => !(q.clusters.getLsbD (clusterOf c) && !p.clusters.getLsbD (clusterOf c))
      .next ({ s with dev := { s.dev with removed := left } }.setPart ev.part p)
    | none => .next s

/-! ## VF descriptors (R345, R346, R365) -/

/-- A seat holds a job of the VF, or a packet of it is in flight. -/
def State.vfBusy (s : State) (v : Nat) : Bool :=
  s.seatBanks.any (·.vf == v) || s.launches.any (·.vf == v) || s.graphs.any (·.vf == v)
    || (s.vf v).queues.any fun x => x.2.busy
/-- The VF after quad q of its descriptor is written, or none when the write is discarded. Writing RESET starts a VF reset (R360). -/
def State.vfWrite (s : State) (k q v : Nat) : Option Vf :=
  let x := s.vf k
  let ok (b : Bool) (y : Vf) : Option Vf := if b then some y else none
  match q with
  | 0 =>
    let part := fld v 0 8
    let home := fld v 8 8
    let valid := flag v 24
    let moved := part ≠ x.partition || home ≠ x.home
    let placed := part == 0xFF || (part < 20 && home < 96 && (s.part part).clusters.getLsbD home)
    let taken := part ≠ 0xFF && s.vfs.any fun (n, o) => n != k && o.partition != 0xFF && o.home == home
    ok (fld v 26 38 == 0 && home < 96 && !(moved && s.vfBusy k) && !(moved && (!placed || taken)))
      { x with partition := part, home := home, weight := fld v 16 8, valid := valid, reset := x.reset || flag v 25 }
  | 1 => ok (pageOk v) { x with mobase := v }
  | 2 => ok (pageOk v) { x with molen := v }
  | 3 => ok (v % 32 == 0 && v < 2 ^ 52) { x with mbox := { x.mbox with base := v } }
  | 4 => ok (ringSize v) { x with mbox := { x.mbox with size := v } }
  | _ => ok (v == 0) x
/-- VF_DESC_WRITE (`ev.vf`, `ev.quad`, `ev.val`). -/
def execVfDescWrite (s : State) : Host.Outcome State Fault Refusal :=
  let ev := s.cur.ev
  if ev.vf ≥ 96 ∨ ev.quad ≥ 32 then .next s
  else match s.vfWrite ev.vf ev.quad ev.val.toNat with
    | some x => .next (s.setVf ev.vf x)
    | none => .next s

/-! ## Region tables (R304, R366) -/

/-- A region lies in the slice and apart from the core's other regions. -/
def Slice.regionFits (sl : Slice) (i : Nat) (r : Region) : Bool :=
  r.len == 0 || (r.base + r.len ≤ 0x5000000 &&
    !(sl.regions.any fun (j, o) => j != i && o.len != 0 && r.base < o.base + o.len && o.base < r.base + r.len))
/-- The region after quad q of its descriptor is written; DIRTY and DIGEST are read-only, and a nonzero zero-field has the write discarded
(assumption 112). -/
def Slice.regionWrite (sl : Slice) (i q v : Nat) : Option Region :=
  let r := sl.regions.get i {}
  let ok (b : Bool) (y : Region) : Option Region := if b then some y else none
  match q with
  | 0 => ok (v % 65536 == 0 && (r.vf == 0xFF || v == r.base) && sl.regionFits i { r with base := v }) { r with base := v }
  | 1 => ok (v % 65536 == 0 && (r.vf == 0xFF || v == r.len) && sl.regionFits i { r with len := v }) { r with len := v }
  | 2 =>
    let vf := fld v 0 8
    let key := fld v 16 9
    ok (fld v 8 8 == 0 && fld v 25 7 == 0 && fld v 33 31 == 0 && (vf < 96 || vf == 0xFF) && (r.vf == 0xFF || key == r.key))
      { r with vf := vf, key := key }
  | 8 | 9 | 10 | 11 | 12 | 13 | 14 | 15 => none
  | _ => ok (v == 0) r
/-- REGION_DESC_WRITE (`ev.core`, `ev.idx`: the region, `ev.quad`, `ev.val`). -/
def execRegionDescWrite (s : State) : Host.Outcome State Fault Refusal :=
  let ev := s.cur.ev
  let sl := s.slice ev.core
  if ev.core ≥ 1536 ∨ ev.idx ≥ 16 ∨ ev.quad ≥ 16 then .next s
  else match sl.regionWrite ev.idx ev.quad ev.val.toNat with
    | some r => .next (s.setSlice ev.core { sl with regions := sl.regions.put ev.idx r })
    | none => .next s

/-! ## Other registers (R364, R366, R367) -/

/-- A zero-field that is not zero has the write of FWCTL, SLOTSHARE, WLIM and a region descriptor discarded, as R365 has it for the
partition and VF descriptors (assumption 112). -/
def zeroBits (v lo : Nat) : Bool := v < 2 ^ lo
/-- The shares of a die's classes. -/
def Device.share (d : Device) (die c : Nat) : Nat := d.slotshare.get (die * 4 + c) 16
/-- A write of a register of the PF window that has no row of its own: SLOTSHARE, FWCTL's LEN, WLIM, TOKMAX, the PF mailbox, the STAGE2
answer register and SPDM session control
(assumption 15 gives the places that no rule gives). -/
def State.pfWrite (s : State) (off v : Nat) : State :=
  let d := s.dev
  let box := d.pfBox
  let setBox (b : Mailbox) : State := { s with dev := { d with pfBox := b } }
  if off % 8 ≠ 0 then s
  else if off = 0x100 then
    let len := fld v 0 32
    if !zeroBits v 36 ∨ d.busy ∨ len = 0 ∨ len > 2 ^ 28 ∨ flag v 32 ∨ flag v 33 then s else { s with dev := { d with fwLen := len } }
  else if 0x200 ≤ off ∧ off < 0x240 then
    let die := (off - 0x200) / 8
    let c (i : Nat) : Nat := fld v (8 * i) 8
    if !zeroBits v 32 ∨ c 0 + c 1 + c 2 + c 3 > 64 then s
    else { s with dev := { d with slotshare := [0, 1, 2, 3].foldl (fun (t : Table Nat) i => t.put (die * 4 + i) (c i)) d.slotshare } }
  else if 0x330000 ≤ off ∧ off < 0x330000 + 8 * 1536 then
    let core := (off - 0x330000) / 8
    if v = 0 ∨ !zeroBits v 20 then s else s.setSlice core { s.slice core with wlim := v }
  else if 0x400000 ≤ off ∧ off < 0x400000 + 8 * 1536 then
    let core := (off - 0x400000) / 8
    let c := s.core core
    if v < 256 ∨ v > 65536 then s else s.setCore core { c with tokmax := v, tokens := Nat.min c.tokens v }
  else if off = 0x500000 then (if v % 32 = 0 then setBox { box with base := v } else s)
  else if off = 0x500008 then (if ringSize v then setBox { box with size := v } else s)
  else if off = 0x500018 then (if v ≤ box.wr then setBox { box with rd := v } else s)
  else if off = 0x500028 then s.stage2Answer v
  else if off = 0x700300 then { s with dev := { d with spdm := v } }
  else s
/-- PF_WINDOW_WRITE (`ev.fromPf`, `ev.vf`, `ev.idx`: the offset, `ev.quad`: the bytes written, 0 standing for 8, `ev.val`): a register of the PF
window, or MBRD of a VF's window. -/
def execPfWindowWrite (s : State) : Host.Outcome State Fault Refusal :=
  let ev := s.cur.ev
  if ev.quad ≠ 0 ∧ ev.quad ≠ 8 then .next s
  else if ev.fromPf then .next (s.pfWrite ev.idx ev.val.toNat)
  else
    let x := s.vf ev.vf
    if ev.idx = 0 ∧ ev.val.toNat ≤ x.mbox.wr then .next (s.setVf ev.vf { x with mbox := { x.mbox with rd := ev.val.toNat } })
    else .next s

/-! ## What the windows read (R364 to R367) -/

/-- DEVSTAT. -/
def Device.devstat (d : Device) : Nat := b2n d.activeDie7 + 2 * b2n d.updating + 4 * b2n d.thermal + 256 * d.fwState
/-- FWCTL. -/
def Device.fwctl (d : Device) : Nat := d.fwLen + 2 ^ 34 * b2n d.busy + 2 ^ 35 * b2n d.fail
/-- The 256 bytes of a partition descriptor. -/
def Partition.bytes (p : Partition) : List Byte :=
  leBytes p.clusters.toNat 16 ++ leBytes p.s2root 8 ++ leBytes p.pmtags 8 ++ leBytes p.poolBase 8 ++ leBytes p.poolLines 8
    ++ leBytes p.btBase 8 ++ leBytes (p.btBlocks + p.btKey * 2 ^ 32) 8 ++ leBytes p.tickper 8
    ++ leBytes (p.pkgCount * 2 ^ 32 + p.pkgIndex * 2 ^ 40) 8 ++ leBytes p.sslotMax 8 ++ leBytes (b2n p.valid) 8 ++ leBytes 0 160
/-- The 256 bytes of a VF descriptor. -/
def Vf.bytes (x : Vf) : List Byte :=
  leBytes (x.partition + x.home * 256 + x.weight * 65536 + (b2n x.valid + 2 * b2n x.reset) * 2 ^ 24) 8 ++ leBytes x.mobase 8
    ++ leBytes x.molen 8 ++ leBytes x.mbox.base 8 ++ leBytes x.mbox.size 8 ++ leBytes 0 216
/-- The 128 bytes of a region descriptor. -/
def Region.bytes (r : Region) : List Byte :=
  leBytes r.base 8 ++ leBytes r.len 8 ++ leBytes (r.vf + r.key * 65536 + b2n r.dirty * 2 ^ 32) 8 ++ leBytes 0 40
    ++ leBytes r.digest.toNat 64
/-- A monitor of the column region (R342, R364): its kind and unit; the value a sensor gives is not fixed, its width is. The places within
the region are the model's (assumption 15). -/
def State.monitor (s : State) (off : Nat) : Nat :=
  let kind := (off - 0x410000) / 0x4000
  let unit := (off - 0x410000) % 0x4000 / 8
  if kind < 4 ∧ unit < (if kind < 2 then 1536 else 96) then Config.freeAt s.ctr off % 2 ^ (if kind = 3 then 32 else 16) else 0
/-- The phase status of a VF's migration (R361, R362): at the source 1 transfer, 2 ready, 3 erased; at the destination 1 ready, 2
confirmed; lost. -/
def State.migStatus (s : State) (v : Nat) : Nat :=
  let x := s.vf v
  x.migrating + 16 * (if x.migDone then 2 else b2n ((s.dev.escrow.find? v).any (·.ready))) + 256 * b2n x.lost
/-- What a read of n bytes of the PF window gives; one that is no aligned 8-byte access gives zero. -/
def State.pfRead (s : State) (off : Nat) (n : Nat := 8) : Nat :=
  let box := s.dev.pfBox
  let quad (l : List Byte) (o : Nat) : Nat := leNat ((l.drop o).take 8)
  if off % 8 ≠ 0 ∨ n ≠ 8 then 0
  else if off = 0 then s.dev.devstat
  else if off = 0x100 then s.dev.fwctl
  else if 0x200 ≤ off ∧ off < 0x240 then
    let d := (off - 0x200) / 8
    s.dev.share d 0 + s.dev.share d 1 * 2 ^ 8 + s.dev.share d 2 * 2 ^ 16 + s.dev.share d 3 * 2 ^ 24
  else if 0x10000 ≤ off ∧ off < 0x10000 + 256 * 20 then quad (s.part ((off - 0x10000) / 256)).bytes (off % 256)
  else if 0x20000 ≤ off ∧ off < 0x20000 + 256 * 96 then quad (s.vf ((off - 0x20000) / 256)).bytes (off % 256)
  else if 0x30000 ≤ off ∧ off < 0x330000 then
    quad ((s.slice ((off - 0x30000) / 2048)).regions.get ((off - 0x30000) / 128 % 16) {}).bytes (off % 128)
  else if 0x330000 ≤ off ∧ off < 0x330000 + 8 * 1536 then (s.slice ((off - 0x330000) / 8)).wlim
  else if 0x400000 ≤ off ∧ off < 0x400000 + 8 * 1536 then (s.core ((off - 0x400000) / 8)).tokmax
  else if 0x410000 ≤ off ∧ off < 0x420000 then s.monitor off
  else if off = 0x500000 then box.base
  else if off = 0x500008 then box.size
  else if off = 0x500010 then box.wr
  else if off = 0x500018 then box.rd
  else if off = 0x500020 then box.drop
  else if off = 0x500028 then s.dev.answer
  else if 0x600000 ≤ off ∧ off < 0x600000 + 8 * 48 then s.dev.corrected.get ((off - 0x600000) / 8) 0
  else if 0x601000 ≤ off ∧ off < 0x700000 then (match s.scrubs[(off - 0x601000) / 8]? with | some x => b2n x.complete | none => 0)
  else if 0x700000 ≤ off ∧ off < 0x700000 + 8 * 96 then s.migStatus ((off - 0x700000) / 8)
  else if off = 0x700300 then s.dev.spdm
  else 0

/-! ## Software queues (R367 to R369) -/

/-- What a read of a VF's window gives (R367); the write-only registers read zero. -/
def State.vfRead (s : State) (v off : Nat) : Nat :=
  let x := s.vf v
  if off = 0 then x.mbox.rd
  else if off = 8 then x.mbox.wr
  else if off = 0x10 then x.mbox.drop
  else if off = 0x20 then x.qpage
  else if 0x100 ≤ off ∧ off < 0x500 ∧ off % 16 = 0 then (x.queues.get ((off - 0x100) / 16) {}).word
  else 0
/-- QDESC_WRITE (`ev.vf`, `ev.idx`: queue 0 to 63, `ev.val`; `ev.fromPf`: the PF submits to the queue). -/
def execQdescWrite (s : State) : Host.Outcome State Fault Refusal :=
  let ev := s.cur.ev
  let old := (s.vf ev.vf).queues.get ev.idx {}
  if ev.idx ≥ 64 ∨ ev.vf ≥ 96 then .next s
  else match queueOf ev.val.toNat ev.fromPf with
    | none => .next s
    | some q =>
      if old.en then
        if !old.alike q ∨ q.en then .next s
        else if old.busy then .next (s.setQ ev.vf ev.idx { old with closing := true })
        else .next ((s.setQ ev.vf ev.idx { old with en := false }).unmap ev.vf ev.idx)
      else if q.en ∧ s.enabled q.die ≥ 4096 then .next s
      else .next (s.setQ ev.vf ev.idx { q with waitSince := s.nextId })

/-- A write index arrives. -/
def State.door (s : State) (vf k w : Nat) : State :=
  match (s.vf vf).queues.find? k with
  | none => s
  | some q =>
    if !q.en || q.watch || w > q.rd + q.size then s
    else { s with nextId := s.nextId + 1 }.setQ vf k { q with wr := w, waitSince := if q.wr ≤ q.rd then s.nextId else q.waitSince }
/-- QDOOR_WRITE (`ev.vf`, `ev.idx`: queue 0 to 63, `ev.val`). -/
def execQdoorWrite (s : State) : Host.Outcome State Fault Refusal :=
  let ev := s.cur.ev
  if ev.idx ≥ 64 then .next s else .next (s.door ev.vf ev.idx ev.val.toNat)
/-- QDOORX_WRITE (`ev.vf`, `ev.val`: the queue in bits [43:32], the index in bits [31:0]). -/
def execQdoorxWrite (s : State) : Host.Outcome State Fault Refusal :=
  let ev := s.cur.ev
  let v := ev.val.toNat
  let k := fld v 32 12
  if fld v 44 20 ≠ 0 ∨ k < 64 then .next s else .next (s.door ev.vf k (fld v 0 32))

/-- Why a read of the command processor stops: a second-stage fault or a refusing line, on which it stalls (R137, R356), or a line that
gives no data. -/
inductive GpaStop where | stage2 (gpa : Nat) | refuse | bad
deriving DecidableEq, Repr
/-- The bytes of a GPA range as the command processor reads them, line by line. -/
def State.readGpa (s : State) (part vf : Nat) : (fuel gpa n : Nat) → Except GpaStop (List Byte) × State
  | 0, _, _ => (.ok [], s)
  | fuel + 1, gpa, n =>
    if n = 0 then (.ok [], s)
    else
      let k := Nat.min n (64 - gpa % 64)
      match s.stage2 part vf gpa .read with
      | (none, s) => (.error (.stage2 gpa), s)
      | (some f, s) =>
        match s.lineCond part gpa f.pa f.key with
        | .refuse _ => (.error .refuse, s)
        | .ok =>
          let here := s.readLoc (.mem part 0 gpa f.pa f.key) k
          match s.readGpa part vf fuel (gpa + k) (n - k) with
          | (.error e, s) => (.error e, s)
          | (.ok l, s) => (.ok (here ++ l), s)
        | _ => (.error .bad, s)
/-- A read for the packet of a queue has stopped: on a second-stage fault the queue stalls with a report (R137; assumption 118). -/
def State.stopRead (s : State) (vf k : Nat) (r : GpaStop) : State :=
  match r, (s.vf vf).queues.find? k with
  | .stage2 gpa, some q =>
    let seq := s.dev.pfBox.seq
    (s.reportPf { type := 4, cid := s.vfCid vf, a2 := gpa, detail := 0 }).setQ vf k { q with s2stall := some seq }
  | _, _ => s
/-- The descriptors of a chain of pages from GPA `page` on: queue numbers from `k` up (R368). The reading stops at a page that
comes again or that cannot be read (assumption 123). -/
def State.readChain (s : State) (part vf : Nat) : (fuel page k : Nat) → List Nat → List (Nat × Nat) × State
  | 0, _, _, _ => ([], s)
  | fuel + 1, page, k, seen =>
    if page = 0 || page % 4096 != 0 || seen.contains page || decide (20 ≤ part) then ([], s)
    else match s.readGpa part vf 64 page 4096 with
      | (.error _, s) => ([], s)
      | (.ok bytes, s) =>
        let quad (o : Nat) : Nat := leNat ((bytes.drop o).take 8)
        let here := ((List.range 255).map fun e => (k + e, quad (16 + 16 * e))).filter fun x => x.1 < 4096
        let (rest, s) := s.readChain part vf fuel (quad 0) (k + 255) (page :: seen)
        (here ++ rest, s)
/-- QPAGE_WRITE (`ev.vf`, `ev.val`): the whole chain is read; a queue whose descriptor is unchanged keeps its indices and its slot, another
takes its new descriptor, once the packet that is being dispatched from it has completed. -/
def execQpageWrite (s : State) : Host.Outcome State Fault Refusal :=
  let ev := s.cur.ev
  let v := ev.vf
  let page := ev.val.toNat
  if page % 4096 ≠ 0 then .next s
  else
    let (l, s) := s.readChain (s.vf v).partition v 17 page 64 []
    let old := (s.vf v).queues
    let keep := (old.filter fun y => y.1 < 64 || y.2.busy).map fun (k, q) => (k, if k < 64 then q else { q with closing := true })
    let s := s.setVf v { s.vf v with qpage := page, queues := keep }
    let s := l.foldl (fun (s : State) ((k, d) : Nat × Nat) =>
      match queueOf d ev.fromPf with
      | none => s
      | some q =>
        let o := old.get k {}
        if o.en ∧ o.alike q ∧ q.en then s.setQ v k { o with closing := false, next := none }
        else if o.busy then s.setQ v k { o with closing := true, next := if q.en then some d else none }
        else if !q.en ∨ s.enabled q.die ≥ 4096 then s
        else s.setQ v k { q with waitSince := s.nextId }) s
    -- queues that the chain no longer describes, or describes anew, leave their slots
    let gone := (old.filter fun y => y.1 ≥ 64 && !y.2.busy && !(((s.vf v).queues.find? y.1).any fun q => q.en && y.2.alike q)).map (·.1)
    .next (gone.foldl (fun (s : State) k => s.unmap v k) s)

end Sys2Proof.Machine
end

