-- ==== Sys2Proof/Machine/Jobs.lean ====
section
/-! DEFINITION. The command processors (spec/16_host.md R369 to R376): packets, job records and their checks, placement, the loading of
a bank, graphs, and the rotation of hardware slots. -/
namespace Sys2Proof.Machine

/-! ## Job records (R373, R374) -/

/-- A little-endian field of bytes. -/
def fieldOf (l : List Byte) (o n : Nat) : Nat := leNat ((l.drop o).take n)
/-- A list cut into pieces of n bytes. -/
def piecesOf (n : Nat) : (k : Nat) → List Byte → List (List Byte)
  | 0, _ => []
  | k + 1, l => l.take n :: piecesOf n k (l.drop n)
/-- A ring descriptor with its zero-fields, or none (R27). -/
def ringOf (v : Nat) : Option Ring :=
  if fld v 36 28 ≠ 0 ∨ flag v 19 ∨ fld v 0 6 ≠ 0 then none else some ⟨fld v 0 19, fld v 20 16⟩
/-- A ring that a record may carry: absent, or a multiple of 8 words from 16 to 49152 within scratchpad (R27). -/
def Ring.fits (r : Ring) : Bool := r.len == 0 || (r.len % 8 == 0 && 16 ≤ r.len && r.len ≤ 49152 && r.base + 8 * r.len ≤ 0x60000)
/-- A gate entry (R350), or none. -/
def gateOf (v : Nat) : Option Gate :=
  if fld v 24 40 ≠ 0 ∨ fld v 8 16 = 0 ∨ fld v 1 7 = 0 ∨ fld v 1 7 > 96 then none else some ⟨fld v 8 16, fld v 1 7, flag v 0⟩
/-- A register image entry that a record may carry (R373). -/
def regOf (started : Nat) (l : List Byte) : Option RegImage :=
  let x : RegImage := ⟨fieldOf l 0 1, fieldOf l 1 1, fieldOf l 2 1, fieldOf l 3 1, BitVec.ofNat 64 (fieldOf l 8 8)⟩
  let code := match x.strm, x.cls with
    | 0, 0 => (match creg x.code with | .ok .zr => false | .ok _ => true | .error _ => false)
    | 2, 1 => x.code < 32
    | 1, 0 | 2, 0 | 3, 0 | 4, 0 => x.code < 16
    | _, _ => false
  if fieldOf l 4 4 ≠ 0 ∨ !code ∨ !started.testBit x.strm ∨ (if x.cls = 1 then x.part ≥ 32 else x.part ≠ 0) then none else some x
/-- A relocation entry (R53, R373), or none. -/
def relocOf (l : List Byte) : Option (Nat × Nat × Nat) :=
  let k := fieldOf l 0 1
  let r := fieldOf l 1 1
  if (k ≠ 1 ∧ k ≠ 2) ∨ r > 5 ∨ fieldOf l 2 2 ≠ 0 ∨ fieldOf l 4 4 % 8 ≠ 0 then none else some (k, r, fieldOf l 4 4)
/-- All entries, or none. -/
def allSome {α : Type} (l : List (Option α)) : Option (List α) := if l.all (·.isSome) then some (l.filterMap id) else none

/-- The checks of R374 that look at the header alone; the record but for its sections. -/
def recHeader (h : List Byte) : Option JobRec :=
  let f := fieldOf h
  let lvl := f 3 1 % 4
  let core := f 6 2
  let seat := f 8 1
  match allSome ((List.range 6).map fun i => ringOf (f (96 + 8 * i) 8)) with
  | none => none
  | some rings =>
    let area (r : Ring) : Nat × Nat := (r.base, 8 * r.len)
    let sb := f 72 4
    let sl := f 76 4
    let hr := (rings[5]?).getD ⟨0, 0⟩
    let others := (sb, sl - sb) :: (rings.take 5).map area
    let hbad := hr.len ≠ 0 && others.any fun (a, n) => n != 0 && meets hr.base (hr.base + 8 * hr.len) a n
    if f 0 2 ≠ 1 ∨ f 2 1 ≥ 32 ∨ lvl = 3 ∨ f 3 1 ≥ 8 ∨ f 4 1 ≥ 32 ∨ f 5 1 ≥ 2 ∨ f 9 1 > 16 ∨ f 10 6 ≠ 0 ∨ f 84 12 ≠ 0
      ∨ (core ≥ 192 ∧ core ≠ 0xFFFF) ∨ (seat ≥ 4 ∧ seat ≠ 0xFF) ∨ !pageOk (f 32 8) ∨ f 40 8 % 65536 ≠ 0 ∨ f 156 4 ≠ 0 then none
    else if !rings.all Ring.fits ∨ (List.range 5).any (fun i => (f 2 1).testBit i && ((rings[i]?).getD ⟨0, 0⟩).len == 0) ∨ hbad then none
    else if sb % 64 ≠ 0 ∨ sl % 64 ≠ 0 ∨ sl > 0x60000 ∨ sb > sl then none
    else some {
      started := f 2 1
      lvl := if lvl = 0 then .u else if lvl = 1 then .s else .h
      ss := flag (f 3 1) 2
      compart := f 4 1
      ut := f 5 1 == 1
      core := if core = 0xFFFF then none else some core
      seat := if seat = 0xFF then none else some seat
      reltick := f 16 8
      deadtick := f 24 8
      root := f 32 8
      saveva := BitVec.ofNat 64 (f 40 8)
      sslot := f 48 8
      rlo := BitVec.ofNat 64 (f 56 8)
      rhi := BitVec.ofNat 64 (f 64 8)
      spillBase := sb
      spillLim := sl
      pmWaitLim := BitVec.ofNat 32 (f 80 4)
      rings := rings
      mo := BitVec.ofNat 96 (f 144 12)
      regs := []
      images := []
      relocs := []
      gates := [] }

/-- A section's place: offset and length, 8-byte aligned and behind the header (R373). -/
def sectionOk (o n : Nat) : Bool := n == 0 || (o % 8 == 0 && 192 ≤ o)
/-- A record that gives no data is refused; one whose reading stalls is read again. -/
def noRec {α : Type} : GpaStop → Except GpaStop (Option α) | .bad => .ok none | e => .error e
/-- The record with its sections read, none when one is malformed or gives no data; or why the reading stalls. -/
def State.recSections (s : State) (part vf gpa : Nat) (h : List Byte) (r : JobRec) : Except GpaStop (Option JobRec) × State :=
  let f := fieldOf h
  let off (i : Nat) : Nat := f (160 + 8 * i) 4
  let len (i : Nat) : Nat := f (164 + 8 * i) 4
  if !([0, 1, 2, 3].all fun i => sectionOk (off i) (len i)) ∨ len 0 % 16 ≠ 0 ∨ len 2 % 8 ≠ 0 ∨ len 3 ≠ 8 * f 9 1
    ∨ (len 1 ≠ 0 ∧ len 1 < 48) then (.ok none, s)
  else
    let get (s : State) (i : Nat) : Except GpaStop (List Byte) × State := s.readGpa part vf (len i) (gpa + off i) (len i)
    match get s 0 with
    | (.error e, s) => (noRec e, s)
    | (.ok r0, s) => match get s 1 with
      | (.error e, s) => (noRec e, s)
      | (.ok r1, s) => match get s 2 with
        | (.error e, s) => (noRec e, s)
        | (.ok r2, s) => match get s 3 with
          | (.error e, s) => (noRec e, s)
          | (.ok r3, s) =>
            let image (i : Nat) : Option (List Word) :=
              let o := fieldOf r1 (8 * i) 4
              let n := fieldOf r1 (8 * i + 4) 4
              if n = 0 then some []
              else if o % 8 ≠ 0 ∨ o < off 1 + 48 ∨ o + 8 * n > off 1 + len 1 ∨ n > ((r.rings[i]?).getD ⟨0, 0⟩).len then none
              else some ((piecesOf 8 n (r1.drop (o - off 1))).map fun l => BitVec.ofNat 64 (leNat l))
            match allSome ((piecesOf 16 (len 0 / 16) r0).map (regOf r.started)),
                allSome ((List.range 6).map image),
                allSome ((piecesOf 8 (len 2 / 8) r2).map relocOf),
                allSome ((piecesOf 8 (len 3 / 8) r3).map fun l => gateOf (leNat l)) with
            | some regs, some images, some relocs, some gates =>
              if relocs.any fun (_, i, o) => o / 8 ≥ ((images[i]?).getD []).length then (.ok none, s)
              else (.ok (some { r with regs := regs, images := images, relocs := relocs, gates := gates }), s)
            | _, _, _, _ => (.ok none, s)

/-- The cores a record may be placed on, in order (R374). -/
def State.candidates (s : State) (part die : Nat) (r : JobRec) : List (Nat × Nat) :=
  let cores := match r.core with | some c => [die * 192 + c] | none => (List.range 192).map (die * 192 + ·)
  let cores := cores.filter fun c => s.coreInPart c part && !s.dev.removed.contains c
  let seats := match r.seat with | some t => [t] | none => [0, 1, 2, 3]
  cores.flatMap fun c => seats.map fun t => (c, t)
/-- A record is read and passes every check that does not depend on the seat (R374 checks 1, 2, 4 to 6, and 3 in part; R376). None is a
refusal; an error a reading that stalls. -/
def State.readRecord (s : State) (vf die gpa : Nat) (pf : Bool) (cls : Nat) : Except GpaStop (Option JobRec) × State :=
  let x := s.vf vf
  let p := s.part x.partition
  if gpa % 64 ≠ 0 then (.ok none, s)
  else match s.readGpa x.partition vf 192 gpa 192 with
    | (.error e, s) => (noRec e, s)
    | (.ok h, s) =>
      match recHeader h with
      | none => (.ok none, s)
      | some r =>
        if (r.lvl == .h && !pf) || (r.ss && (r.sslot == 0 || r.sslot > p.sslotMax)) || (r.reltick != 0 && cls != 0)
            || (s.candidates x.partition die r).isEmpty || !p.valid || !x.valid then (.ok none, s)
        else s.recSections x.partition vf gpa h r

/-- The checks against a candidate seat: its units, owned by the seat and the VF, and their labels (R143, R316, R347). -/
def State.fitsSeat (s : State) (vf : Nat) (r : JobRec) (core seat : Nat) : Bool :=
  let c := s.core core
  let owned (u : Nat) : Bool := c.owner.find? u == some (seat, vf)
  (List.range 96).all (fun u => !r.mo.getLsbD u || owned u)
    && r.areas.all fun (a, n, mo) =>
      ((List.range 96).filter fun u => meets (4096 * u) (4096 * (u + 1)) a n).all fun u => owned u && (r.mo.getLsbD u || c.mo.getLsbD u) == mo

/-! ## Loading a bank (R108, R373) -/

/-- The words of a ring: its image with the relocations applied, then zeros. -/
def JobRec.words (r : JobRec) (i : Nat) : List Word :=
  let ring := (r.rings[i]?).getD ⟨0, 0⟩
  let img := (r.images[i]?).getD []
  let base : Word := BitVec.ofNat 64 ring.base
  let fix (l : List Word) (x : Nat × Nat × Nat) : List Word :=
    if x.2.1 ≠ i then l
    else l.modify (x.2.2 / 8) fun w =>
      if x.1 = 2 then w + base else (w &&& ~~~ (0x3FFFFFFFF : Word)) ||| ((w + base) &&& (0x3FFFFFFFF : Word))
  (r.relocs.foldl fix img) ++ List.replicate (ring.len - img.length) 0
/-- A register of the outermost window, or of another stream. -/
def Bank.loadReg (b : Bank) (x : RegImage) : Bank :=
  let i : Fin 16 := Fin.ofNat 16 x.code
  match x.strm, x.cls with
  | 0, _ => (match creg x.code with | .ok r => b.setC r x.val | .error _ => b)
  | 1, _ => b.setX i x.val
  | 2, 0 => b.setE i x.val
  | 2, _ =>
    let v : Fin 32 := Fin.ofNat 32 x.code
    b.setV v ((b.getV v &&& ~~~ ((0xFFFFFFFFFFFFFFFF : Vec) <<< (64 * x.part))) ||| (x.val.setWidth 2048 <<< (64 * x.part)))
  | 3, _ => b.setH i x.val
  | _, _ => b.setD i x.val
/-- The bank of a job as its record gives it. -/
def JobRec.bank (r : JobRec) (job vf part : Nat) (info : JobInfo) : Bank :=
  let ring (i : Nat) : Ring := (r.rings[i]?).getD ⟨0, 0⟩
  let ctl (i : Nat) : Ctl :=
    { started := r.started.testBit i, mo := r.compart.testBit i, pc := (ring i).base, npc := (ring i).next (ring i).base }
  let b := { Bank.blank job vf part with
    lvl := r.lvl
    cS := ctl 0
    aS := ctl 1
    vS := ctl 2
    mS := ctl 3
    dS := ctl 4
    spillBase := r.spillBase
    spillLim := r.spillLim
    pmWaitLim := r.pmWaitLim
    ut := r.ut
    cring := ring 0
    aring := ring 1
    vring := ring 2
    mring := ring 3
    dring := ring 4
    hring := ring 5
    rlo := r.rlo
    rhi := r.rhi
    saveva := r.saveva
    root := r.root
    gates := r.gates
    ssPart := r.ss
    sslot := r.sslot
    info := info }
  r.regs.foldl Bank.loadReg b

/-! ## Packets (R369, R372) -/

/-- The packet at the head of the queue that a hardware slot holds (`ev.die`, `ev.slot`): VF, queue number, queue, packet. -/
def State.head (s : State) : Option (Nat × Nat × SwQueue × List Byte) × State :=
  match (if s.dev.fwState = 2 then s.slots.find? (s.cur.ev.die * 64 + s.cur.ev.slot) else none) with
  | none => (none, s)
  | some h =>
    match (s.vf h.vf).queues.find? h.queue with
    | none => (none, s)
    | some q =>
      if h.reclaim || !q.en || q.busy || q.s2stall.isSome || q.wr ≤ q.rd || (s.vf h.vf).reset || decide (20 ≤ (s.vf h.vf).partition) then (none, s)
      else match s.readGpa (s.vf h.vf).partition h.vf 64 (q.base + 64 * (q.rd % q.size)) 64 with
        | (.error e, s) => (none, s.stopRead h.vf h.queue e)
        | (.ok l, s) => (some (h.vf, h.queue, q, l), s)
/-- A packet that completes with status 1: its type, its die or a zero-field (R372). -/
def packetBad (q : SwQueue) (l : List Byte) : Bool :=
  fieldOf l 0 1 > 2 || fieldOf l 1 1 != q.die || fieldOf l 2 6 != 0 || (fieldOf l 0 1 != 0 && fieldOf l 8 8 % 64 != 0) || fieldOf l 32 32 != 0
def packetInfo (q : SwQueue) (k : Nat) (l : List Byte) : JobInfo :=
  { cmpl := fieldOf l 16 8, pktId := BitVec.ofNat 64 (fieldOf l 24 8), die := q.die, queue := k }
/-- The dispatch of a packet of a type: a malformed packet completes with status 1 (one of no known type as a NOP); `go` does the rest. -/
def dispatch (type : Nat) (go : Nat → Nat → SwQueue → List Byte → State → State) (s : State) : Host.Outcome State Fault Refusal :=
  match s.head with
  | (none, s) => .next s
  | (some (vf, k, q, l), s) =>
    let t := fieldOf l 0 1
    if (if t > 2 then 0 else t) ≠ type then .next s
    else if packetBad q l then .next ((s.completionWord vf (s.vf vf).partition (packetInfo q k l) 1).packetDone vf k)
    else .next (go vf k q l s)

/-- NOP_PACKET (`ev.die`, `ev.slot`). -/
def execNopPacket (s : State) : Host.Outcome State Fault Refusal :=
  dispatch 0 (fun vf k q l s => (s.completionWord vf (s.vf vf).partition (packetInfo q k l) 0).packetDone vf k) s
/-- LAUNCH (`ev.die`, `ev.slot`): the record is read and checked; it is refused, or waits for its tick and its seat. -/
def execLaunch (s : State) : Host.Outcome State Fault Refusal :=
  dispatch 1 (fun vf k q l s =>
    let info := packetInfo q k l
    match s.readRecord vf q.die (fieldOf l 8 8) q.pf q.cls with
    | (.error e, s) => s.stopRead vf k e
    | (.ok none, s) => (s.completionWord vf (s.vf vf).partition info 2).packetDone vf k
    | (.ok (some r), s) =>
      let l : PendLaunch := { vf := vf, die := q.die, record := r, info := { info with deadTick := r.deadtick } }
      { s with launches := s.launches ++ [l] }.setQ vf k { q with busy := true }) s

/-! ## Graphs (R375) -/

/-- A graph node's 64 bytes: 1 a LAUNCH, 2 a TRANSFORM (assumption 16). -/
def nodeOf (l : List Byte) : GraphNode where
  launch := fieldOf l 0 1 == 1
  w1 := fieldOf l 8 8
  w2 := fieldOf l 16 8
  w3 := fieldOf l 24 8
  dep := fieldOf l 2 2
  succ := ((List.range 16).map fun i => fieldOf l (32 + 2 * i) 2).takeWhile (· != 0xFFFF)
/-- The nodes of a table: up to 256, ended by a node of type 0. None when it is malformed or gives no data;
an error when the reading stalls. -/
def State.readNodes (s : State) (part vf : Nat) : (fuel gpa : Nat) → Except GpaStop (Option (List GraphNode)) × State
  | 0, _ => (.ok (some []), s)
  | fuel + 1, gpa =>
    match s.readGpa part vf 64 gpa 64 with
    | (.error e, s) => (noRec e, s)
    | (.ok l, s) =>
      if fieldOf l 0 1 = 0 then (.ok (some []), s)
      else if fieldOf l 0 1 > 2 then (.ok none, s)
      else match s.readNodes part vf fuel (gpa + 64) with
        | (.ok (some ns), s) => (.ok (some (nodeOf l :: ns)), s)
        | r => r
/-- A graph ends: its completion word, and its packet is done. -/
def State.endGraph (s : State) (g : Graph) (status : Nat) : State :=
  ({ s with graphs := s.graphs.filter fun (x : Graph) => x.id != g.id }.completionWord g.vf (s.vf g.vf).partition g.info status).packetDone
    g.vf g.info.queue
/-- The command processor as it translates a VF's addresses: it is no core's; it runs at level S, outside the model-owner compartment
(assumption 17). -/
def State.cpCtx (s : State) (vf die : Nat) : VaCtx := ⟨1536 + die, .d, vf, (s.vf vf).partition, .s, false, Config.transformRoot vf, 0⟩
/-- Node i of a graph is dispatched: a launch is read and checked, and a refused one completes the graph; one whose
record stalls is read again (R137, R356); a transform begins. -/
def State.startNode (s : State) (id i : Nat) : State :=
  match s.graphs.find? (·.id == id) with
  | none => s
  | some g =>
    match g.nodes[i]? with
    | none => s
    | some n =>
      let set (s : State) (n : GraphNode) : State :=
        { s with graphs := s.graphs.map fun (x : Graph) => if x.id = id then { x with nodes := x.nodes.set i n } else x }
      if n.dispatched || n.dep ≠ 0 || g.s2stall.isSome then s
      else if n.launch then
        let cls := (((s.vf g.vf).queues.find? g.info.queue).map (·.cls)).getD 0
        match s.readRecord g.vf g.die n.w1 g.pf cls with
        | (.error (.stage2 gpa), s) =>
          let seq := s.dev.pfBox.seq
          let s := s.reportPf { type := 4, cid := s.vfCid g.vf, a2 := gpa, detail := 0 }
          { s with graphs := s.graphs.map fun (x : Graph) => if x.id = id then { x with s2stall := some seq } else x }
        | (.error _, s) => s
        | (.ok none, s) => s.endGraph g 2
        | (.ok (some r), s) =>
          let info := { g.info with cmpl := 0, deadTick := r.deadtick, graph := some (id, i) }
          let l : PendLaunch := { vf := g.vf, die := g.die, record := r, info := info }
          set { s with launches := s.launches ++ [l] } { n with dispatched := true }
      else set s { n with dispatched := true }
/-- The pieces of a transform: aligned 8-byte parts when both addresses are multiples of 8, else bytes (R192). -/
def GraphNode.unit (n : GraphNode) : Nat := if n.w1 % 8 = 0 ∧ n.w2 % 8 = 0 then 8 else 1
def GraphNode.units (n : GraphNode) : Nat := (n.w3 + n.unit - 1) / n.unit
def GraphNode.copied (n : GraphNode) : Bool := (List.range n.units).all n.written.testBit
/-- All 64 bytes of the line at a destination address are of the transform. -/
def GraphNode.holdsLine (n : GraphNode) (a : Nat) : Bool := n.w1 ≤ a / 64 * 64 && a / 64 * 64 + 64 ≤ n.w1 + n.w3
/-- Piece `p` of a transform is read, or is written once it has been read, in any order of the pieces (R375); a check that fails ends its
graph with status 2; on a second-stage fault it stalls with its report (R137), and a refusing line leaves it to be tried again. -/
def State.transform (s : State) (g : Graph) (i : Nat) (n : GraphNode) (p : Nat) : State :=
  let c := s.cpCtx g.vf g.die
  let set (s : State) (n : GraphNode) : State :=
    { s with graphs := s.graphs.map fun (y : Graph) => if y.id = g.id then { y with nodes := y.nodes.set i n } else y }
  let fail (s : State) (va : Nat) (f : VaFail) (write : Bool) : State :=
    match f with
    | .stage2 gpa walk =>
      let seq := s.dev.pfBox.seq
      let s := s.reportPf { type := 4, walk := walk, cid := s.vfCid g.vf, a1 := va, a2 := gpa, detail := b2n write }
      { s with graphs := s.graphs.map fun (y : Graph) => if y.id = g.id then { y with s2stall := some seq } else y }
    | .refuse _ => s
    | _ => s.endGraph g 2
  let src := n.w2 + n.unit * p
  let dst := n.w1 + n.unit * p
  if n.units ≤ p || n.written.testBit p then set s { n with ended := n.copied }
  else match n.read.find? p with
  | none =>
    match s.checkVa c (BitVec.ofNat 64 src) 1 0 { write := false, writes := false } with
    | (.error f, s) => fail s src f false
    | (.ok t, s) => set s { n with read := n.read.put p (s.viewAt 5 t.loc (Nat.min n.unit (n.w3 - n.unit * p))) }
  | some l =>
    match s.checkVa c (BitVec.ofNat 64 dst) 1 0 { write := true, writes := true, fullLine := n.holdsLine dst } with
    | (.error f, s) => fail s dst f true
    | (.ok t, s) =>
      if s.lineTaken 0 .d t.loc then s
      else
        let n := { n with read := n.read.del p, written := n.written ||| 2 ^ p }
        let s := s.writeLoc t.loc l
        let line := (List.range n.units).all fun q => (n.w1 + n.unit * q) / 64 != dst / 64 || n.written.testBit q
        set (if n.holdsLine dst && line then s.wholeLine t.loc else s) { n with ended := n.copied }
/-- Every node whose counter is 0 is dispatched, in order. -/
def State.startNodes (s : State) (id : Nat) : State := (List.range 256).foldl (fun s i => s.startNode id i) s
/-- GRAPH (`ev.die`, `ev.slot`): the node table is read and its first nodes are dispatched. -/
def execGraph (s : State) : Host.Outcome State Fault Refusal :=
  dispatch 2 (fun vf k q l s =>
    let info := packetInfo q k l
    let part := (s.vf vf).partition
    match s.readNodes part vf 256 (fieldOf l 8 8) with
    | (.error e, s) => s.stopRead vf k e
    | (.ok none, s) | (.ok (some []), s) => (s.completionWord vf part info 2).packetDone vf k
    | (.ok (some ns), s) =>
      let (id, s) := s.fresh
      let g : Graph := { id := id, vf := vf, die := q.die, info := info, pf := q.pf, nodes := ns }
      ({ s with graphs := s.graphs ++ [g] }.setQ vf k { q with busy := true }).startNodes id) s
/-- GRAPH_NODE_COMPLETE (`ev.idx`: the graph, `ev.quad`: the node): a transform that has been dispatched moves piece `ev.slot`; a
launch whose record has stalled is read again; a node that has ended
decrements its successors' counters; the last one completes the graph. -/
def execGraphNodeComplete (s : State) : Host.Outcome State Fault Refusal :=
  match s.graphs[s.cur.ev.idx]? with
  | none => .next s
  | some g =>
    let i := s.cur.ev.quad
    match g.nodes[i]? with
    | none => .next s
    | some n =>
      if n.launch && !n.dispatched then .next (s.startNode g.id i)
      else if n.dispatched && !n.launch && !n.ended then
        .next (if g.s2stall.isSome then s else s.transform g i n s.cur.ev.slot)
      else if !n.ended || n.done then .next s
      else
        let nodes := (g.nodes.set i { n with done := true }).mapIdx fun j (x : GraphNode) =>
          { x with dep := x.dep - (n.succ.filter (· == j)).length }
        let s := { s with graphs := s.graphs.map fun (x : Graph) => if x.id = g.id then { x with nodes := nodes } else x }
        if nodes.all (·.done) then .next (s.endGraph g 0) else .next (s.startNodes g.id)

/-! ## Placement (R374, R376) -/

/-- A launch leaves the command processor unplaced: status 2, for its graph or for its own packet. -/
def State.refuseLaunch (s : State) (l : PendLaunch) : State :=
  let s := { s with launches := s.launches.filter (· != l) }
  match l.info.graph with
  | some (id, _) => match s.graphs.find? (·.id == id) with | some g => s.endGraph g 2 | none => s
  | none => (s.completionWord l.vf (s.vf l.vf).partition l.info 2).packetDone l.vf l.info.queue
/-- LAUNCH_PLACE (`ev.idx`: the launch): once its tick is reached, the first candidate that passes and whose shadow is EMPTY; refused when
none passes; else it waits. -/
def execLaunchPlace (s : State) : Host.Outcome State Fault Refusal :=
  match s.launches[s.cur.ev.idx]? with
  | none => .next s
  | some l =>
    let part := (s.vf l.vf).partition
    if l.target.isSome ∨ (s.part part).tickno < l.record.reltick ∨ s.dev.fwState ≠ 2 then .next s
    else
      let ok := (s.candidates part l.die l.record).filter fun (c, t) => s.fitsSeat l.vf l.record c t
      if ok.isEmpty then .next (s.refuseLaunch l)
      else match List.find? (fun (x : Nat × Nat) => ((s.core x.1).seat x.2).shadow == .empty && !s.dev.resizing.contains x.1) ok with
        | none => .next s
        | some (c, t) =>
          let s := { s with launches := s.launches.set s.cur.ev.idx { l with target := some (c, t) } }.setShadow c t (.loading none)
          .next (if l.info.graph.isNone then s.packetDone l.vf l.info.queue else s)
/-- SHADOW_LOADED (`ev.idx`: the launch): the bank is written, once its rings and spill area are clear of the live job; in an empty seat it goes
live (R14, R374). -/
def execShadowLoaded (s : State) : Host.Outcome State Fault Refusal :=
  match s.launches[s.cur.ev.idx]? with
  | none => .next s
  | some l =>
    match l.target with
    | none => .next s
    | some (c, t) =>
      let r := l.record
      let clash := (s.bank c t).any r.clashes
      let refused := r.areas.any fun (a, n, _) => (List.range 96).any fun u =>
        (s.core c).scrubbing.getLsbD u && meets (4096 * u) (4096 * (u + 1)) a n
      if clash || refused then .next s
      else
        let (job, s) := s.fresh
        let s := (List.range 6).foldl (fun (s : State) i =>
          let ring := (r.rings[i]?).getD ⟨0, 0⟩
          s.writeLoc (.sp c ring.base) ((r.words i).flatMap fun w => leBytes w.toNat 8)) s
        let k := s.core c
        let s := s.setCore c { k with mo := k.mo ||| r.mo }
        let s := { s with launches := s.launches.eraseIdx s.cur.ev.idx }
        let s := s.setShadow c t (.loaded (r.bank job l.vf (s.vf l.vf).partition l.info))
        .next (if (s.bank c t).isNone then s.swapIn c t else s)

/-! ## Hardware slots (R370, R371) -/

/-- The class of slot i of a die; the slots beyond the shares have none. -/
def Device.slotClass (d : Device) (die i : Nat) : Option Nat :=
  let a := d.share die 0
  let b := a + d.share die 1
  let c := b + d.share die 2
  let e := c + d.share die 3
  if i < a then some 0 else if i < b then some 1 else if i < c then some 2 else if i < e then some 3 else none
/-- A queue has packets to dispatch; of a WATCH queue the index word says so (R369, R371; assumption 119). -/
def State.hasWork (s : State) (vf : Nat) (q : SwQueue) : Bool :=
  decide (q.rd < q.wr) || (q.watch && match (s.readGpa (s.vf vf).partition vf 8 (q.base + 64 * q.size) 8).1 with
    | .ok l => decide (q.rd < leNat l ∧ leNat l ≤ q.rd + q.size)
    | .error _ => false)
/-- A queue that waits for a slot: enabled, on the die, of the class, not mapped, with work. Of a VF in no partition nothing is read (R344). -/
def State.waits (s : State) (die cls vf k : Nat) (q : SwQueue) : Bool :=
  q.en && !q.closing && q.die == die && q.cls == cls && !(s.vf vf).reset && decide ((s.vf vf).partition < 20)
    && !(s.slots.any fun (n, h) => n / 64 == die && h.vf == vf && h.queue == k) && s.hasWork vf q
/-- The longest-waiting queue of a class. -/
def State.longest (s : State) (die cls : Nat) : Option (Nat × Nat × SwQueue) :=
  let all := s.vfs.flatMap fun (v, x) => (x.queues.filter fun (k, q) => s.waits die cls v k q).map fun (k, q) => (v, k, q)
  all.foldl (fun (best : Option (Nat × Nat × SwQueue)) y =>
    match best with | none => some y | some b => if y.2.2.waitSince < b.2.2.waitSince then some y else best) none
/-- Slot n is given to a queue; a WATCH queue's index word is read (R369). -/
def State.mapSlot (s : State) (n vf k : Nat) (q : SwQueue) : State :=
  let s := { s with slots := s.slots.put n { vf := vf, part := (s.vf vf).partition, queue := k, since := s.nextId }, nextId := s.nextId + 1 }
  if !q.watch then s
  else match s.readGpa (s.vf vf).partition vf 8 (q.base + 64 * q.size) 8 with
    | (.error _, s) => s
    | (.ok l, s) => if leNat l > q.rd + q.size then s else s.setQ vf k { q with wr := leNat l }
/-- The next class in turn that has a waiting queue, for a slot that no class uses. -/
def State.spareClass (s : State) (die : Nat) : Option Nat :=
  ([0, 1, 2, 3].map fun i => (s.dev.spareTurn + i) % 4).find? fun c => (s.longest die c).isSome
/-- A slot is given to the longest-waiting queue of its class, else, for one quantum, to one of the classes in turn (R371). -/
def State.giveSlot (s : State) (die i : Nat) : State :=
  match (s.dev.slotClass die i).bind (s.longest die) with
  | some (v, k, q) => s.mapSlot (die * 64 + i) v k q
  | none =>
    match s.spareClass die with
    | none => s
    | some c =>
      match s.longest die c with
      | some (v, k, q) => { s with dev := { s.dev with spareTurn := (c + 1) % 4 } }.mapSlot (die * 64 + i) v k q
      | none => s
/-- What a quantum boundary does to slot i of a die. `now`: slots given since then have not been held for a whole quantum. A slot of a class
is taken from a queue of the class that has no work, or has held it while others of the class wait; a slot that no class uses, or that is
lent to another class, has a new queue after each quantum. -/
def State.rotate (s : State) (die i now : Nat) : State :=
  let n := die * 64 + i
  let cls := s.dev.slotClass die i
  match s.slots.find? n with
  | none => s.giveSlot die i
  | some h =>
    if h.reclaim then s
    else match (s.vf h.vf).queues.find? h.queue with
      | none => { s with slots := s.slots.del n }.giveSlot die i
      | some q =>
        let work := q.busy || s.hasWork h.vf q
        let own := (cls.bind (s.longest die)).isSome
        let waiter := own || ((cls != some q.cls || !work) && (s.spareClass die).isSome)
        if !waiter || (work && decide (now ≤ h.since)) then (if q.watch && !q.busy then s.mapSlot n h.vf h.queue q else s)
        else ({ s with slots := s.slots.del n }.setQ h.vf h.queue { q with waitSince := s.nextId }).giveSlot die i
/-- SLOT_QUANTUM (`ev.die`): the slots of a die rotate. -/
def execSlotQuantum (s : State) : Host.Outcome State Fault Refusal :=
  let now := s.nextId
  if s.dev.fwState ≠ 2 then .next s
  else .next ((List.range 64).foldl (fun s i => s.rotate s.cur.ev.die i now) s)

end Sys2Proof.Machine
end

