-- ==== Sys2Proof/Machine/Migrate.lean ====
section
/-! DEFINITION. The migration of a VF to another package (spec/15_tenancy.md R361, R362): the phases at its source and at its destination,
and what becomes of it when the destination is lost. -/
namespace Sys2Proof.Machine

/-- The keys of a VF. -/
def State.vfKeys (s : State) (vf : Nat) : List (Nat × Nat × Nat × Bool) :=
  (s.keys.filter fun e => e.1 != 0 && e.2.vf == vf).map fun (n, k) => (n, k.key, k.kind, k.mo)
/-- Keys as they arrive: records of slot (2 bytes), kind, compartment and key (64 bytes). -/
def escrowOf (l : List Byte) : (fuel : Nat) → List (Nat × Nat × Nat × Bool)
  | 0 => []
  | n + 1 =>
    if l.length < 68 then []
    else (leNat (l.take 2), leNat ((l.drop 4).take 64), leNat ((l.drop 2).take 1), leNat ((l.drop 3).take 1) % 2 == 1)
      :: escrowOf (l.drop 68) n
/-- The state of a VF: its banks, its scratchpad units with their valid bits, and the LPDDR-6 lines sealed under its keys. -/
def State.vfState (s : State) (vf : Nat) : List Byte :=
  ((s.allBanks.filter (·.2.vf == vf)).flatMap fun x => Config.bankState x.2)
    ++ (s.cores.flatMap fun (n, c) => (c.owner.filter (·.2.2 == vf)).flatMap fun (u, seat, _) =>
        leBytes (n * 2 ^ 16 + u * 4 + seat) 8 ++ leBytes (fld c.valid.toNat (1024 * u) 1024) 128 ++ c.sp.readBytes (4096 * u) 4096)
    ++ (s.metas.filter fun e => e.2.keygen.any fun g => (s.key g.1).any (·.vf == vf)).flatMap fun (l, _) =>
      leBytes (64 * l) 8 ++ s.dram.readBytes (64 * l) 64
/-- What the source sends (R361): the VF's keys as the firmware wraps them, its descriptor and state, and its weight regions with their rows.
No rule gives the encoding (assumption 120). -/
def State.transferOf (s : State) (vf : Nat) : List Byte :=
  ((s.vfKeys vf).flatMap fun (n, key, kind, mo) => Config.wrapKey (Config.packageKey s.dev.bootCount) n key kind mo)
    ++ (s.vf vf).bytes ++ s.vfState vf
    ++ s.tier.flatMap fun (c, sl) => (sl.regions.filter fun x => x.2.vf == vf && x.2.len != 0).flatMap fun (_, r) =>
      r.bytes ++ sl.sealBytes c r
/-- MIGRATION_TRANSFER: phase 1. At the source (`ev.fromPf`, `ev.vf`, `ev.val`: the migration ID) the transfer is sent; with `ev.quad` = 1 the
destination's *ready* arrives. At the destination the keys, the first `ev.idx` records of `ev.bytes`, go to escrow with the rest of the transfer;
with `ev.quad` = 1 it reports *ready*. A transfer that has been confirmed already has no further effect (R362). -/
def execMigrationTransfer (s : State) : Host.Outcome State Fault Refusal :=
  let ev := s.cur.ev
  let x := s.vf ev.vf
  if ev.fromPf ∧ ev.quad = 1 then
    if x.migrating = 1 then .next (s.setVf ev.vf { x with migrating := 2 }) else .next s
  else if ev.fromPf then
    if x.migrating ≠ 0 ∨ x.lost then .next s
    else .next ({ s with dev := { s.dev with outbox := s.transferOf ev.vf } }.setVf ev.vf { x with migrating := 1, migId := ev.val.toNat })
  else match s.dev.escrow.find? ev.vf with
    | some e => if ev.quad = 1 then .next { s with dev := { s.dev with escrow := s.dev.escrow.put ev.vf { e with ready := true } } } else .next s
    | none =>
      if ev.quad = 1 ∨ (x.migDone ∧ x.migId = ev.val.toNat) then .next s
      else
        let data := ev.bytes.drop (68 * ev.idx)
        let e : Escrow := { id := ev.val.toNat, digest := sha512 data, data := data, keys := escrowOf ev.bytes ev.idx }
        .next ({ s with dev := { s.dev with escrow := s.dev.escrow.put ev.vf e } }.setVf ev.vf { x with migDone := false, lost := false })
/-- MIGRATION_ERASE (`ev.vf`): phase 2 at the source (`ev.fromPf`), once the destination is ready: every slot of the VF is zapped, when no access
is in flight under it. At the destination the source's *erased* arrives. -/
def execMigrationErase (s : State) : Host.Outcome State Fault Refusal :=
  let v := s.cur.ev.vf
  let x := s.vf v
  let slots := (s.vfKeys v).map (·.1)
  if !s.cur.ev.fromPf then
    match s.dev.escrow.find? v with
    | some e => if e.ready then .next { s with dev := { s.dev with escrow := s.dev.escrow.put v { e with erased := true } } } else .next s
    | none => .next s
  else if x.migrating ≠ 2 ∨ slots.any (fun k => s.slotBusy k s.nextId) then .next s
  else .next ((slots.foldl State.zapKey s).setVf v { x with migrating := 3 })
/-- MIGRATION_CONFIRM (`ev.vf`): phase 3: the source has erased, and the destination verifies the state (`ev.bytes`) against the transfer digest,
loads the keys from escrow, reports confirmed and clears it; at the source (`ev.fromPf`), which has erased, the migration is over. -/
def execMigrationConfirm (s : State) : Host.Outcome State Fault Refusal :=
  let v := s.cur.ev.vf
  let x := s.vf v
  if s.cur.ev.fromPf then (if x.migrating = 3 then .next (s.setVf v { x with migrating := 0 }) else .next s)
  else match s.dev.escrow.find? v with
    | none => .next s
    | some e =>
      if !e.erased ∨ sha512 s.cur.ev.bytes ≠ e.digest then .next s
      else
        let s := e.keys.foldl (fun (s : State) (n, key, kind, mo) =>
          { s with keys := s.keys.put n ⟨key, kind, v, mo, s.keyGen⟩, keyGen := s.keyGen + 1 }) s
        .next ({ s with dev := { s.dev with escrow := s.dev.escrow.del v } }.setVf v { x with migDone := true, migId := e.id })
/-- The MIGRATION_LOST reports of a side in phase 2 or 3: the VF is lost. -/
def State.lostVf (s : State) (vf id phase : Nat) : State :=
  let x := s.vf vf
  let r : Report := { type := 0xA, cid := s.vfCid vf, a1 := id, a2 := s.cur.ev.val.toNat, detail := phase }
  ((s.setVf vf { x with migrating := 0, lost := true }).reportVf vf r).reportPf r
/-- MIGRATION_LOST (`ev.vf`, `ev.val`: the peer's identity-key digest; `ev.fromPf`: at the source): before *ready* the source keeps the VF; from phase
2 on the VF is lost, at the source when the destination is lost, at the destination when its escrow fails. Before it has reported *ready* the
destination only discards its escrow. -/
def execMigrationLost (s : State) : Host.Outcome State Fault Refusal :=
  let v := s.cur.ev.vf
  let x := s.vf v
  if s.cur.ev.fromPf then
    if x.migrating = 0 then .next s
    else if x.migrating = 1 then .next (s.setVf v { x with migrating := 0 })
    else .next (s.lostVf v x.migId x.migrating)
  else match s.dev.escrow.find? v with
    | none => .next s
    | some e =>
      let s := { s with dev := { s.dev with escrow := s.dev.escrow.del v } }
      .next (if e.ready then s.lostVf v e.id (if e.erased then 3 else 2) else s)

end Sys2Proof.Machine
end

