-- ==== Sys2Proof/Machine/Firmware.lean ====
section
/-! DEFINITION. Firmware, power, start-up and attestation, the thermal shutdown and the tick edge (spec/16_host.md R376, R378 to R382;
R21, R127), and the unassigned opcode (R25, R39). -/
namespace Sys2Proof.Machine

/-- UNASSIGNED_OPCODE: ILLEGAL precisely at the word (R25 step 2; in M, assumption 97). -/
def execUnassignedOpcode (_op : BitVec 8) (_operands : BitVec 40) (s : State) : Host.Outcome State Fault Refusal :=
  match s.bank s.cur.core s.cur.seat with
  | none => .fault .noStream
  | some b => if b.unsettled s.cur.eng then .next s.blockedAt else s.trapHere b (trapOf s.cur.eng .illegal)

/-! ## Ticks (R127, R376) -/

/-- The DEADLINE report of a job whose deadline tick has come (R376); the VF's MSI-X vector 2 fires (R363). -/
def State.deadline (s : State) (vf part : Nat) (i : JobInfo) : State :=
  (s.reportVf vf { type := 8, cid := cid part vf, a1 := i.pktId.toNat, a2 := i.deadTick, detail := i.die * 4096 + i.queue }).fireVf vf 2
def JobInfo.due (i : JobInfo) (tick : Nat) : Bool := i.deadTick != 0 && !i.deadDone && i.deadTick ≤ tick
/-- TICK_EDGE (`ev.part`): TIMEBASE reaches the partition's next edge; TICKNO rises, event latches are set (R343), deadlines are reported. -/
def execTickEdge (s : State) : Host.Outcome State Fault Refusal :=
  let k := s.cur.ev.part
  let p := s.part k
  if !p.valid then .next s
  else
    let n := p.tickno + 1
    let s := { s with timebase := Nat.max s.timebase p.nextEdge }.setPart k { p with tickno := n, nextEdge := p.nextEdge + p.tickper }
    let wake (b : Bank) : Bank := if b.part = k then { b with wfe := true } else b
    let s := { s with cores := s.cores.map fun (i, c) => (i, { c with seats := c.seats.map fun t => { t with live := t.live.map wake } }) }
    let due : List (Nat × Nat × JobInfo) :=
      (s.jobBanks.filter fun b => b.part == k && b.info.due n).map fun b => (b.job, b.vf, b.info)
    let s := due.foldl (fun (s : State) ((job, vf, i) : Nat × Nat × JobInfo) =>
      (s.deadline vf k i).mapJob job fun b => { b with info := { b.info with deadDone := true } }) s
    let late (l : PendLaunch) : Bool := (s.vf l.vf).partition == k && l.info.due n
    let s := (s.launches.filter late).foldl (fun (s : State) l => s.deadline l.vf k l.info) s
    let told (l : PendLaunch) : PendLaunch := if late l then { l with info := { l.info with deadDone := true } } else l
    .next { s with launches := s.launches.map told }

/-! ## Firmware (R378, R379) -/

/-- The image in BAR2 as FWCTL's LEN bounds it. -/
def imageOf (bytes : List Byte) (len : Nat) : List Byte := bytes.take len ++ List.replicate (len - bytes.length) 0
/-- FWCTL_GO (`ev.val`: the value written, `ev.bytes`: the image in BAR2): the boot ROM checks the image and records its digest. -/
def execFwctlGo (s : State) : Host.Outcome State Fault Refusal :=
  let v := s.cur.ev.val.toNat
  let d := s.dev
  let len := fld v 0 32
  if fld v 36 28 ≠ 0 ∨ !flag v 32 ∨ flag v 33 ∨ len = 0 ∨ len > 2 ^ 28 ∨ d.busy ∨ (d.fwState ≠ 1 ∧ d.fwState ≠ 3) then .next s
  else
    let img := imageOf s.cur.ev.bytes len
    let d := { d with fwLen := len, image := img, fwDigest := sha512 img }
    if Config.imageOk img then .next { s with dev := { d with fwState := 1, fail := false, busy := true, checked := true } }
    else .next { s with dev := { d with fwState := 3, fail := true } }
/-- FWCTL_UPDATE: the standby complex verifies and boots the image, and imports the state table, or refuses the update. -/
def execFwctlUpdate (s : State) : Host.Outcome State Fault Refusal :=
  let v := s.cur.ev.val.toNat
  let d := s.dev
  let len := fld v 0 32
  if fld v 36 28 ≠ 0 ∨ flag v 32 ∨ !flag v 33 ∨ len = 0 ∨ len > 2 ^ 28 ∨ d.busy ∨ d.fwState ≠ 2 then .next s
  else
    let img := imageOf s.cur.ev.bytes len
    if Config.imageOk img ∧ Config.acceptsTable img then
      .next { s with dev := { d with fwLen := len, image := img, fail := false, busy := true, updating := true } }
    else .next { s with dev := { d with fwLen := len, fail := true } }
/-- A GRAPH packet is partly expanded: some of its nodes are dispatched, and some are not (R379). -/
def Graph.partly (g : Graph) : Bool := g.nodes.any (·.dispatched) && g.nodes.any (!·.dispatched)
/-- LIVE_UPDATE_TAKEOVER: at a boundary at which no packet is partly expanded, the roles change. Nothing else changes. -/
def execLiveUpdateTakeover (s : State) : Host.Outcome State Fault Refusal :=
  let d := s.dev
  if !d.updating ∨ s.launches.any (·.target.isSome) ∨ s.graphs.any (·.partly) then .next s
  else .next { s with dev := { d with updating := false, busy := false, activeDie7 := !d.activeDie7, fwDigest := sha512 d.image } }

/-! ## Power and start-up (R21, R380) -/

/-- POWER_LOSS: only the weight tier keeps its content, the migration escrow and the firmware state area with it. The VF field of a region
comes up unassigned (R390), and WLIM at its default (R307). -/
def execPowerLoss (s : State) : Host.Outcome State Fault Refusal :=
  .next { State.reset with
    tier := s.tier.map fun (c, sl) => (c, { sl with regions := sl.regions.map fun (i, r) => (i, { r with vf := 0xFF }), wlim := ({} : Slice).wlim })
    host := s.host
    nextId := s.nextId
    ctr := s.ctr
    agenda := s.agenda
    dev := { State.reset.dev with powered := false, fwState := 0, bootCount := s.dev.bootCount, escrow := s.dev.escrow } }
/-- POWER_UP: the boot ROM of each complex waits for an image; the package has a new key-wrapping key to derive; TIMEBASE starts at 0
(R385). -/
def execPowerUp (s : State) : Host.Outcome State Fault Refusal :=
  if s.dev.powered then .next s
  else .next { s with timebase := 0, dev := { s.dev with powered := true, fwState := 1, bootCount := s.dev.bootCount + 1 } }
/-- The manifest record of an assigned region: core, region, flags, the start-up digest (R381). -/
def manifestRecord (core i : Nat) (sl : Slice) (r : Region) : List Byte :=
  let h := sha512 (sl.sealBytes core r)
  leBytes core 2 ++ leBytes i 1 ++ leBytes (b2n r.dirty + 2 * b2n (h == r.digest)) 1 ++ leBytes 0 4 ++ leBytes h.toNat 64
/-- START_UP (`ev.fromPf`: packages are joined over Exnel, and adopt the common TIMEBASE `ev.val`): after the firmware is verified, links and
lanes are trained, keys derived, the regions that the tier kept hashed (R390); firmware state 2. -/
def execStartUp (s : State) : Host.Outcome State Fault Refusal :=
  let d := s.dev
  if !d.checked ∨ d.fwState ≠ 1 then .next s
  else
    let regions := s.tier.flatMap fun (c, sl) => sl.regions.flatMap fun (i, r) =>
      if r.len ≠ 0 then manifestRecord c i sl r else []
    .next { s with
      cores := s.cores.map fun (n, c) => (n, { c with lanes := [] })
      timebase := if s.cur.ev.fromPf then s.cur.ev.val.toNat else s.timebase
      dev := { d with checked := false, busy := false, fwState := 2, manifest := regions } }

/-! ## Attestation (R381) -/

/-- The partition, VF and region tables as the host reads them. -/
def State.tables (s : State) : List Byte :=
  (List.range 20).flatMap (fun p => (s.part p).bytes) ++ (List.range 96).flatMap (fun v => (s.vf v).bytes)
    ++ (List.range 1536).flatMap fun c => (List.range 16).flatMap fun i => ((s.slice c).regions.get i {}).bytes
/-- GET_MEASUREMENTS (`ev.idx`: a block from 1 to 4, else all of them): the block, signed. -/
def execGetMeasurements (s : State) : Host.Outcome State Fault Refusal :=
  let blocks := match s.cur.ev.idx with
    | 1 => leBytes Config.romDigest.toNat 64
    | 2 => leBytes s.dev.fwDigest.toNat 64
    | 3 => leBytes (sha512 s.tables).toNat 64
    | 4 => s.dev.manifest
    | _ => leBytes Config.romDigest.toNat 64 ++ leBytes s.dev.fwDigest.toNat 64 ++ leBytes (sha512 s.tables).toNat 64 ++ s.dev.manifest
  .next { s with dev := { s.dev with outbox := blocks ++ leBytes (Config.sign blocks).toNat 512 } }
/-- PACKAGE_KEY_EXPORT (`ev.fromPf`: the session has authenticated the requester; `ev.bytes`: the session): the key leaves the firmware only
under the session's keys. -/
def execPackageKeyExport (s : State) : Host.Outcome State Fault Refusal :=
  if !s.cur.ev.fromPf ∨ s.dev.fwState ≠ 2 then .next s
  else .next { s with dev := { s.dev with outbox := Config.exportKey (Config.packageKey s.dev.bootCount) s.cur.ev.bytes } }

/-! ## Thermal shutdown (R382) -/

/-- THERMAL_SHUTDOWN: a sensor reads 110 °C or more. TOKRATE reads 0 and nothing is refilled while it lasts. -/
def execThermalShutdown (s : State) : Host.Outcome State Fault Refusal :=
  if s.dev.thermal then .next s else .next { s with dev := { s.dev with thermal := true, msix := s.dev.msix ++ [1] } }
/-- THERMAL_RECOVERY: every sensor reads below 95 °C. -/
def execThermalRecovery (s : State) : Host.Outcome State Fault Refusal :=
  .next { s with dev := { s.dev with thermal := false } }

end Sys2Proof.Machine
end

