-- ==== Sys2Proof/Machine/Flags.lean ====
section
/-! DEFINITION. The sticky flags of VSTAT (spec/09_vector.md R203, R204): what one rounding of an exact result sets. -/
namespace Sys2Proof.Machine

/-- VSTAT bits [6:0]: NV 0, DZ 1, OF 2, UF 3, NX 4, SATF 5, IBC 6 (R203). -/
abbrev VFlags := BitVec 7
def flNV : VFlags := 1
def flDZ : VFlags := 2
def flOF : VFlags := 4
def flUF : VFlags := 8
def flNX : VFlags := 16
def flSATF : VFlags := 32
def flIBC : VFlags := 64
def flIf (b : Bool) (f : VFlags) : VFlags := if b then f else 0

/-- |y| of R204: x rounded to F's precision with an unbounded exponent, as (units, exponent). -/
def roundUnbounded (frac : Nat) (rnd : Rnd) (neg : Bool) (m : Nat) (e : Int) : Nat × Int :=
  let lo := e + m.log2 - frac
  (roundUnits rnd neg m e lo, lo)

/-- The flags of a float result (R204). -/
def floatFlags (exp frac : Nat) (rnd : Rnd) (fzo sat : Bool) (x : XVal) : VFlags :=
  match x with
  | .fin neg m e =>
    if m = 0 then 0
    else
      let bias : Int := (2 ^ (exp - 1) : Nat) - 1
      let (q, lo) := roundUnbounded frac rnd neg m e
      let top : Int := lo + q.log2
      let ovf := decide (top > bias)
      let under := decide (top < 1 - bias)
      let out := floatDecode exp frac false (roundFloat exp frac rnd fzo sat x)
      flIf ovf flOF ||| flIf under flUF ||| flIf (out.cmp x != 0) flNX ||| flIf (ovf && sat) flSATF
  | _ => 0
/-- The flags of a tapered result (R204): an infinite value exceeds the largest magnitude. -/
def taperedFlags (n es : Nat) (rnd : Rnd) (x : XVal) : VFlags :=
  match x with
  | .nan => 0
  | .inf _ => flOF
  | .fin neg m e =>
    if m = 0 then 0
    else
      let (qh, eh) := taperedMag n es (2 ^ (n - 1) - 1)
      let (ql, el) := taperedMag n es 1
      let out := taperedDecode (taperedEncode (.fin neg m e) n es rnd) n es
      flIf (!magLe m e qh eh) flOF ||| flIf (!magLe ql el m e) flUF ||| flIf (out.cmp (.fin neg m e) != 0) flNX
/-- The flags of an integer result (R204): NaN and infinities are invalid; a wrap sets OF and not NX. -/
def intFlags (w : Nat) (signed : Bool) (rnd : Rnd) (sat : Bool) (x : XVal) : VFlags :=
  match x with
  | .fin neg m e =>
    let y := roundInt rnd neg m e
    let ovf := decide (y < intLeast w signed ∨ intGreatest w signed < y)
    if ovf then (if sat then flOF ||| flNX ||| flSATF else flOF)
    else flIf ((XVal.ofInt y).cmp x != 0) flNX
  | _ => flNV
/-- The flags of `round_to(F, x, rnd, FZO, SAT)` (R204). -/
def roundFlags (f : Fmt) (rnd : Rnd) (fzo sat : Bool) (x : XVal) : VFlags :=
  match f.kind with
  | .tapered es => taperedFlags f.width es rnd x
  | .float exp frac => floatFlags exp frac rnd fzo sat x
  | .int signed => intFlags f.width signed rnd sat x
  | _ => 0

end Sys2Proof.Machine
end

