-- ==== Sys2Proof/Machine/Operands.lean ====
section
/-! DEFINITION. Vector operands (spec/03_numbers.md R76, spec/09_vector.md R200 to R206): elements of a register, the effective
mask, masked writes with their flags, and the pairwise tree of R78. -/
namespace Sys2Proof.Machine

/-- Element i of width w (R76). -/
def elem (v : Vec) (w i : Nat) : Nat := (v.toNat >>> (w * i)) % 2 ^ w
/-- A register from n element codes of width w. -/
def vecOf (w n : Nat) (f : Nat → Nat) : Vec :=
  BitVec.ofNat 2048 ((List.range n).foldr (fun i acc => acc * 2 ^ w + f i % 2 ^ w) 0)
/-- A code of width w as a signed number. -/
def signedOf (w c : Nat) : Int := if c < 2 ^ (w - 1) then (c : Int) else (c : Int) - (2 ^ w : Nat)

/-- The effective mask (R206). -/
def Bank.maskEff (b : Bank) : Word := match b.mask with | t :: _ => t | [] => BitVec.allOnes 64
/-- `active(i, w)` (R206). -/
def Bank.active (b : Bank) (m : Bool) (w i : Nat) : Bool := !m || b.maskEff.getLsbD (i / (32 / w))

/-- Writes a register element by element with `put` (R206); flags of active elements are ORed into VSTAT (R204). -/
def Bank.putV (b : Bank) (d : Fin 32) (w : Nat) (m : Bool) (f : Nat → Nat × VFlags) : Bank :=
  let n := 2048 / w
  let old := b.getV d
  let r := (List.range n).map fun i => if b.active m w i then f i else (if b.vmz then 0 else elem old w i, 0)
  let v := vecOf w n (fun i => (r[i]?.map (·.1)).getD 0)
  { b.setV d v with vflags := r.foldl (fun a x => a ||| x.2) b.vflags }
/-- The same without flags. -/
def Bank.putBits (b : Bank) (d : Fin 32) (w : Nat) (m : Bool) (f : Nat → Nat) : Bank := b.putV d w m (fun i => (f i, 0))

/-- Decoded element i of a register (R65, R209). -/
def Bank.elemVal (b : Bank) (r : Fin 32) (t : Fmt) (fzi : Bool) (i : Nat) : XVal := decodeCode t fzi (elem (b.getV r) t.width i)

/-- One level of `tree_reduce` (R78): neighbours are combined; an empty node is absent. -/
def pairUp {α : Type} (op : α → α → α) : List (Option α) → List (Option α)
  | a :: b :: l =>
    (match a, b with | none, y => y | x, none => x | some x, some y => some (op x y)) :: pairUp op l
  | l => l
/-- `tree_reduce` with at most `n` levels. -/
def treeReduce {α : Type} (op : α → α → α) : (n : Nat) → List (Option α) → Option α
  | 0, l => l.headD none
  | n + 1, l => if l.length ≤ 1 then l.headD none else treeReduce op n (pairUp op l)

end Sys2Proof.Machine
end

