-- ==== Sys2Proof/Machine/Vector.lean ====
section
/-! DEFINITION. The vector engine (spec/09_vector.md R207 to R224). -/
namespace Sys2Proof.Machine

/-- Issue of a V instruction that always completes. -/
def vOp (f : Bank → Bank) (s : State) : Host.Outcome State Fault Refusal := issueR {} f s

/-! ## Element arithmetic (R209, R210) -/

/-- An invalid sum: infinities of both signs and no NaN (R60, R204). -/
def sumInvalid (ts : List XVal) : Bool := !ts.contains .nan && ts.contains (.inf true) && ts.contains (.inf false)
/-- An invalid product: 0 × ∞. -/
def mulInvalid (a b : XVal) : Bool :=
  match a, b with | .inf _, .fin _ 0 _ | .fin _ 0 _, .inf _ => true | _, _ => false

/-- The lesser or greater of two values; NaN with a NaN, −0 below +0 (R78, R210). -/
def xmin (a b : XVal) : XVal :=
  if a == .nan || b == .nan then .nan
  else match a.cmp b with
    | 0 => if a.isNeg then a else b
    | -1 => a
    | _ => b
def xmax (a b : XVal) : XVal :=
  if a == .nan || b == .nan then .nan
  else match a.cmp b with
    | 0 => if a.isNeg then b else a
    | -1 => b
    | _ => a

/-- One lane result: `round_to` of the exact result, with its flags (R77, R204). -/
def lane (o : VMod) (x : XVal) (extra : VFlags) : Nat × VFlags :=
  (roundTo o.type o.rnd o.fzo o.sat x, roundFlags o.type o.rnd o.fzo o.sat x ||| extra)

/-- A three-operand element operation of R209. -/
def vArith (f : XVal → XVal → XVal → XVal × VFlags) (d a b c : Fin 32) (o : VMod) (s : State) :
    Host.Outcome State Fault Refusal :=
  vOp (fun k => k.putV d o.type.width o.m fun i =>
    let r := f (k.elemVal a o.type o.fzi i) (k.elemVal b o.type o.fzi i) (k.elemVal c o.type o.fzi i)
    lane o r.1 r.2) s

def execVadd (d a b : Fin 32) (o : VMod) (s : State) :=
  vArith (fun x y _ => (xadd o.rnd x y, flIf (sumInvalid [x, y]) flNV)) d a b b o s
def execVsub (d a b : Fin 32) (o : VMod) (s : State) :=
  vArith (fun x y _ => (xadd o.rnd x y.neg, flIf (sumInvalid [x, y.neg]) flNV)) d a b b o s
def execVmul (d a b : Fin 32) (o : VMod) (s : State) :=
  vArith (fun x y _ => (x.mul y, flIf (mulInvalid x y) flNV)) d a b b o s
def execVfma (d a b c : Fin 32) (o : VMod) (s : State) :=
  vArith (fun x y z => (xadd o.rnd (x.mul y) z, flIf (mulInvalid x y || sumInvalid [x.mul y, z]) flNV)) d a b c o s
def execVmin (d a b : Fin 32) (o : VMod) (s : State) := vArith (fun x y _ => (xmin x y, 0)) d a b b o s
def execVmax (d a b : Fin 32) (o : VMod) (s : State) := vArith (fun x y _ => (xmax x y, 0)) d a b b o s
def execVabs (d a : Fin 32) (o : VMod) (s : State) := vArith (fun x _ _ => (x.abs, 0)) d a a a o s
def execVneg (d a : Fin 32) (o : VMod) (s : State) := vArith (fun x _ _ => (x.neg, 0)) d a a a o s

/-! ## VEXP2, VRCP, VRSQ (R211): exact values with a sticky bit below every rounding position -/

/-- Newton's iteration for the integer square root, from above. -/
def isqrtFrom (n : Nat) : (fuel x : Nat) → Nat
  | 0, x => x
  | k + 1, x => let y := (x + n / x) / 2; if y < x then isqrtFrom n k y else x
def isqrt (n : Nat) : Nat := if n = 0 then 0 else isqrtFrom n 600 (2 ^ (n.log2 / 2 + 1))

/-- 1 / A. -/
def xrcp : XVal → XVal × VFlags
  | .nan => (.nan, 0)
  | .inf n => (.fin n 0 0, 0)
  | .fin n m e =>
    if m = 0 then (.inf n, flDZ)
    else
      let k := m.log2 + 64
      (.fin n (2 * (2 ^ k / m) + b2n (2 ^ k % m != 0)) (-(k : Int) - 1 - e), 0)
/-- 1 / √A. -/
def xrsq : XVal → XVal × VFlags
  | .nan => (.nan, 0)
  | .inf n => if n then (.nan, flNV) else (.fin false 0 0, 0)
  | .fin n m e =>
    if m = 0 then (.inf n, flDZ)
    else if n then (.nan, flNV)
    else
      let (m, e) := if e % 2 = 0 then (m, e) else (2 * m, e - 1)
      let k := 64 + m.log2
      let q := isqrt (2 ^ (2 * k) / m)
      (.fin false (2 * q + b2n (q * q * m != 2 ^ (2 * k))) (-(k : Int) - 1 - e / 2), 0)
/-- 2^(f / 2^k) in units of 2^-256, from the bits of f below bit k, by square roots of 2. -/
def exp2Frac (f : Nat) : (k : Nat) → (root acc : Nat) → Nat
  | 0, _, acc => acc
  | k + 1, root, acc =>
    let r := isqrt (root * 2 ^ 256)
    exp2Frac f k r (if f.testBit k then acc * r / 2 ^ 256 else acc)
/-- 2^A; an A beyond ±2048 lies outside every destination's range whatever its value. -/
def xexp2 : XVal → XVal
  | .nan => .nan
  | .inf n => if n then .fin false 0 0 else .inf false
  | .fin n m e =>
    if m = 0 then .fin false 1 0
    else if e + m.log2 ≥ 11 then .fin false 1 (if n then -4096 else 4096)
    else
      let k := (-e).toNat
      let u : Int := if 0 ≤ e then (m * 2 ^ e.toNat : Nat) * (2 ^ k : Nat) else (m : Nat)
      let u := if n then -u else u
      let i := u / (2 ^ k : Nat)
      let f := (u % (2 ^ k : Nat)).toNat
      if f = 0 then .fin false 1 i
      else .fin false (2 * exp2Frac f k (2 * 2 ^ 256) (2 ^ 256) + 1) (i - 257)

def execVexp2 (d a : Fin 32) (o : VMod) (s : State) := vArith (fun x _ _ => (xexp2 x, 0)) d a a a o s
def execVrcp (d a : Fin 32) (o : VMod) (s : State) := vArith (fun x _ _ => xrcp x) d a a a o s
def execVrsq (d a : Fin 32) (o : VMod) (s : State) := vArith (fun x _ _ => xrsq x) d a a a o s

/-! ## Logic, shifts, integer operations (R214 to R217) -/

def vLogic (f : Nat → Nat → Nat) (d a b : Fin 32) (m : Bool) (s : State) : Host.Outcome State Fault Refusal :=
  vOp (fun k => k.putBits d 32 m fun i => f (elem (k.getV a) 32 i) (elem (k.getV b) 32 i)) s
def execVand (d a b : Fin 32) (m : Bool) (s : State) := vLogic (· &&& ·) d a b m s
def execVor (d a b : Fin 32) (m : Bool) (s : State) := vLogic (· ||| ·) d a b m s
def execVxor (d a b : Fin 32) (m : Bool) (s : State) := vLogic (· ^^^ ·) d a b m s

def vShift (f : Nat → Nat → Nat → Nat) (d a b : Fin 32) (t : Fmt) (m : Bool) (s : State) :
    Host.Outcome State Fault Refusal :=
  let w := t.width
  vOp (fun k => k.putBits d w m fun i => f w (elem (k.getV a) w i) (elem (k.getV b) w i)) s
/-- A shift of w or more gives 0 (R215). -/
def execVshl (d a b : Fin 32) (t : Fmt) (m : Bool) (s : State) :=
  vShift (fun w x n => if n < w then x * 2 ^ n % 2 ^ w else 0) d a b t m s
def execVshr (d a b : Fin 32) (t : Fmt) (m : Bool) (s : State) :=
  vShift (fun w x n => if n < w then x / 2 ^ n else 0) d a b t m s
/-- A shift of w or more gives copies of the top bit (R215). -/
def execVsra (d a b : Fin 32) (t : Fmt) (m : Bool) (s : State) :=
  vShift (fun w x n => (signedOf w x / (2 ^ Nat.min n w : Nat) % (2 ^ w : Nat)).toNat) d a b t m s

/-- Four products of a lane added to its I32 value (R216). -/
def vDot (f : Int → Int → Int) (signed : Bool) (d a b : Fin 32) (sat m : Bool) (s : State) :
    Host.Outcome State Fault Refusal :=
  let val (c : Nat) : Int := if signed then signedOf 8 c else (c : Int)
  vOp (fun k => k.putV d 32 m fun l =>
    let sum := ([0, 1, 2, 3].map fun j => f (val (elem (k.getV a) 8 (4 * l + j))) (val (elem (k.getV b) 8 (4 * l + j)))).sum
    let x := XVal.ofInt (signedOf 32 (elem (k.getV d) 32 l) + sum)
    (roundTo .i32 .rne false sat x, roundFlags .i32 .rne false sat x)) s
def execVdot4 (d a b : Fin 32) (t : Fmt) (sat m : Bool) (s : State) := vDot (· * ·) (t == .i8) d a b sat m s
def execVtacc (d a b : Fin 32) (sat m : Bool) (s : State) := vDot (fun x y => x.sign * y) true d a b sat m s

/-- The base-3 digit j of a byte, as VUNPK3 computes it (R217). -/
def tritDigit (b : Nat) : Nat → Nat
  | 0 => b - 3 * (b * 171 / 512)
  | j + 1 => tritDigit (b * 171 / 512) j
/-- VUNPK3 (R217). -/
def execVunpk3 (d a : Fin 32) (m : Bool) (s : State) : Host.Outcome State Fault Refusal :=
  issueB {} (fun k =>
    let byte (i : Nat) := elem (k.getV a) 8 i
    let used (i : Nat) : Bool := (List.range 5).any fun j => decide (5 * i + j < 256) && k.active m 8 (5 * i + j)
    let bad := (List.range 52).find? fun i => used i && decide (byte i ≥ 243)
    let trit (t : Nat) : Nat := if t = 1 then 1 else if t = 2 then 255 else 0
    match bad, k.vtrapIbc with
    | some i, true => .trap { cause := .ibc, addr := BitVec.ofNat 64 i, past := true } k
    | _, _ =>
      let k' := k.putBits d 8 m fun i => if byte (i / 5) ≥ 243 then 0 else trit (tritDigit (byte (i / 5)) (i % 5))
      .ok { k' with vflags := k'.vflags ||| flIf bad.isSome flIBC } .next false) s

/-! ## Compare and convert (R212, R213) -/

/-- A condition on two decoded elements (R212). -/
def condHolds (c : VCond) (x y : XVal) : Bool :=
  let un := x == .nan || y == .nan
  match c with
  | .eq => !un && x.cmp y == 0
  | .ne => un || x.cmp y != 0
  | .lt => !un && x.cmp y == -1
  | .le => !un && x.cmp y != 1
  | .uo => un
/-- A 64-bit mask from its bits. -/
def maskOf (f : Nat → Bool) : Word :=
  BitVec.ofNat 64 ((List.range 64).foldr (fun i acc => acc * 2 + b2n (f i)) 0)
/-- VCMP: one bit for each lane, pushed. -/
def execVcmp (a b : Fin 32) (c : VCond) (t : Fmt) (fzi m : Bool) (s : State) : Host.Outcome State Fault Refusal :=
  issueB {} (fun k =>
    if k.mask.length ≥ 16 then .trap (trapOf .v .illegal 16) k
    else
      let per := 32 / t.width
      let bit (l : Nat) : Bool :=
        ((List.range per).all fun j => condHolds c (k.elemVal a t fzi (per * l + j)) (k.elemVal b t fzi (per * l + j)))
          && (!m || k.maskEff.getLsbD l)
      .ok { k with mask := maskOf bit :: k.mask } .next false) s
/-- VCVT: the low elements, converted; zero above. -/
def execVcvt (d a : Fin 32) (src : Fmt) (o : VMod) (s : State) : Host.Outcome State Fault Refusal :=
  let n := 2048 / Nat.max src.width o.type.width
  vOp (fun k => k.putV d o.type.width o.m fun i =>
    if i < n then lane o (k.elemVal a src o.fzi i) 0 else (0, 0)) s

/-! ## Reductions (R78, R218) -/

/-- The elements that take part in a reduction. -/
def Bank.activeElems {α : Type} (k : Bank) (w : Nat) (m : Bool) (f : Nat → α) : List (Option α) :=
  (List.range (2048 / w)).map fun i => if k.active m w i then some (f i) else none
/-- A 64-bit value of an integer element or sum. -/
def Fmt.signedInt (f : Fmt) : Bool := match f.kind with | .int s => s | _ => false

/-- VREDADD. -/
def execVredadd (d : Fin 16) (a : Fin 32) (o : VMod) (s : State) : Host.Outcome State Fault Refusal :=
  let w := o.type.width
  vOp (fun k =>
    if o.type.isVInt then
      let val (i : Nat) : Int :=
        if Fmt.signedInt o.type then signedOf w (elem (k.getV a) w i) else ((elem (k.getV a) w i : Nat) : Int)
      match treeReduce (· + ·) 9 (k.activeElems w o.m val) with
      | none => k.setE d 0
      | some r => k.setE d (BitVec.ofInt 64 r)
    else
      let op (x y : XVal × VFlags) : XVal × VFlags :=
        let z := xadd o.rnd x.1 y.1
        (f32 (roundTo .fp32 o.rnd o.fzo o.sat z),
         x.2 ||| y.2 ||| roundFlags .fp32 o.rnd o.fzo o.sat z ||| flIf (sumInvalid [x.1, y.1]) flNV)
      match treeReduce op 9 (k.activeElems w o.m fun i => (k.elemVal a o.type o.fzi i, (0 : VFlags))) with
      | none => k.setE d 0
      | some r => { k.setE d (BitVec.ofNat 64 (roundTo .fp32 .rne false false r.1)) with vflags := k.vflags ||| r.2 }) s
/-- VREDMAX and VREDMIN: the chosen element. -/
def vPick (op : XVal → XVal → XVal) (d : Fin 16) (a : Fin 32) (o : VMod) (s : State) : Host.Outcome State Fault Refusal :=
  vOp (fun k =>
    match treeReduce op 9 (k.activeElems o.type.width o.m (k.elemVal a o.type o.fzi)) with
    | none => k.setE d 0
    | some x =>
      if o.type.isVInt then
        match x with
        | .fin n m _ => k.setE d (BitVec.ofInt 64 (if n then -(m : Int) else (m : Int)))
        | _ => k.setE d 0
      else k.setE d (BitVec.ofNat 64 (roundTo .fp32 .rne false false x))) s
def execVredmax (d : Fin 16) (a : Fin 32) (o : VMod) (s : State) := vPick xmax d a o s
def execVredmin (d : Fin 16) (a : Fin 32) (o : VMod) (s : State) := vPick xmin d a o s

/-! ## Movement (R219 to R222) -/

/-- VSEL: by the effective mask; VCTL.MZ does not apply. -/
def execVsel (d a b : Fin 32) (s : State) : Host.Outcome State Fault Refusal :=
  vOp (fun k => k.setV d (vecOf 32 64 fun l =>
    if k.maskEff.getLsbD l then elem (k.getV a) 32 l else elem (k.getV b) 32 l)) s
def execVperm (d a b : Fin 32) (t : Fmt) (m : Bool) (s : State) : Host.Outcome State Fault Refusal :=
  let w := t.width
  vOp (fun k => k.putBits d w m fun i => elem (k.getV a) w (elem (k.getV b) w i % (2048 / w))) s
def execVbcast (d : Fin 32) (a : Fin 16) (t : Fmt) (m : Bool) (s : State) : Host.Outcome State Fault Refusal :=
  vOp (fun k => k.putBits d t.width m fun _ => (k.getE a).toNat % 2 ^ t.width) s
/-- VEXT: an index outside the register traps. -/
def execVext (d : Fin 16) (a : Fin 32) (t : Fmt) (idx : BitVec 24) (s : State) : Host.Outcome State Fault Refusal :=
  let w := t.width
  issueB {} (fun k =>
    if idx.toNat ≥ 2048 / w then .trap (trapOf .v .illegal (idx.signExtend 64)) k
    else
      let c := elem (k.getV a) w idx.toNat
      .ok (k.setE d (if Fmt.signedInt t then BitVec.ofInt 64 (signedOf w c) else BitVec.ofNat 64 c)) .next false) s
def execVslide (d a : Fin 32) (t : Fmt) (m : Bool) (sh : BitVec 24) (s : State) : Host.Outcome State Fault Refusal :=
  let w := t.width
  let n := 2048 / w
  vOp (fun k => k.putBits d w m fun i =>
    let j := (i : Int) - sh.toInt
    if 0 ≤ j ∧ j < (n : Int) then elem (k.getV a) w j.toNat else 0) s

/-- VQGET: av0-av3 and mv0 into a v register, cv0 into an e register (R222). -/
def execVqget (v : Fin 32) (q : Queue) (s : State) : Host.Outcome State Fault Refusal :=
  issueB {} (fun k =>
    match q with
    | .av _ | .mv0 => popThen true .v q (fun k x => .ok (k.setV v x.data) .next false) k
    | .cv0 => popThen true .v q (fun k x => .ok (k.setE (Fin.ofNat 16 v.val) x.word) .next false) k
    | _ => .trap (trapOf .v .qmisuse (BitVec.ofNat 64 q.code)) k) s
/-- VQPUT: va0 only (R222). -/
def execVqput (v : Fin 32) (q : Queue) (s : State) : Host.Outcome State Fault Refusal :=
  issue {} (fun s k =>
    if q ≠ .va0 then .trap (trapOf .v .qmisuse (BitVec.ofNat 64 q.code)) s
    else pushEntry .va0 { data := k.getV v } s k) s

/-! ## Masks, scalars and loops (R207, R208, R223, R224) -/

def execMpush (a : Fin 16) (s : State) : Host.Outcome State Fault Refusal :=
  issueB {} (fun k =>
    if k.mask.length ≥ 16 then .trap (trapOf .v .illegal 16) k
    else .ok { k with mask := k.getE a :: k.mask } .next false) s
def execMinv (s : State) : Host.Outcome State Fault Refusal :=
  issueB {} (fun k =>
    match k.mask with
    | [] => .trap (trapOf .v .illegal 0) k
    | t :: l => .ok { k with mask := ((~~~ t) &&& (match l with | u :: _ => u | [] => BitVec.allOnes 64)) :: l } .next false) s
def execMpop (s : State) : Host.Outcome State Fault Refusal :=
  issueB {} (fun k =>
    match k.mask with
    | [] => .trap (trapOf .v .illegal 0) k
    | _ :: l => .ok { k with mask := l } .next false) s
def execBmskip (disp : BitVec 36) (s : State) := hopThen .v (fun k => (k, k.maskEff == 0)) disp.toInt s
def execSldi (d : Fin 16) (imm : BitVec 24) (s : State) := vOp (fun k => k.setE d (imm.signExtend 64)) s
def execSadd (d a b : Fin 16) (s : State) := vOp (fun k => k.setE d (k.getE a + k.getE b)) s
def execSmul (d a b : Fin 16) (s : State) := vOp (fun k => k.setE d (k.getE a * k.getE b)) s
def execVloop (e : Fin 16) (disp : BitVec 36) (s : State) :=
  hopThen .v (fun k => (k.setE e (countDown (k.getE e)), countDown (k.getE e) != 0)) disp.toInt s
def execVb (disp : BitVec 36) (s : State) := hopThen .v (fun k => (k, true)) disp.toInt s

end Sys2Proof.Machine
end

