-- ==== Sys2Proof/Machine/Dispatch.lean ====
section
/-! DEFINITION. The meaning of every instruction: one arm per constructor of `Instr`. -/

namespace Sys2Proof.Machine

def exec (i : Instr) (s : State) : Host.Outcome State Fault Refusal :=
  match i with
  | .nop => Sys2Proof.Machine.execNop s
  | .sigset n => Sys2Proof.Machine.execSigset n s
  | .sigclr n => Sys2Proof.Machine.execSigclr n s
  | .sigwait n => Sys2Proof.Machine.execSigwait n s
  | .qcnt d q => Sys2Proof.Machine.execQcnt d q s
  | .rdv => Sys2Proof.Machine.execRdv s
  | .join a => Sys2Proof.Machine.execJoin a s
  | .leave a => Sys2Proof.Machine.execLeave a s
  | .gbar a => Sys2Proof.Machine.execGbar a s
  | .fence scope kinds => Sys2Proof.Machine.execFence scope kinds s
  | .bqput a => Sys2Proof.Machine.execBqput a s
  | .bqbr disp => Sys2Proof.Machine.execBqbr disp s
  | .pmset a => Sys2Proof.Machine.execPmset a s
  | .pmget d => Sys2Proof.Machine.execPmget d s
  | .twany a => Sys2Proof.Machine.execTwany a s
  | .twall a => Sys2Proof.Machine.execTwall a s
  | .tffr d a => Sys2Proof.Machine.execTffr d a s
  | .tclr a => Sys2Proof.Machine.execTclr a s
  | .brk code => Sys2Proof.Machine.execBrk code s
  | .add d a b => Sys2Proof.Machine.execAdd d a b s
  | .sub d a b => Sys2Proof.Machine.execSub d a b s
  | .mul d a b => Sys2Proof.Machine.execMul d a b s
  | .mulh d a b => Sys2Proof.Machine.execMulh d a b s
  | .mulhn d a b => Sys2Proof.Machine.execMulhn d a b s
  | .div d a b => Sys2Proof.Machine.execDiv d a b s
  | .divn d a b => Sys2Proof.Machine.execDivn d a b s
  | .rem d a b => Sys2Proof.Machine.execRem d a b s
  | .remn d a b => Sys2Proof.Machine.execRemn d a b s
  | .and d a b => Sys2Proof.Machine.execAnd d a b s
  | .or d a b => Sys2Proof.Machine.execOr d a b s
  | .xor d a b => Sys2Proof.Machine.execXor d a b s
  | .shl d a b => Sys2Proof.Machine.execShl d a b s
  | .shr d a b => Sys2Proof.Machine.execShr d a b s
  | .sra d a b => Sys2Proof.Machine.execSra d a b s
  | .seq d a b => Sys2Proof.Machine.execSeq d a b s
  | .slt d a b => Sys2Proof.Machine.execSlt d a b s
  | .sltn d a b => Sys2Proof.Machine.execSltn d a b s
  | .min d a b => Sys2Proof.Machine.execMin d a b s
  | .max d a b => Sys2Proof.Machine.execMax d a b s
  | .sel d a b c => Sys2Proof.Machine.execSel d a b c s
  | .clz d a => Sys2Proof.Machine.execClz d a s
  | .popc d a => Sys2Proof.Machine.execPopc d a s
  | .addi d a imm => Sys2Proof.Machine.execAddi d a imm s
  | .andi d a imm => Sys2Proof.Machine.execAndi d a imm s
  | .ori d a imm => Sys2Proof.Machine.execOri d a imm s
  | .xori d a imm => Sys2Proof.Machine.execXori d a imm s
  | .shli d a n => Sys2Proof.Machine.execShli d a n s
  | .shri d a n => Sys2Proof.Machine.execShri d a n s
  | .srai d a n => Sys2Proof.Machine.execSrai d a n s
  | .slti d a imm => Sys2Proof.Machine.execSlti d a imm s
  | .ldi d imm => Sys2Proof.Machine.execLdi d imm s
  | .ldih d imm => Sys2Proof.Machine.execLdih d imm s
  | .b disp => Sys2Proof.Machine.execB disp s
  | .beq a b disp => Sys2Proof.Machine.execBeq a b disp s
  | .bne a b disp => Sys2Proof.Machine.execBne a b disp s
  | .blt a b disp => Sys2Proof.Machine.execBlt a b disp s
  | .bge a b disp => Sys2Proof.Machine.execBge a b disp s
  | .bltn a b disp => Sys2Proof.Machine.execBltn a b disp s
  | .bgen a b disp => Sys2Proof.Machine.execBgen a b disp s
  | .jr a => Sys2Proof.Machine.execJr a s
  | .call disp => Sys2Proof.Machine.execCall disp s
  | .callr a => Sys2Proof.Machine.execCallr a s
  | .ret => Sys2Proof.Machine.execRet s
  | .mfs d r => Sys2Proof.Machine.execMfs d r s
  | .mts r a => Sys2Proof.Machine.execMts r a s
  | .wsync => Sys2Proof.Machine.execWsync s
  | .ld o => Sys2Proof.Machine.execLd o s
  | .st o => Sys2Proof.Machine.execSt o s
  | .sld o => Sys2Proof.Machine.execSld o s
  | .sst o => Sys2Proof.Machine.execSst o s
  | .wld o => Sys2Proof.Machine.execWld o s
  | .wst o => Sys2Proof.Machine.execWst o s
  | .spalloc a b => Sys2Proof.Machine.execSpalloc a b s
  | .lda o => Sys2Proof.Machine.execLda o s
  | .stl o => Sys2Proof.Machine.execStl o s
  | .amoadd o => Sys2Proof.Machine.execAmoadd o s
  | .amoand o => Sys2Proof.Machine.execAmoand o s
  | .amoor o => Sys2Proof.Machine.execAmoor o s
  | .amoxor o => Sys2Proof.Machine.execAmoxor o s
  | .amomin o => Sys2Proof.Machine.execAmomin o s
  | .amomax o => Sys2Proof.Machine.execAmomax o s
  | .amominn o => Sys2Proof.Machine.execAmominn o s
  | .amomaxn o => Sys2Proof.Machine.execAmomaxn o s
  | .amoswp o => Sys2Proof.Machine.execAmoswp o s
  | .amocas o c => Sys2Proof.Machine.execAmocas o c s
  | .afadd o => Sys2Proof.Machine.execAfadd o s
  | .pmalloc d => Sys2Proof.Machine.execPmalloc d s
  | .pmret a scope => Sys2Proof.Machine.execPmret a scope s
  | .pmretw a scope => Sys2Proof.Machine.execPmretw a scope s
  | .pmldx d a b => Sys2Proof.Machine.execPmldx d a b s
  | .pmprobe d a => Sys2Proof.Machine.execPmprobe d a s
  | .sigx a n => Sys2Proof.Machine.execSigx a n s
  | .qput a q => Sys2Proof.Machine.execQput a q s
  | .sstep => Sys2Proof.Machine.execSstep s
  | .rnext d a => Sys2Proof.Machine.execRnext d a s
  | .rsteal a => Sys2Proof.Machine.execRsteal a s
  | .tickwait a => Sys2Proof.Machine.execTickwait a s
  | .fqput a => Sys2Proof.Machine.execFqput a s
  | .fqclose => Sys2Proof.Machine.execFqclose s
  | .wprog a b tag => Sys2Proof.Machine.execWprog a b tag s
  | .wpstat d a => Sys2Proof.Machine.execWpstat d a s
  | .wwear d a => Sys2Proof.Machine.execWwear d a s
  | .wrmap d a => Sys2Proof.Machine.execWrmap d a s
  | .wseal a => Sys2Proof.Machine.execWseal a s
  | .trap code => Sys2Proof.Machine.execTrap code s
  | .rte k => Sys2Proof.Machine.execRte k s
  | .tlbi a => Sys2Proof.Machine.execTlbi a s
  | .tlbia => Sys2Proof.Machine.execTlbia s
  | .gpafl a => Sys2Proof.Machine.execGpafl a s
  | .swapb a => Sys2Proof.Machine.execSwapb a s
  | .bankld a b => Sys2Proof.Machine.execBankld a b s
  | .bankst a b => Sys2Proof.Machine.execBankst a b s
  | .errpop d => Sys2Proof.Machine.execErrpop d s
  | .monrd d a => Sys2Proof.Machine.execMonrd d a s
  | .wfe => Sys2Proof.Machine.execWfe s
  | .gate a b => Sys2Proof.Machine.execGate a b s
  | .keyld a b => Sys2Proof.Machine.execKeyld a b s
  | .keyzap a => Sys2Proof.Machine.execKeyzap a s
  | .zscrub a => Sys2Proof.Machine.execZscrub a s
  | .xldi d imm => Sys2Proof.Machine.execXldi d imm s
  | .xadd d a b => Sys2Proof.Machine.execXadd d a b s
  | .xaddi d a imm => Sys2Proof.Machine.execXaddi d a imm s
  | .xsub d a b => Sys2Proof.Machine.execXsub d a b s
  | .xmul d a b => Sys2Proof.Machine.execXmul d a b s
  | .xshl d a n => Sys2Proof.Machine.execXshl d a n s
  | .xshr d a n => Sys2Proof.Machine.execXshr d a n s
  | .xand d a b => Sys2Proof.Machine.execXand d a b s
  | .xb disp => Sys2Proof.Machine.execXb disp s
  | .xbne a b disp => Sys2Proof.Machine.execXbne a b disp s
  | .xblt a b disp => Sys2Proof.Machine.execXblt a b disp s
  | .xloop a disp => Sys2Proof.Machine.execXloop a disp s
  | .ald o => Sys2Proof.Machine.execAld o s
  | .alds o => Sys2Proof.Machine.execAlds o s
  | .aldg o => Sys2Proof.Machine.execAldg o s
  | .ast o => Sys2Proof.Machine.execAst o s
  | .asts o => Sys2Proof.Machine.execAsts o s
  | .astg o => Sys2Proof.Machine.execAstg o s
  | .apf base size mode count => Sys2Proof.Machine.execApf base size mode count s
  | .apmld o => Sys2Proof.Machine.execApmld o s
  | .qget d q => Sys2Proof.Machine.execQget d q s
  | .vadd d a b o => Sys2Proof.Machine.execVadd d a b o s
  | .vsub d a b o => Sys2Proof.Machine.execVsub d a b o s
  | .vmul d a b o => Sys2Proof.Machine.execVmul d a b o s
  | .vfma d a b c o => Sys2Proof.Machine.execVfma d a b c o s
  | .vmin d a b o => Sys2Proof.Machine.execVmin d a b o s
  | .vmax d a b o => Sys2Proof.Machine.execVmax d a b o s
  | .vabs d a o => Sys2Proof.Machine.execVabs d a o s
  | .vneg d a o => Sys2Proof.Machine.execVneg d a o s
  | .vand d a b m => Sys2Proof.Machine.execVand d a b m s
  | .vor d a b m => Sys2Proof.Machine.execVor d a b m s
  | .vxor d a b m => Sys2Proof.Machine.execVxor d a b m s
  | .vshl d a b t m => Sys2Proof.Machine.execVshl d a b t m s
  | .vshr d a b t m => Sys2Proof.Machine.execVshr d a b t m s
  | .vsra d a b t m => Sys2Proof.Machine.execVsra d a b t m s
  | .vcmp a b cond t fzi m => Sys2Proof.Machine.execVcmp a b cond t fzi m s
  | .vsel d a b => Sys2Proof.Machine.execVsel d a b s
  | .vcvt d a src o => Sys2Proof.Machine.execVcvt d a src o s
  | .vunpk3 d a m => Sys2Proof.Machine.execVunpk3 d a m s
  | .vtacc d a b sat m => Sys2Proof.Machine.execVtacc d a b sat m s
  | .vdot4 d a b t sat m => Sys2Proof.Machine.execVdot4 d a b t sat m s
  | .vredadd d a o => Sys2Proof.Machine.execVredadd d a o s
  | .vredmax d a o => Sys2Proof.Machine.execVredmax d a o s
  | .vredmin d a o => Sys2Proof.Machine.execVredmin d a o s
  | .vexp2 d a o => Sys2Proof.Machine.execVexp2 d a o s
  | .vrcp d a o => Sys2Proof.Machine.execVrcp d a o s
  | .vrsq d a o => Sys2Proof.Machine.execVrsq d a o s
  | .vperm d a b t m => Sys2Proof.Machine.execVperm d a b t m s
  | .vbcast d a t m => Sys2Proof.Machine.execVbcast d a t m s
  | .vext d a t idx => Sys2Proof.Machine.execVext d a t idx s
  | .vslide d a t m imm => Sys2Proof.Machine.execVslide d a t m imm s
  | .vqget v q => Sys2Proof.Machine.execVqget v q s
  | .vqput v q => Sys2Proof.Machine.execVqput v q s
  | .mpush a => Sys2Proof.Machine.execMpush a s
  | .minv => Sys2Proof.Machine.execMinv s
  | .mpop => Sys2Proof.Machine.execMpop s
  | .bmskip disp => Sys2Proof.Machine.execBmskip disp s
  | .sldi d imm => Sys2Proof.Machine.execSldi d imm s
  | .sadd d a b => Sys2Proof.Machine.execSadd d a b s
  | .smul d a b => Sys2Proof.Machine.execSmul d a b s
  | .vloop e disp => Sys2Proof.Machine.execVloop e disp s
  | .vb disp => Sys2Proof.Machine.execVb disp s
  | .seamb => Sys2Proof.Machine.execSeamb s
  | .seame => Sys2Proof.Machine.execSeame s
  | .mldw b tab k => Sys2Proof.Machine.execMldw b tab k s
  | .mlds b tab k r => Sys2Proof.Machine.execMlds b tab k r s
  | .mma z a tab k r => Sys2Proof.Machine.execMma z a tab k r s
  | .mmag z a tab k r => Sys2Proof.Machine.execMmag z a tab k r s
  | .mzero z => Sys2Proof.Machine.execMzero z s
  | .mstz z a r => Sys2Proof.Machine.execMstz z a r s
  | .mstq z => Sys2Proof.Machine.execMstq z s
  | .mldz z a => Sys2Proof.Machine.execMldz z a s
  | .mwpf b k => Sys2Proof.Machine.execMwpf b k s
  | .mtok d => Sys2Proof.Machine.execMtok d s
  | .stclr => Sys2Proof.Machine.execStclr s
  | .stin a batch => Sys2Proof.Machine.execStin a batch s
  | .sthdr b => Sys2Proof.Machine.execSthdr b s
  | .steval a b => Sys2Proof.Machine.execSteval a b s
  | .stout z kind tab => Sys2Proof.Machine.execStout z kind tab s
  | .ststat d n => Sys2Proof.Machine.execStstat d n s
  | .mldi d imm => Sys2Proof.Machine.execMldi d imm s
  | .maddi d a imm => Sys2Proof.Machine.execMaddi d a imm s
  | .mqget d q => Sys2Proof.Machine.execMqget d q s
  | .mloop a disp => Sys2Proof.Machine.execMloop a disp s
  | .mbnz a disp => Sys2Proof.Machine.execMbnz a disp s
  | .dcopy o => Sys2Proof.Machine.execDcopy o s
  | .dfill o => Sys2Proof.Machine.execDfill o s
  | .dgath o => Sys2Proof.Machine.execDgath o s
  | .dpfa o => Sys2Proof.Machine.execDpfa o s
  | .dbtw o => Sys2Proof.Machine.execDbtw o s
  | .dbtr o => Sys2Proof.Machine.execDbtr o s
  | .dbtsh o => Sys2Proof.Machine.execDbtsh o s
  | .dbtfree o => Sys2Proof.Machine.execDbtfree o s
  | .dxfer o => Sys2Proof.Machine.execDxfer o s
  | .dcoll o => Sys2Proof.Machine.execDcoll o s
  | .dldi d imm => Sys2Proof.Machine.execDldi d imm s
  | .daddi d a imm => Sys2Proof.Machine.execDaddi d a imm s
  | .dqget d q => Sys2Proof.Machine.execDqget d q s
  | .dloop a disp => Sys2Proof.Machine.execDloop a disp s
  | .dbnz a disp => Sys2Proof.Machine.execDbnz a disp s
  | .winptrWrite a => Sys2Proof.Machine.execWinptrWrite a s
  | .spillbaseWrite a => Sys2Proof.Machine.execSpillbaseWrite a s
  | .spilllimWrite a => Sys2Proof.Machine.execSpilllimWrite a s
  | .vstatWrite a => Sys2Proof.Machine.execVstatWrite a s
  | .tokmaxWrite a => Sys2Proof.Machine.execTokmaxWrite a s
  | .tickperWrite a => Sys2Proof.Machine.execTickperWrite a s
  | .unassignedOpcode op operands => Sys2Proof.Machine.execUnassignedOpcode op operands s
  | .pmAllocate => Sys2Proof.Machine.execPmAllocate s
  | .poolLineReturn => Sys2Proof.Machine.execPoolLineReturn s
  | .pmpool => Sys2Proof.Machine.execPmpool s
  | .sigxDelivery => Sys2Proof.Machine.execSigxDelivery s
  | .tickEdge => Sys2Proof.Machine.execTickEdge s
  | .weightUpdate => Sys2Proof.Machine.execWeightUpdate s
  | .wprogComplete => Sys2Proof.Machine.execWprogComplete s
  | .wpfail => Sys2Proof.Machine.execWpfail s
  | .backgroundSaveDone => Sys2Proof.Machine.execBackgroundSaveDone s
  | .zscrubComplete => Sys2Proof.Machine.execZscrubComplete s
  | .bankscrub => Sys2Proof.Machine.execBankscrub s
  | .streamBlockRequest => Sys2Proof.Machine.execStreamBlockRequest s
  | .seamRelocate => Sys2Proof.Machine.execSeamRelocate s
  | .slotFill => Sys2Proof.Machine.execSlotFill s
  | .slotFillDone => Sys2Proof.Machine.execSlotFillDone s
  | .kstepStart => Sys2Proof.Machine.execKstepStart s
  | .kstepApply => Sys2Proof.Machine.execKstepApply s
  | .stitchRuleEval => Sys2Proof.Machine.execStitchRuleEval s
  | .xferSlotOpen => Sys2Proof.Machine.execXferSlotOpen s
  | .xferDataArrival => Sys2Proof.Machine.execXferDataArrival s
  | .abortFlit => Sys2Proof.Machine.execAbortFlit s
  | .copyComplete => Sys2Proof.Machine.execCopyComplete s
  | .windowSpill => Sys2Proof.Machine.execWindowSpill s
  | .windowSpillDone => Sys2Proof.Machine.execWindowSpillDone s
  | .windowFill => Sys2Proof.Machine.execWindowFill s
  | .windowFillDone => Sys2Proof.Machine.execWindowFillDone s
  | .trapDiversion => Sys2Proof.Machine.execTrapDiversion s
  | .jobRetire => Sys2Proof.Machine.execJobRetire s
  | .schedRoundStart => Sys2Proof.Machine.execSchedRoundStart s
  | .tokenRefill => Sys2Proof.Machine.execTokenRefill s
  | .tokrateUpdate => Sys2Proof.Machine.execTokrateUpdate s
  | .thermalShutdown => Sys2Proof.Machine.execThermalShutdown s
  | .thermalRecovery => Sys2Proof.Machine.execThermalRecovery s
  | .stage2Answer => Sys2Proof.Machine.execStage2Answer s
  | .integNodeFailure => Sys2Proof.Machine.execIntegNodeFailure s
  | .integReport => Sys2Proof.Machine.execIntegReport s
  | .nopPacket => Sys2Proof.Machine.execNopPacket s
  | .launch => Sys2Proof.Machine.execLaunch s
  | .launchPlace => Sys2Proof.Machine.execLaunchPlace s
  | .shadowLoaded => Sys2Proof.Machine.execShadowLoaded s
  | .graph => Sys2Proof.Machine.execGraph s
  | .graphNodeComplete => Sys2Proof.Machine.execGraphNodeComplete s
  | .slotQuantum => Sys2Proof.Machine.execSlotQuantum s
  | .qdoorWrite => Sys2Proof.Machine.execQdoorWrite s
  | .qdoorxWrite => Sys2Proof.Machine.execQdoorxWrite s
  | .qdescWrite => Sys2Proof.Machine.execQdescWrite s
  | .qpageWrite => Sys2Proof.Machine.execQpageWrite s
  | .fwctlGo => Sys2Proof.Machine.execFwctlGo s
  | .fwctlUpdate => Sys2Proof.Machine.execFwctlUpdate s
  | .liveUpdateTakeover => Sys2Proof.Machine.execLiveUpdateTakeover s
  | .partitionDescWrite => Sys2Proof.Machine.execPartitionDescWrite s
  | .vfDescWrite => Sys2Proof.Machine.execVfDescWrite s
  | .regionDescWrite => Sys2Proof.Machine.execRegionDescWrite s
  | .pfWindowWrite => Sys2Proof.Machine.execPfWindowWrite s
  | .vfResetRequest => Sys2Proof.Machine.execVfResetRequest s
  | .flr => Sys2Proof.Machine.execFlr s
  | .vfReset => Sys2Proof.Machine.execVfReset s
  | .slotReclaim => Sys2Proof.Machine.execSlotReclaim s
  | .partitionResize => Sys2Proof.Machine.execPartitionResize s
  | .powerUp => Sys2Proof.Machine.execPowerUp s
  | .startUp => Sys2Proof.Machine.execStartUp s
  | .powerLoss => Sys2Proof.Machine.execPowerLoss s
  | .getMeasurements => Sys2Proof.Machine.execGetMeasurements s
  | .packageKeyExport => Sys2Proof.Machine.execPackageKeyExport s
  | .migrationTransfer => Sys2Proof.Machine.execMigrationTransfer s
  | .migrationErase => Sys2Proof.Machine.execMigrationErase s
  | .migrationConfirm => Sys2Proof.Machine.execMigrationConfirm s
  | .migrationLost => Sys2Proof.Machine.execMigrationLost s
  | .accessPerformed => Sys2Proof.Machine.execAccessPerformed s
  | .bankOperationDone => Sys2Proof.Machine.execBankOperationDone s

end Sys2Proof.Machine
end

