-- ==== Sys2Proof/Machine/Poison.lean ====
section
/-! DEFINITION. Poisoned on-core state (spec/14_system.md R326, R327): which registers, tiles and stitch state an instruction reads and
writes, the UNCORR of one that consumes a poisoned element, and the clearing of an element that is written (assumption 105). -/
namespace Sys2Proof.Machine

def badC (l : List CReg) : List BadElem := l.map fun r => .reg (.c r)
def badX (l : List (Fin 16)) : List BadElem := l.map fun r => .reg (.x r)
def badE (l : List (Fin 16)) : List BadElem := l.map fun r => .reg (.e r)
def badH (l : List (Fin 16)) : List BadElem := l.map fun r => .reg (.h r)
def badD (l : List (Fin 16)) : List BadElem := l.map fun r => .reg (.d r)
def badV (l : List (Fin 32)) : List BadElem := l.map .vec
def badA (a : AOp) : List BadElem := match a with | .h r => badH [r] | .q _ => []

/-- The elements an instruction reads, and those it writes. -/
def elems : Instr → List BadElem × List BadElem
  | .qcnt d _ | .pmget d => ([], [.reg d])
  | .join a | .leave a | .gbar a | .bqput a | .pmset a | .twany a | .twall a | .tclr a => ([.reg a], [])
  | .tffr d a => ([.reg a], [.reg d])
  | .add d a b | .sub d a b | .mul d a b | .mulh d a b | .mulhn d a b | .div d a b | .divn d a b | .rem d a b | .remn d a b
  | .and d a b | .or d a b | .xor d a b | .shl d a b | .shr d a b | .sra d a b | .seq d a b | .slt d a b | .sltn d a b
  | .min d a b | .max d a b => (badC [a, b], badC [d])
  | .sel d a b c => (badC [a, b, c], badC [d])
  | .clz d a | .popc d a | .pmprobe d a | .rnext d a | .wpstat d a | .wwear d a | .wrmap d a | .monrd d a => (badC [a], badC [d])
  | .addi d a _ | .andi d a _ | .ori d a _ | .xori d a _ | .shli d a _ | .shri d a _ | .srai d a _ | .slti d a _ => (badC [a], badC [d])
  | .ldi d _ | .mfs d _ => ([], badC [d])
  | .ldih d _ => (badC [d], badC [d])
  | .beq a b _ | .bne a b _ | .blt a b _ | .bge a b _ | .bltn a b _ | .bgen a b _ => (badC [a, b], [])
  | .ret => (badC [.p 7], [])
  | .jr a | .callr a | .tickwait a | .rsteal a => (badC [a], [])
  | .fqput a | .wseal a | .tlbi a | .gpafl a | .swapb a | .keyzap a | .zscrub a => (badC [a], [])
  | .winptrWrite a | .spillbaseWrite a | .spilllimWrite a | .vstatWrite a | .tokmaxWrite a | .tickperWrite a => (badC [a], [])
  | .mts _ a | .qput a _ | .sigx a _ | .pmret a _ | .pmretw a _ => (badC [a], [])
  | .spalloc a b | .bankld a b | .bankst a b | .gate a b | .keyld a b | .wprog a b _ => (badC [a, b], [])
  | .ld o | .sld o | .wld o => (badC [o.a], badC [o.d])
  | .st o | .sst o | .wst o => (badC [o.a, o.d], [])
  | .lda o => (badC [o.a], badC [o.d])
  | .stl o => (badC [o.a, o.d], [])
  | .amoadd o | .amoand o | .amoor o | .amoxor o | .amomin o | .amomax o | .amominn o | .amomaxn o | .amoswp o | .afadd o => (badC [o.a, o.b], badC [o.d])
  | .amocas o c => (badC [o.a, o.b, c], badC [o.d])
  | .pmldx d a b => (badC [a, b], badC [d])
  | .pmalloc d | .errpop d => ([], badC [d])
  | .xldi d _ | .qget d _ => ([], badX [d])
  | .xadd d a b | .xsub d a b | .xmul d a b | .xand d a b => (badX [a, b], badX [d])
  | .xaddi d a _ | .xshl d a _ | .xshr d a _ => (badX [a], badX [d])
  | .xbne a b _ | .xblt a b _ => (badX [a, b], [])
  | .xloop a _ | .apf a _ _ _ => (badX [a], [])
  | .ald o | .alds o | .aldg o | .ast o | .asts o | .astg o | .apmld o => (badX [o.base, o.aux], [])
  | .vadd d a b _ | .vsub d a b _ | .vmul d a b _ | .vmin d a b _ | .vmax d a b _ => (badV [a, b], badV [d])
  | .vfma d a b c _ => (badV [a, b, c], badV [d])
  | .vabs d a _ | .vneg d a _ | .vexp2 d a _ | .vrcp d a _ | .vrsq d a _ | .vunpk3 d a _ => (badV [a], badV [d])
  | .vand d a b _ | .vor d a b _ | .vxor d a b _ => (badV [a, b], badV [d])
  | .vshl d a b _ _ | .vshr d a b _ _ | .vsra d a b _ _ | .vtacc d a b _ _ | .vperm d a b _ _ => (badV [a, b], badV [d])
  | .vcmp a b _ _ _ _ => (badV [a, b], [])
  | .vsel d a b => (badV [a, b], badV [d])
  | .vcvt d a _ _ => (badV [a], badV [d])
  | .vdot4 d a b _ _ _ => (badV [d, a, b], badV [d])
  | .vredadd d a _ | .vredmax d a _ | .vredmin d a _ => (badV [a], badE [d])
  | .vbcast d a _ _ => (badE [a], badV [d])
  | .vext d a _ _ => (badV [a], badE [d])
  | .vslide d a _ _ _ => (badV [a], badV [d])
  | .vqget v q => match q with | .cv0 => ([], badE [Fin.ofNat 16 v.val]) | _ => ([], badV [v])
  | .vqput v _ => (badV [v], [])
  | .mpush a | .vloop a _ => (badE [a], [])
  | .sldi d _ => ([], badE [d])
  | .sadd d a b | .smul d a b => (badE [a, b], badE [d])
  | .mldw b t _ | .mlds b t _ _ => (badH [b, t], [])
  | .mma _ a t _ _ | .mmag _ a t _ _ => (badA a ++ badH [t], [])  -- the tile at each k-step (R258)
  | .mzero z => ([], [.tile z])
  | .mstz z a _ => (.tile z :: badH [a], [])
  | .mstq z => ([.tile z], [])
  | .mldz z a => (badH [a], [.tile z])
  | .mwpf b _ => (badH [b], [])
  | .sthdr b | .stin b _ => (badH [b], [.stitch])
  | .mtok d | .ststat d _ | .mldi d _ | .mqget d _ => ([], badH [d])
  | .maddi d a _ => (badH [a], badH [d])
  | .mloop a _ | .mbnz a _ => (badH [a], [])
  | .stclr => ([], [.stitch])
  | .steval a b => (badH [a, b], [])  -- the file at each rule that reads it (R268)
  | .stout _ _ t => (.stitch :: badH [t], [])
  | .dcopy o | .dfill o | .dgath o | .dpfa o | .dbtw o | .dbtr o | .dbtsh o | .dbtfree o | .dxfer o | .dcoll o => (badD [o.dst, o.src, o.len], [])
  | .dldi d _ | .dqget d _ => ([], badD [d])
  | .daddi d a _ => (badD [a], badD [d])
  | .dloop a _ | .dbnz a _ => (badD [a], [])
  | _ => ([], [])

/-- The instruction at a stream has read its registers already: it goes on, and its parts look at what they read themselves. -/
def Bank.underWay (b : Bank) (e : Engine) : Bool :=
  (b.ctl e).stage != .fresh || (e == .a && b.ainst.isSome) || (e == .m && (b.current.isSome || b.stitch.eval.isSome))
/-- The instruction consumes a poisoned element when it issues (R326). The deferred store of a seam reads its tile later (R249). -/
def Bank.consumesBad (b : Bank) (e : Engine) (i : Instr) : Bool :=
  !b.underWay e && (elems i).1.any fun x => b.bad.contains x && !(match x with | .tile _ => b.fitting | _ => false)
/-- What an instruction has written is poisoned no more; a tile that M's work will write is not written yet. -/
def State.clearBad (s : State) (core seat : Nat) (e : Engine) (i : Instr) : State :=
  match s.bank core seat with
  | some b =>
    if s.cur.blocked || (b.ctl e).trapped || b.bad.isEmpty then s
    else
      let later (x : BadElem) : Bool := match x with | .tile z => b.tileBusy z || b.deferred | _ => false
      s.setBank core seat { b with bad := b.bad.filter fun x => !(elems i).2.contains x || later x }
  | none => s

end Sys2Proof.Machine
end

