-- ==== Sys2Proof/Machine/Sched.lean ====
section
/-! DEFINITION. Fetch (R27 to R30, R325), an attempt of a stream, and the issue scheduler (R128, R129). -/
namespace Sys2Proof.Machine

/-! ## Fetch -/

/-- The word at a ring address, as a fetch meets it: an uncorrectable part before an invalid one (R30, R326). An address that is no multiple
of 8, which only an RTE gives, is fetched as it is (assumption 113). -/
def State.fetchAt (s : State) (core pc : Nat) : Fetched :=
  let c := s.core core
  let p := pc / 4
  if c.poison.getLsbD p then .uncorr pc
  else if c.poison.getLsbD (p + 1) then .uncorr (pc + 4)
  else if !c.valid.getLsbD p then .invalid pc
  else if !c.valid.getLsbD (p + 1) then .invalid (pc + 4)
  else .word (BitVec.ofNat 64 (c.sp.readLe pc 8))
/-- The word a stream issues next: fetched ahead, or fetched now; a word whose fetch ahead failed is fetched again (R325). -/
def State.nextWord (s : State) (core : Nat) (b : Bank) (e : Engine) : Fetched :=
  let c := b.ctl e
  match c.fetched.find? c.pc with
  | some (.word w) => .word w
  | _ => s.fetchAt core c.pc

/-! ## One attempt -/

/-- An attempt of the stream of engine `e` in a seat: fetch, decode, and the instruction's meaning. A word whose fetch fails
raises SPUNINIT or UNCORR (R30); a word that fails R25 steps 1 or 3 raises ILLEGAL; one that reads a poisoned register UNCORR as it issues. -/
def attempt (s : State) (core seat : Nat) (e : Engine) : Host.Outcome State Fault Refusal :=
  let s0 := { s with cur := { core := core, seat := seat, eng := e } }
  match s.bank core seat with
  | none => .next s0.blockedAt
  | some b =>
    -- a D stream one of whose copies has stalled on a second-stage fault issues nothing further (R137)
    if !b.mayRun e || (e == .d && s.copies.any fun r => r.job == b.job && r.s2stall.isSome) then .next s0.blockedAt
    else
      match s.nextWord core b e with
      | .invalid p =>
        if b.unsettled e then .next s0.blockedAt
        else
          -- a second failure of a word whose fetch ahead has failed is logged (R325)
          let c := b.ctl e
          let s1 := if c.failed.contains c.pc then s0.log core seat ⟨5, false, e.idx, b.cid, 0, BitVec.ofNat 64 p⟩ else s0
          s1.trapHere (b.setCtl e { c with failed := c.failed.filter (· != c.pc) }) (trapOf e .spuninit (BitVec.ofNat 64 p))
      | .uncorr a =>
        if b.unsettled e then .next s0.blockedAt
        else (s0.uncorrError core seat e b.vf b.part 0 a 0).trapHere b (trapOf e .uncorr (BitVec.ofNat 64 a))
      | .word w =>
        match decode e w with
        | .error _ => if b.unsettled e then .next s0.blockedAt else s0.trapHere b (trapOf e .illegal)
        | .ok (ann, i) =>
          let s1 := { s0 with cur := { s0.cur with ann := ann, consumes := b.consumesBad e i } }
          if b.bad.isEmpty then exec i s1
          else match exec i s1 with | .next t => .next (t.clearBad core seat e i) | r => r

/-- A stream is ready when its attempt issues; a trap counts as issue (R128). -/
def ready (s : State) (core seat : Nat) (e : Engine) : Bool :=
  match attempt s core seat e with | .next t => !t.cur.blocked | _ => true
/-- What an attempt of a stream that is not ready does all the same: a wait of its word that succeeds, a place in a line of waiters, the
rest of an instruction that has issued before. It takes no issue slot (R128). -/
def State.settle (s : State) (core : Nat) (e : Engine) (seat : Nat) : State :=
  match attempt s core seat e with
  | .next t => if t.cur.blocked then { t with cur := s.cur } else s
  | _ => s
/-- The streams of an engine before its choice: those that are not ready have done what takes no slot, in seat order. -/
def State.settleAll (s : State) (core : Nat) (e : Engine) : State := [0, 1, 2, 3].foldl (fun s i => s.settle core e i) s

/-! ## The scheduler (R129, from which the bound of R130 follows) -/

/-- Seats after `p` in the cyclic order 0, 1, 2, 3. -/
def seatsAfter (p : Nat) : List Nat := [(p + 1) % 4, (p + 2) % 4, (p + 3) % 4, (p + 4) % 4]
/-- The lowest occupied seat of a VF. -/
def State.lowestSeat (s : State) (core v : Nat) : Nat :=
  (([0, 1, 2, 3].find? fun i => s.seatVf core i == some v)).getD 0

/-- The choice of R129 in one cycle: the VF and the seat, or none when the engine idles. -/
def State.choose (s : State) (core : Nat) (e : Engine) (refill : Bool) : Option (Nat × Nat) :=
  let x := (s.core core).sched e
  let rdy := [0, 1, 2, 3].filter fun i => ready s core i e
  let hasReady (v : Nat) : Bool := rdy.any fun i => s.seatVf core i == some v
  let vs := (s.present core).filter hasReady
  let cand := vs.filter fun v => if refill then 0 < (s.vf v).weight else 0 < x.c.get v 0
  let cand := if cand.isEmpty then vs else cand
  match (seatsAfter x.vp).find? (fun i => cand.any fun v => s.lowestSeat core v == i) with
  | none => none
  | some i =>
    match cand.find? (fun v => s.lowestSeat core v == i) with
    | none => none
    | some v =>
      (((seatsAfter (x.sp.get v 3)).find? fun j => rdy.contains j && s.seatVf core j == some v)).map fun j => (v, j)

/-- One cycle of one engine: at a round start the counters are refilled; one ready seat issues (R129). -/
def engineTurn (s : State) (core : Nat) (e : Engine) : Host.Outcome State Fault Refusal :=
  let s := s.settleAll core e
  let x0 := (s.core core).sched e
  let refill := x0.cyc % 256 == 0
  let s := if refill && !x0.refilled then s.roundStart core e else s
  let c := s.core core
  let x := { c.sched e with cyc := (c.sched e).cyc + 1, refilled := false }
  match s.choose core e refill with
  | none => .next (s.setCore core (c.setSched e x))
  | some (v, j) =>
    let x := { x with vp := s.lowestSeat core v, sp := x.sp.put v j, c := x.c.put v (x.c.get v 0 - 1) }
    attempt (s.setCore core (c.setSched e x)) core j e

end Sys2Proof.Machine
end

