-- ==== Sys2Proof/Machine/Hw.lean ====
section
/-! DEFINITION. What the hardware does of itself and no row of the opcode table names: fetching ahead (R29), displacing TLB and
LLC entries and walking ahead (R136, R138), corrected and uncorrectable errors (R326 to R328), arrivals of other packages (R120, R124). -/
namespace Sys2Proof.Machine

/-- The next address a stream fetches: its oldest unissued word, else the nearest of the 16 words after it that it does not hold (R29). -/
def Bank.aheadAddr (b : Bank) (e : Engine) : Option Nat :=
  let c := b.ctl e
  let r := b.ring e
  let second := if e = .c then c.npc else r.next c.pc
  let rec go : Nat → Nat → Option Nat
    | 0, _ => none
    | n + 1, a => if (c.fetched.find? a).isNone then some a else go n (r.next a)
  if (c.fetched.find? c.pc).isNone then some c.pc else go 16 second

/-- A word is fetched ahead. A failing fetch makes one log entry with SPEC = 1 (R30, R325). -/
def State.fetchAhead (s : State) (core seat : Nat) (e : Engine) : State :=
  match s.bank core seat with
  | none => s
  | some b =>
    if !b.mayRun e then s
    else match b.aheadAddr e with
      | none => s
      | some a =>
        let f := s.fetchAt core a
        let c := b.ctl e
        let rest := c.failed.filter (· != a)
        let failed := match f with | .word _ => rest | _ => a :: rest
        let s := s.setBank core seat (b.setCtl e { c with fetched := c.fetched.put a f, failed := failed })
        match f with
        | .word _ => s
        | .invalid p => s.log core seat ⟨5, true, e.idx, b.cid, 0, BitVec.ofNat 64 p⟩
        | .uncorr p => s.log core seat ⟨2, true, e.idx, b.cid, 0, BitVec.ofNat 64 p⟩

/-- The VF, partition and STRM of a transaction of a seat that meets an error (R326, R330); none for one that the device makes on its own
account. What a bank that has been swapped out has asked for keeps its own ID. -/
def State.txn (s : State) (core seat : Nat) : Txn → Option (Nat × Nat × Nat)
  | .stream e => (s.bank core seat).map fun b => (b.vf, b.part, e.idx)
  | .save =>
    match ((s.core core).seat seat).shadow with
    | .loaded b => if b.saving then some (b.vf, b.part, 7) else none
    | _ => none
  | .access id => (s.acc.find? fun a => a.id == id && a.core == core && a.seat == seat).map fun a => (a.vf, a.part, a.eng.idx)
  | .copy id => (s.copies.find? fun r => r.id == id && r.core == core && r.seat == seat).map fun r => (r.vf, r.part, 4)
  | .weight id => ((s.core core).wreqs.find? fun r => r.id == id && r.seat == seat).map fun r => (r.vf, r.part, 0)
  | .device => none
/-- Its containment ID and STRM; the device's own carry VF code 0x7F and no partition of their own (assumption 106). -/
def State.txnCid (s : State) (core seat : Nat) (who : Txn) : Nat × Nat :=
  match s.txn core seat who with | some (vf, part, strm) => (cid part vf, strm) | none => (cid 0 0x7F, 7)

/-- An uncorrectable error found by a transaction of a seat's stream or background save, or by the device itself (R326). -/
def State.foundError (s : State) (core seat : Nat) (who : Txn) (store addr pm : Nat) : State :=
  match s.txn core seat who with
  | some (vf, part, strm) => s.uncorrAt core seat strm vf part store addr pm
  | none =>
    (s.log core seat ⟨2, false, 7, cid 0 0x7F, store, BitVec.ofNat 64 addr⟩).reportPf
      { type := 1, cid := cid 0 0x7F, a1 := addr, a2 := pm, detail := store }
/-- The postmark and GPA of the cell whose pool line stands at a PA (R172). -/
def State.cellAt (s : State) (pa : Nat) : Option (Nat × Nat) :=
  s.parts.findSome? fun (_, p) => (p.cells.find? fun c => p.poolBase + 64 * c.line == pa / 64 * 64).map fun c => (c.m, c.gpa)
/-- A pending C load or atomic reads the line at a PA: it is not poisoned before they have read it (assumption 10). -/
def State.lineAwaited (s : State) (pa : Nat) : Bool :=
  s.acc.any fun a => (match a.kind with | .load .. => true | .amo .. => true | _ => false) && a.elems.any fun x => !x.done &&
    match x.loc with | .mem p m g pa' _ => s.homePa p m g pa' / 64 == pa / 64 | _ => false
/-- A line is poisoned by an error of a store (R172, R326, R327): of a cell line the report names the postmark and the GPA; of
another, the address is the GPA under which the LLC holds it for the SRAM-die array and the bus, the PA for LPDDR-6. -/
def State.poisonLine (s : State) (core seat : Nat) (who : Txn) (store pa : Nat) : State :=
  if s.lineAwaited pa then s
  else
    let s' := s.setLineMeta pa { s.lineMeta pa with poison := true }
    -- an error of LPDDR-6 stays with the line when its LLC line is dropped
    let s' := if store = 4 then { s' with llc := s'.llc.map fun l => if l.pa = pa / 64 * 64 then { l with cleanMeta := { l.cleanMeta with poison := true } } else l } else s'
    match s.cellAt pa with
    | some (m, g) => s'.foundError core seat who store g m
    | none =>
      let a := if store = 4 then pa else match s.llc.find? (fun l => l.pa == pa / 64 * 64) with | some l => l.gpa + pa % 64 | none => pa
      s'.foundError core seat who store a 0

/-- The BUSRETRY entry of a transfer that is sent again: after how many retries, its beat, and whether a retry has recovered it, which is so
but for one that has failed four times (R328, R330). -/
def State.busEntry (s : State) (core seat : Nat) (who : Txn) (gpa retries beat : Nat) (ok : Bool) : State :=
  let (c, strm) := s.txnCid core seat who
  s.log core seat ⟨3, false, strm, c, retries + beat % 4 * 8 + b2n (!ok) * 32, BitVec.ofNat 64 gpa⟩

def hwStep (s : State) : HwEvent → State
  | .fetchAhead core seat e => s.fetchAhead core seat e
  | .prefetchWalk core seat => s.prefetchWalk core seat
  | .evictTlb n => { s with tlb := s.tlb.eraseIdx n }
  | .evictLlc n => { s with llc := s.llc.eraseIdx n }
  | .corrected core seat who store addr bits =>
    let k := store % 6 * 8 + dieOf core % 8
    let s := { s with dev := { s.dev with corrected := s.dev.corrected.put k (s.dev.corrected.get k 0 + 1) } }
    let (c, strm) := s.txnCid core seat who
    s.log core seat ⟨1, false, strm, c, store % 6 + bits % 256 * 16, BitVec.ofNat 64 addr⟩
  | .uncorrSp core seat who u =>
    -- the eight parts of a 32-byte unit are poisoned, their valid bits cleared (R326, R327)
    let u := u % 12288
    if s.cReads (.sp core (32 * u)) 32 then s
    else (s.poisonLoc (.sp core (32 * u)) 32).foundError core seat who 0 (32 * u) 0
  | .uncorrLine core seat who store pa => s.poisonLine core seat who (2 + store % 2 * 2) pa
  | .uncorrQueue core seat who q i =>
    match s.bank core seat with
    | none => s
    | some b =>
      (s.setBank core seat { b with queues := b.queues.map fun (c, l) =>
        if c = q then (c, l.mapIdx fun j x => if j = i then { x with poison := true } else x) else (c, l) }).foundError
          core seat who 5 q 0
  | .uncorrElem core seat who x =>
    match s.bank core seat with
    | none => s
    | some b =>
      let held := match x with
        | .win n r => n < b.rsd && (match r with | .p _ | .l _ => true | _ => false)
        | _ => true
      if !held then s
      else (s.setBank core seat { b with bad := if b.bad.contains x then b.bad else b.bad ++ [x] }).foundError core seat who 5 0 0
  | .uncorrRow core seat who row =>
    let sl := s.slice core
    let m := sl.entry row
    if s.cReads (.wt core (64 * row)) 64 then s
    else (s.setSlice core { sl with phys := sl.phys.put m.cur { sl.phys.get m.cur {} with bad := true } }).foundError core seat who
      1 (core * 2 ^ 27 + 64 * row) 0
  | .busRetry core seat who gpa retries beat => s.busEntry core seat who gpa (retries % 4 + 1) beat true
  | .busPoison core seat who gpa pa beat => (s.busEntry core seat who gpa 4 beat false).poisonLine core seat who 3 pa
  | .laneSwap core seat who gpa pa lane =>
    -- a failing lane is mapped to a free spare of its group of 256 (R328); with none free the data is delivered poisoned
    let s := s.busEntry core seat who gpa 4 (lane % 256 / 64) false
    let c := s.core core
    let used := c.lanes.length
    if used ≥ 4 then s.poisonLine core seat who 3 pa
    else
      let (id, strm) := s.txnCid core seat who
      let s := s.setCore core { c with lanes := c.lanes.put used (lane % 256) }
      let s := s.log core seat ⟨4, false, strm, id, lane % 256 + used * 256, BitVec.ofNat 64 gpa⟩
      s.reportPf { type := 9, strm := if strm = 7 then 0xFF else strm, cid := id, seat := seatNo core seat, a1 := gpa,
                   detail := lane % 256 + used * 256 }
  | .remoteSuperstep p =>
    let x := s.part p
    (s.setPart p { x with ssRemote := true }).settleSuperstep p
  | .remoteGroup p id op t => s.setPart p ((s.part p).remoteGroup id op t)
  | .spillWord core seat i =>
    -- a word of the window being spilled is written before the spill is done (R87)
    match s.bank core seat with
    | none => s
    | some b =>
      match b.spill, b.older.getLast? with
      | some (.spill written), some w =>
        if i < 24 ∧ !written.testBit i then
          (s.spillOne core b w i).setBank core seat
            { b with spill := some (.spill (written + 2 ^ i)) }
        else s
      | _, _ => s
  | .weightRow core seat scales => s.weightRow core seat scales
  | .mPart core seat id step addr => s.mPart core seat id step addr
  | .ruleRow core seat row => s.ruleRow core seat row
  | .prefetchPart core seat => s.prefetchPart core seat
  | .wprogPart core seat i =>
    -- C stands at a WPROG that has had its wait
    match s.bank core seat with
    | none => s
    | some b =>
      match (if b.mayRun .c then s.nextWord core b .c else .invalid 0) with
      | .word w =>
        match decode .c w with
        | .ok (ann, .wprog a _ _) =>
          if (b.cS.wd || ann.wait == .none) && !s.regPending b.job [a] then s.wprogRead core seat b (b.getC a).toNat i else s
        | _ => s
      | _ => s
  | .copyStep id part => s.copyStep id part
  | .bankUnit n => s.bankUnit n
  | .saveUnit core seat => s.saveUnit core seat
  | .cmplWord n => s.retryWord n
  | .imageHeaders => s.refreshImages
  | .vfReport vf => s.retryReport vf
  | .fwStore core addr val => let sl := s.slice core; s.setSlice core { sl with fwArea := sl.fwArea.write addr (BitVec.ofNat 8 val) }
  | .expand core seat q =>
    -- the expander at the A port takes the next block of a marked frame (R250)
    match s.bank core seat with
    | none => s
    | some b => match b.expand (Fin.ofNat 2 q) with | .moved b => s.setBank core seat b | _ => s
  | .idle => s

end Sys2Proof.Machine
end

