-- ==== Sys2Proof/Machine/Step.lean ====
section
/-! DEFINITION. One step of the machine: time passes, and one engine's cycle, one event or one action of the hardware takes its
turn; and where a table word is put so that the next step runs it. -/
namespace Sys2Proof.Machine

/-- Time passes before a turn: with power, TIMEBASE advances by a free number of nanoseconds (R385). -/
def State.tick (s : State) : State :=
  { s with timebase := if s.dev.powered then s.timebase + Config.elapsed s.ctr else s.timebase, ctr := s.ctr + 1, cur := {} }

/-- The turn of this step, and the state without it on the agenda. -/
def State.takeTurn (s : State) : Turn × State :=
  match s.agenda with
  | t :: ts => (t, { s with agenda := ts })
  | [] => (Config.nextTurn s.ctr, s)

/-- An event row: no engine has a word of it. -/
def isEvent (i : Instr) : Bool :=
  match i with
  | .unassignedOpcode _ _ => false
  | i => Engine.all.all fun e => !i.inEngine e

/-- One turn. An instruction that is no event takes its turn only through its engine. -/
def runTurn (t : Turn) (s : State) : Host.Outcome State Fault Refusal :=
  match t with
  | .engine core e => engineTurn s core e
  | .event i ev => if isEvent i then exec i { s with cur := { core := ev.core, seat := ev.seat, ev := ev } } else .next s
  | .hw h => .next (hwStep s h)

/-- One step. A package without power does nothing until POWER_UP (R21). -/
def step (s : State) : Host.Outcome State Fault Refusal :=
  let (t, s) := s.tick.takeTurn
  if s.dev.powered then runTurn t s
  else match t with
    | .event .powerUp ev => runTurn (.event .powerUp ev) s
    | _ => .next s

/-- Where a table word runs: seat 0 of core 0 holds a job of VF 0 at level H whose five streams are started, the word stands at
word 0 of the ring of the engine whose word it is, and the agenda names that engine (assumption 1). -/
def State.withFetchWord (s : State) (nbits w : Nat) : State :=
  let w := w % 2 ^ Nat.min nbits 64
  let e := match decodeTableEngine w with | some (e, _) => e | none => .c
  let run : Ctl := { started := true, pc := 0, npc := 8 }
  let b := { Bank.blank 0 0 0 with lvl := .h, cS := run, aS := run, vS := run, mS := run, dS := run, hring := ⟨1024, 16⟩ }
  let c := s.core 0
  let s := s.setCore 0 { c with sp := c.sp.writeBytes 0 (leBytes w 8), valid := c.valid ||| 3 }
  { s.setBank 0 0 b with agenda := [.engine 0 e] }

end Sys2Proof.Machine
end

