-- ==== Sys2Proof/Safety.lean ====
section
/-! DEFINITION. What a safe run is, and the terms the statements are written in: when an instruction may issue (R24 to R26, R79,
R92, R315, R347) and the state it then leaves. -/
namespace Sys2Proof

/-- A step of the machine answers a next state. -/
def StepSafe (s : Machine.State) : Prop := ∃ t, Machine.step s = .next t
/-- A run of `n` steps from `s` stops nowhere. -/
def RunSafe : Nat → Machine.State → Prop
  | 0, _ => True
  | n + 1, s => ∃ t, Machine.step s = .next t ∧ RunSafe n t

end Sys2Proof

namespace Sys2Proof.Machine

/-- The current instruction of `s` may issue: the live bank of its seat is `b`, the level and the compartment are those `p` asks
for, a control transfer of C lies in no delay slot, the wait succeeds and leaves the bank `b1`, no pending access writes a register
of `p`, no deferred work of M stands before it, and the instruction reads nothing that is poisoned. -/
structure Ready (s : State) (p : Pre) (b b1 : Bank) : Prop where
  live : s.bank s.cur.core s.cur.seat = some b
  level : p.lvl.le (b.level s.cur.eng) = true
  owner : p.mo = true → (b.ctl s.cur.eng).mo = true
  slot : p.ctl = true → s.cur.eng = .c → b.cS.ds = false
  wait : s.doWait b s.cur.eng s.cur.ann.wait = some b1
  regs : s.regPending b.job p.regs = false
  order : s.cur.eng = .m → p.seamOk = false → b.deferred = false
  clean : s.cur.consumes = false

/-- The state in which the meaning of a ready instruction acts: the bank has had its wait. -/
def State.waited (s : State) (b1 : Bank) : State := s.setBank s.cur.core s.cur.seat b1
/-- The state after the current instruction, when it has changed the rest of the machine to `s` and its bank to `b`: the bank is
written with its stream moved on by `g`, and the word's signal is set or on its way. -/
def State.done (s : State) (b : Bank) (g : Go) (late : Bool) : State :=
  s.finish s.cur.core s.cur.seat b s.cur.eng s.cur.ann g late
/-- The state after the current instruction has raised trap `t` with bank `b`. -/
def State.trapped (s : State) (b : Bank) (t : Trap) : State :=
  s.raise s.cur.core s.cur.seat b s.cur.eng (b.trapRec s.cur.eng t s.cur.ann.wait.isClr)
/-- The state after the current instruction has met trap `t` in the state `s2` with bank `b2`: the trap is raised, but that one of M waits for the
k-steps of the products that M has issued past (R227, R258; assumption 97). `stops`: nothing but the wait has come before. -/
def State.stopsAs (s : State) (y : Bank) (s2 : State) (b2 : Bank) (t : Trap) : State :=
  if y.unsettled s.cur.eng = true then (s.waited y).blockedAt else s2.trapped b2 t
def State.stops (s : State) (y : Bank) (t : Trap) : State := s.stopsAs y (s.waited y) y t

/-- The instruction at which the current stream stands completes: exec answers a next state `t` in which the stream is at its next word, and `P`
holds of that state and of the bank of its seat. -/
def Completes (s : State) (y : Bank) (i : Instr) (P : State → Bank → Prop) : Prop :=
  ∃ t b, exec i s = .next t ∧ t.bank s.cur.core s.cur.seat = some b ∧
    (b.ctl s.cur.eng).pc = (if s.cur.eng = .c then y.cS.npc else (y.ring s.cur.eng).next (y.ctl s.cur.eng).pc) ∧ P t b

/-! ## What stays as it was -/

/-- Equal but for the TLB and the LLC: what translations may change. -/
def Looked (s t : State) : Prop := { t with tlb := s.tlb, llc := s.llc } = s

/-- Nothing outside the live bank of the current seat has changed, but that a signal waiting for earlier accesses may have joined
the pending accesses, and that the attempt may be marked blocked. -/
structure SameElse (s t : State) : Prop where
  mem : ∀ l n, t.readLoc l n = s.readLoc l n
  banks : ∀ c i, (c ≠ s.cur.core ∨ i % 4 ≠ s.cur.seat % 4) → t.bank c i = s.bank c i
  cores : ∀ c, { t.core c with seats := (s.core c).seats } = s.core c
  rest : { t with cores := s.cores, acc := s.acc, nextId := s.nextId, cur := s.cur } = s
/-- Bank `b'` with the position of stream `e`, the signals, the event latch and the open seam's count put back to those of `b`. -/
def Bank.restore (b' b : Bank) (e : Engine) : Bank :=
  { b'.setCtl e (b.ctl e) with sg := b.sg, wfe := b.wfe, seam := b.seam }

/-! ## Results of the control engine's registers (R95 to R99), from the operands' signed and unsigned values -/

/-- A truth value as a register holds it. -/
def truth (p : Bool) : Word := BitVec.ofNat 64 (if p then 1 else 0)
/-- R95, R96: the instructions of C with two operands, and their results. -/
inductive CrOp : (CReg → CReg → CReg → Instr) → (Word → Word → Word) → Prop
  | add : CrOp .add fun x y => BitVec.ofInt 64 (x.toInt + y.toInt)
  | sub : CrOp .sub fun x y => BitVec.ofInt 64 (x.toInt - y.toInt)
  | mul : CrOp .mul fun x y => BitVec.ofInt 64 (x.toInt * y.toInt)
  | mulh : CrOp .mulh fun x y => BitVec.ofInt 64 (x.toInt * y.toInt / 2 ^ 64)
  | mulhn : CrOp .mulhn fun x y => BitVec.ofNat 64 (x.toNat * y.toNat / 2 ^ 64)
  | div : CrOp .div fun x y =>
      if y.toNat = 0 then BitVec.ofInt 64 (-1) else if x.toInt = -2 ^ 63 ∧ y.toInt = -1 then x
      else BitVec.ofInt 64 (x.toInt.tdiv y.toInt)
  | rem : CrOp .rem fun x y =>
      if y.toNat = 0 then x else if x.toInt = -2 ^ 63 ∧ y.toInt = -1 then 0
      else BitVec.ofInt 64 (x.toInt - x.toInt.tdiv y.toInt * y.toInt)
  | divn : CrOp .divn fun x y => if y.toNat = 0 then BitVec.ofInt 64 (-1) else BitVec.ofNat 64 (x.toNat / y.toNat)
  | remn : CrOp .remn fun x y => if y.toNat = 0 then x else BitVec.ofNat 64 (x.toNat % y.toNat)
  | and : CrOp .and fun x y => x &&& y
  | or : CrOp .or fun x y => x ||| y
  | xor : CrOp .xor fun x y => x ^^^ y
  | shl : CrOp .shl fun x y => BitVec.ofNat 64 (x.toNat * 2 ^ (y.toNat % 64))
  | shr : CrOp .shr fun x y => BitVec.ofNat 64 (x.toNat / 2 ^ (y.toNat % 64))
  | sra : CrOp .sra fun x y => BitVec.ofInt 64 (x.toInt / 2 ^ (y.toNat % 64))
  | seq : CrOp .seq fun x y => truth (decide (x.toNat = y.toNat))
  | slt : CrOp .slt fun x y => truth (decide (x.toInt < y.toInt))
  | sltn : CrOp .sltn fun x y => truth (decide (x.toNat < y.toNat))
  | min : CrOp .min fun x y => BitVec.ofInt 64 (if x.toInt ≤ y.toInt then x.toInt else y.toInt)
  | max : CrOp .max fun x y => BitVec.ofInt 64 (if x.toInt ≤ y.toInt then y.toInt else x.toInt)
/-- R97: the immediate family. -/
inductive CiOp : (CReg → CReg → Instr) → (Word → Word) → Prop
  | addi (m : BitVec 28) : CiOp (.addi · · m) fun x => BitVec.ofInt 64 (x.toInt + m.toInt)
  | andi (m : BitVec 28) : CiOp (.andi · · m) fun x => x &&& BitVec.ofNat 64 m.toNat
  | ori (m : BitVec 28) : CiOp (.ori · · m) fun x => x ||| BitVec.ofNat 64 m.toNat
  | xori (m : BitVec 28) : CiOp (.xori · · m) fun x => x ^^^ BitVec.ofNat 64 m.toNat
  | shli (n : Fin 64) : CiOp (.shli · · n) fun x => BitVec.ofNat 64 (x.toNat * 2 ^ n.val)
  | shri (n : Fin 64) : CiOp (.shri · · n) fun x => BitVec.ofNat 64 (x.toNat / 2 ^ n.val)
  | srai (n : Fin 64) : CiOp (.srai · · n) fun x => BitVec.ofInt 64 (x.toInt / 2 ^ n.val)
  | slti (m : BitVec 28) : CiOp (.slti · · m) fun x => truth (decide (x.toInt < m.toInt))
/-- R99: the branches of C and when they are taken. -/
inductive CbOp : (CReg → CReg → BitVec 28 → Instr) → (Word → Word → Bool) → Prop
  | beq : CbOp .beq fun x y => decide (x.toNat = y.toNat)
  | bne : CbOp .bne fun x y => decide (x.toNat ≠ y.toNat)
  | blt : CbOp .blt fun x y => decide (x.toInt < y.toInt)
  | bge : CbOp .bge fun x y => decide (x.toInt ≥ y.toInt)
  | bltn : CbOp .bltn fun x y => decide (x.toNat < y.toNat)
  | bgen : CbOp .bgen fun x y => decide (x.toNat ≥ y.toNat)

/-! ## Special registers (R46, R88, R89, R103, R145, R254, R317, R339) -/

/-- R46: the registers that only levels S and H read. -/
def srPrivileged (r : SpecialReg) : Bool :=
  [SpecialReg.trapc, .trapnpc, .trapcause, .trapaddr, .trapstrm, .trapfl, .pmwaitlim, .spmode, .spillbase, .spilllim, .winptr, .blst].contains r
/-- R46: the level that a read, and a write, of a register asks for. -/
def srReadLevel (r : SpecialReg) : Lvl := if srPrivileged r then .s else .u
def srWriteLevel (r : SpecialReg) : Lvl := if [SpecialReg.tickper, .tokmax].contains r then .h else srReadLevel r
/-- The instructions that write a special register: MTS, and the rows of the table that name one register. -/
inductive MtsForm : Instr → SpecialReg → CReg → Prop
  | mts (r : SpecialReg) (a : CReg) : MtsForm (.mts r a) r a
  | winptr (a : CReg) : MtsForm (.winptrWrite a) .winptr a
  | spillbase (a : CReg) : MtsForm (.spillbaseWrite a) .spillbase a
  | spilllim (a : CReg) : MtsForm (.spilllimWrite a) .spilllim a
  | vstat (a : CReg) : MtsForm (.vstatWrite a) .vstat a
  | tokmax (a : CReg) : MtsForm (.tokmaxWrite a) .tokmax a
  | tickper (a : CReg) : MtsForm (.tickperWrite a) .tickper a
/-- The values that a register's own map accepts (TICKPER: assumption 14). -/
def MtsAccepts (b : Bank) (r : SpecialReg) (v : Nat) : Prop :=
  match r with
  | .trapc | .trapnpc => v < 2 ^ 19
  | .trapcause => v < 2 ^ 8
  | .trapaddr | .rlo | .rhi => True
  | .trapstrm => v < 5
  | .trapfl => v / 2 ^ 3 % 2 ^ 5 = 0 ∧ v / 2 ^ 12 % 2 ^ 20 = 0
  | .pm => v < 2 ^ 16
  | .pmwaitlim => v < 2 ^ 32
  | .spmode => v < 2
  | .winptr => v % 2 ^ 16 = 0 ∧ v < 2 ^ 48 ∧ v / 2 ^ 32 = v / 2 ^ 16 % 2 ^ 16 ∧ v / 2 ^ 32 * 192 ≤ b.spillLim - b.spillBase
  | .spillbase => v % 64 = 0 ∧ v ≤ 0x60000 ∧ v ≤ b.spillLim ∧ b.spd = 0 ∧ b.spill = none
  | .spilllim => v % 64 = 0 ∧ v ≤ 0x60000 ∧ b.spillBase + 192 * b.spd ≤ v
  | .vctl => v < 4
  | .vstat => v < 2 ^ 13 ∧ v / 2 ^ 7 % 2 = 0
  | .mstat => v / 2 % 2 ^ 8 = 0 ∧ v / 2 ^ 24 % 2 ^ 8 = 0
  | .blst => b.blst.act = false ∧ v / 2 ^ 3 % 2 = 0 ∧ v / 2 ^ 7 % 2 = 0 ∧ v / 2 ^ 12 % 2 ^ 4 = 0 ∧ v < 2 ^ 32
  | .tokmax => 256 ≤ v ∧ v ≤ 65536
  | .tickper => 0 < v ∧ v < 2 ^ 32
  | _ => False
/-- The bits of a register of the bank that a write sets and a later read gives back. -/
def srWritable (r : SpecialReg) : Word :=
  match r with
  | .trapc | .trapnpc => 0x7FFFF
  | .trapcause => 0xFF
  | .trapaddr | .rlo | .rhi => BitVec.allOnes 64
  | .trapstrm => 7
  | .trapfl => 0xFFFFFFFF00000F03
  | .pm => 0xFFFF
  | .pmwaitlim => 0xFFFFFFFF
  | .spmode => 1
  | .winptr => 0x0000FFFFFFFF000F
  | .spillbase | .spilllim => 0x7FFFF
  | .vctl => 3
  | .vstat => 0x7F
  | .mstat => 0xFFFFFFFF00000001
  | .blst => 0xFFFF0B77
  | _ => 0

/-! ## Memory -/

/-- The atomics of R197 and R199 but AMOCAS, with their operations. -/
inductive AmoForm : (CaArgs → Instr) → AmoOp → Prop
  | add : AmoForm .amoadd .add
  | and : AmoForm .amoand .and
  | or : AmoForm .amoor .or
  | xor : AmoForm .amoxor .xor
  | min : AmoForm .amomin .min
  | max : AmoForm .amomax .max
  | minn : AmoForm .amominn .minn
  | maxn : AmoForm .amomaxn .maxn
  | swp : AmoForm .amoswp .swp
  | fadd : AmoForm .afadd .fadd
/-- R197: what an integer atomic leaves in memory of an n-byte value `old`, given y and AMOCAS's comparand z. -/
def amoRule (op : AmoOp) (n : Nat) (old y z : Nat) : Option Nat :=
  let sgn (v : Nat) : Int := if v < 2 ^ (8 * n - 1) then (v : Int) else (v : Int) - (2 ^ (8 * n) : Nat)
  match op with
  | .add => some ((old + y) % 2 ^ (8 * n))
  | .and => some (old &&& y)
  | .or => some (old ||| y)
  | .xor => some (old ^^^ y)
  | .min => some (if sgn y < sgn old then y else old)
  | .max => some (if sgn old < sgn y then y else old)
  | .minn => some (Nat.min old y)
  | .maxn => some (Nat.max old y)
  | .swp => some y
  | .cas => if old = z then some y else none
  | .fadd => none
/-- One element of an access of C, not yet performed. -/
def plainElem (l : Loc) (n : Nat) (ord : OrdKind) (write : Bool) (bytes : List Byte) : Elem := ⟨l, n, ord, write, bytes, false, false, false, 0⟩
/-- An access of C to `va` passes its checks in the state that has had the wait: the place it goes to, and the state with the
translations it has made. No earlier stream is stalled on the same refusing target, and a postmarked write has its pool line. -/
structure Passes (s : State) (y : Bank) (va : Word) (n m : Nat) (u : Use) (t : Target) (s1 : State) : Prop where
  check : (s.waited y).checkVa (y.vaCtx s.cur.core .c) va n m u = (.ok t, s1)
  first : s1.firstStalled y .c = true
  free : s1.requestFree s.cur.core = true
  line : u.writes = true → s1.needsLine t.loc = false
/-- A pending access whose element `i` may be performed now (R184, R195, R230, R356). -/
structure Performable (s : State) (a : Access) (i : Nat) (x : Elem) : Prop where
  pend : s.acc.find? (fun o => o.id == s.cur.ev.idx) = some a
  elem : a.elems[s.cur.ev.quad]? = some x
  index : s.cur.ev.quad = i
  todo : x.done = false
  kind : a.kind ≠ .sigset ∧ (∀ k, a.kind ≠ .fence k)
  inOrder : ((a.elems.take i).any fun y => !y.done && y.ordered x) = false
  tile : s.tileWaits a = false
  order : (x.seen == 0 && s.mustWait a.core a.seat a.job a.eng a.id a.inst a.release (a.elemReads x) x) = false
  level : s.cur.ev.val = 0
  line : x.write = true → s.lineTaken a.job a.eng x.loc = false
  clean : x.poison = false

/-! ## Queues and coordination (R114 to R127, R284) -/

/-- R115, R348: engine `e` may push (or pop) queue `q`: the queue's table gives it that end, the job has started a stream at the other
end, and every other started stream there is of its compartment. -/
def MayUse (b : Bank) (e : Engine) (q : Queue) (push : Bool) : Prop :=
  e ∈ (if push then q.pushers else q.poppers) ∧ (∃ o ∈ (if push then q.poppers else q.pushers), b.jobStarted o = true) ∧
    ∀ o ∈ (if push then q.poppers else q.pushers), o ≠ e → b.jobStarted o = true → (b.ctl o).mo = (b.ctl e).mo
/-- R117, R257, R279: the pops of a word into a register. -/
inductive GetForm : Instr → Engine → Queue → SReg → Prop
  | a (d : Fin 16) : GetForm (.qget d .ca0) .a .ca0 (.x d)
  | m (d : Fin 16) : GetForm (.mqget d .cm0) .m .cm0 (.h d)
  | d (d : Fin 16) : GetForm (.dqget d .cd0) .d .cd0 (.d d)
/-- R116, R119: the pushes of a word: the instruction, its queue, the registers it reads, the value pushed. -/
inductive PutForm : Instr → Queue → List CReg → (Bank → Word) → Prop
  | ca0 (a : CReg) : PutForm (.qput a .ca0) .ca0 [a] (·.getC a)
  | cv0 (a : CReg) : PutForm (.qput a .cv0) .cv0 [a] (·.getC a)
  | cm0 (a : CReg) : PutForm (.qput a .cm0) .cm0 [a] (·.getC a)
  | cd0 (a : CReg) : PutForm (.qput a .cd0) .cd0 [a] (·.getC a)
  | bq (a : SReg) : PutForm (.bqput a) .bq a.cregs (fun b => b.getS a &&& 1)
  | fq (a : CReg) : PutForm (.fqput a) .fq [a] (·.getC a)
/-- The state in which a stream of the current seat is set to a later stage of the instruction it is at. -/
def Bank.atStage (b : Bank) (e : Engine) (g : Stage) : Bank := b.setCtl e { b.ctl e with stage := g }

/-! ## Scalar registers and branches of A, V, M and D (R152, R153, R223, R224, R257, R279) -/

/-- The scalar instructions of A, V, M and D: the register written, and the value it is written with, modulo 2^64. -/
inductive ScalarOp : Instr → SReg → (Bank → Int) → Prop
  | xldi (d : Fin 16) (m : BitVec 28) : ScalarOp (.xldi d m) (.x d) fun _ => m.toInt
  | xadd (d a b : Fin 16) : ScalarOp (.xadd d a b) (.x d) fun k => (k.getX a).toNat + (k.getX b).toNat
  | xaddi (d a : Fin 16) (m : BitVec 28) : ScalarOp (.xaddi d a m) (.x d) fun k => (k.getX a).toNat + m.toInt
  | xsub (d a b : Fin 16) : ScalarOp (.xsub d a b) (.x d) fun k => (k.getX a).toNat - (k.getX b).toNat
  | xmul (d a b : Fin 16) : ScalarOp (.xmul d a b) (.x d) fun k => (k.getX a).toNat * (k.getX b).toNat
  | xshl (d a : Fin 16) (n : Fin 64) : ScalarOp (.xshl d a n) (.x d) fun k => (k.getX a).toNat * 2 ^ n.val
  | xshr (d a : Fin 16) (n : Fin 64) : ScalarOp (.xshr d a n) (.x d) fun k => ((k.getX a).toNat / 2 ^ n.val : Nat)
  | xand (d a b : Fin 16) : ScalarOp (.xand d a b) (.x d) fun k => ((k.getX a).toNat &&& (k.getX b).toNat : Nat)
  | sldi (d : Fin 16) (m : BitVec 24) : ScalarOp (.sldi d m) (.e d) fun _ => m.toInt
  | sadd (d a b : Fin 16) : ScalarOp (.sadd d a b) (.e d) fun k => (k.getE a).toNat + (k.getE b).toNat
  | smul (d a b : Fin 16) : ScalarOp (.smul d a b) (.e d) fun k => (k.getE a).toNat * (k.getE b).toNat
  | mldi (d : Fin 16) (m : BitVec 32) : ScalarOp (.mldi d m) (.h d) fun _ => m.toInt
  | maddi (d a : Fin 16) (m : BitVec 32) : ScalarOp (.maddi d a m) (.h d) fun k => (k.getH a).toNat + m.toInt
  | dldi (d : Fin 16) (m : BitVec 32) : ScalarOp (.dldi d m) (.d d) fun _ => m.toInt
  | daddi (d a : Fin 16) (m : BitVec 32) : ScalarOp (.daddi d a m) (.d d) fun k => (k.getD a).toNat + m.toInt
/-- The branches of A, V, M and D: their displacement, the counter they take 1 from, and when they are taken. -/
inductive HopForm : Instr → Engine → Int → Option SReg → (Bank → Bool) → Prop
  | xb (n : BitVec 32) : HopForm (.xb n) .a n.toInt none fun _ => true
  | xbne (a b : Fin 16) (n : BitVec 32) : HopForm (.xbne a b n) .a n.toInt none fun k => decide (k.getX a ≠ k.getX b)
  | xblt (a b : Fin 16) (n : BitVec 32) : HopForm (.xblt a b n) .a n.toInt none fun k => decide ((k.getX a).toInt < (k.getX b).toInt)
  | xloop (a : Fin 16) (n : BitVec 32) : HopForm (.xloop a n) .a n.toInt (some (.x a)) fun k => decide (1 < (k.getX a).toNat)
  | vb (n : BitVec 36) : HopForm (.vb n) .v n.toInt none fun _ => true
  | vloop (a : Fin 16) (n : BitVec 36) : HopForm (.vloop a n) .v n.toInt (some (.e a)) fun k => decide (1 < (k.getE a).toNat)
  | bmskip (n : BitVec 36) : HopForm (.bmskip n) .v n.toInt none fun k => match k.mask with | t :: _ => decide (t = 0) | [] => false
  | mloop (a : Fin 16) (n : BitVec 32) : HopForm (.mloop a n) .m n.toInt (some (.h a)) fun k => decide (1 < (k.getH a).toNat)
  | mbnz (a : Fin 16) (n : BitVec 32) : HopForm (.mbnz a n) .m n.toInt none fun k => decide (k.getH a ≠ 0)
  | dloop (a : Fin 16) (n : BitVec 32) : HopForm (.dloop a n) .d n.toInt (some (.d a)) fun k => decide (1 < (k.getD a).toNat)
  | dbnz (a : Fin 16) (n : BitVec 32) : HopForm (.dbnz a n) .d n.toInt none fun k => decide (k.getD a ≠ 0)

/-! ## Streaming instructions (R154 to R156) -/

inductive StreamForm : (AsArgs → Instr) → AKind → Prop
  | ald : StreamForm .ald .ald
  | alds : StreamForm .alds .alds
  | aldg : StreamForm .aldg .aldg
  | ast : StreamForm .ast .ast
  | asts : StreamForm .asts .asts
  | astg : StreamForm .astg .astg
  | apmld : StreamForm .apmld .apmld
/-- R155: the checks of a streaming instruction on its operands. -/
structure StreamOk (b : Bank) (k : AKind) (o : AsArgs) (count : Nat) : Prop where
  queue : (match o.queue with | .av _ | .am _ => k ∉ [AKind.ast, .asts, .astg] | .va0 => k ∈ [AKind.ast, .asts, .astg] | _ => False)
  ends : MayUse b .a o.queue (!k.isStore)
  blocks : count = (if o.count.toNat = 0 then (b.getX 15).toNat else o.count.toNat)
  small : count < 2 ^ 32
  pm : k = .apmld → (b.getX o.aux).toNat < 65536
  base : (b.getX o.base).toNat % o.size.bytes = 0
  stride : k = .alds ∨ k = .asts → (b.getX o.aux).toNat % o.size.bytes = 0
  index : k = .aldg ∨ k = .astg → (b.getX o.aux).toNat % 4 = 0
/-- R172: the 64-byte line of element j is written whole by the block that the instruction is at: no scatter, and all its bytes lie in the
block's 256. -/
def wholeLineOf (a : AInst) (j : Nat) : Bool :=
  let first := (a.elemAddr a.prog 0 0).toNat
  let line := (a.elemAddr a.prog j 0).toNat / 64 * 64
  a.kind.isStore && !a.kind.isGather && decide (first ≤ line ∧ line + 64 ≤ first + 256)
/-- The use a block makes of the location of its element j. -/
def blockUse (a : AInst) (j : Nat) : Use :=
  { write := a.kind.isStore, writes := a.kind.isStore, explicitPm := a.kind == .apmld, carry := !a.kind.isStore, fullLine := wholeLineOf a j }
/-- R154, R155: element j of the block that the streaming instruction is at is translated in `s`, which gives the place `t` and the state
`s'`; a gather reads its index first. No earlier stream is stalled on the target (R356), and a store has its pool line (R171). -/
def BlockStep (a : AInst) (b : Bank) (core j : Nat) (s : State) (t : Target) (s' : State) : Prop :=
  let n := a.size.bytes
  let ctx := b.vaCtx core .a
  let check (s : State) (va : Word) : Prop := s.checkVa ctx va n a.pm.toNat (blockUse a j) = (.ok t, s') ∧ s'.firstStalled b .a = true ∧
    (a.kind.isStore = true → s'.needsLine t.loc = false)
  if a.kind = .aldg ∨ a.kind = .astg then
    ∃ ti s1, s.checkVa ctx (a.aux + BitVec.ofNat 64 (4 * (256 / n * a.prog + j))) 4 a.pm.toNat { write := false, writes := false }
        = (.ok ti, s1) ∧
      s1.mustWait s1.cur.core s1.cur.seat b.job .a s1.nextId a.id none true (plainElem ti.loc 4 ti.ord false []) = false ∧
      s1.locPoison ti.loc 4 = false ∧
      check s1 (a.base + BitVec.ofInt 64 ((BitVec.ofNat 32 (leNat (s1.view s1.cur.core s1.cur.seat ti.loc 4))).toInt * n))
  else if a.kind = .alds ∨ a.kind = .asts then check s (a.base + BitVec.ofInt 64 (a.aux.toInt * a.prog + n * j))
  else check s (a.base + BitVec.ofNat 64 (256 * a.prog + n * j))
/-- All elements of the block from j on. -/
def BlockSteps (a : AInst) (b : Bank) (core : Nat) : Nat → State → List Target → State → Prop
  | _, s, [], s' => s = s'
  | j, s, t :: ts, s' => ∃ s1, BlockStep a b core j s t s1 ∧ BlockSteps a b core (j + 1) s1 ts s'

/-! ## Copy requests (R285 to R299) -/

inductive CopyForm : (DcArgs → Instr) → CopyKind → Prop
  | dcopy : CopyForm .dcopy .dcopy
  | dfill : CopyForm .dfill .dfill
  | dgath : CopyForm .dgath .dgath
  | dpfa : CopyForm .dpfa .dpfa
  | dbtw : CopyForm .dbtw .dbtw
  | dbtr : CopyForm .dbtr .dbtr
  | dbtsh : CopyForm .dbtsh .dbtsh
  | dbtfree : CopyForm .dbtfree .dbtfree
  | dxfer : CopyForm .dxfer .dxfer
  | dcoll : CopyForm .dcoll .dcoll
/-- R286: the bytes of a range in scratchpad (space 1) or in the cluster window (space 2) lie inside it, in units that are owned and of
the stream's compartment. A range of length 0 has only its first byte inside. Space 0 is virtual memory. -/
def SpanFine (s : State) (b : Bank) (space : Nat) (addr : Word) (n : Nat) : Prop :=
  let a := addr.toNat
  let core := if space = 2 then s.cur.core / 16 * 16 + a / 2 ^ 19 % 16 else s.cur.core
  let off := a % 2 ^ 19
  space = 0 ∨ (a < 2 ^ (if space = 2 then 23 else 19) ∧ off + Nat.max n 1 ≤ 0x60000 ∧
    ∀ u, 0 < n → off / 4096 ≤ u → 4096 * u < off + n →
      s.unitCond b (b.level .d) b.dS.mo core (if space = 2 then none else some s.cur.seat) u ≠ .illegal ∧
      s.unitCond b (b.level .d) b.dS.mo core (if space = 2 then none else some s.cur.seat) u ≠ .gate)
/-- R287 to R299: the register values that a request accepts. -/
def CopyAccepts (s : State) (b : Bank) (k : CopyKind) (o : DcArgs) : Prop :=
  let dst := b.getD o.dst
  let src := b.getD o.src
  let aux := b.getD (o.src + 1)
  let len := b.getD o.len
  let v := len.toNat
  let n := v % 2 ^ 32
  let dsp := v / 2 ^ 62
  let ssp := v / 2 ^ 60 % 4
  let c := v / 2 ^ 59 % 2 = 1
  let rest := v / 2 ^ 32 % 2 ^ 27
  let key (w : Word) : Prop := w.toNat < 2 ^ 62 ∧ w.toNat / 2 ^ 48 % 64 = 0
  let ofs (w : Word) := w.toNat / 2 ^ 48 % 2 ^ 14
  dsp ≠ 3 ∧ ssp ≠ 3 ∧ (o.ep ≠ 0 → c) ∧
  match k with
  | .dcopy =>
    rest = 0 ∧ SpanFine s b dsp dst (if c then 0 else n) ∧
      if c then n = 0 ∧ ssp = 0 ∧ ¬ (o.ep = 2 ∧ dsp = 0) ∧ (o.ep = 3 → dsp = 0 ∧ dst.toNat % 256 = 0) else SpanFine s b ssp src n
  | .dfill => rest = 0 ∧ ¬ c ∧ ssp = 0 ∧ SpanFine s b dsp dst n
  | .dgath =>
    let rb := v / 2 ^ 32 % 2 ^ 15
    v / 2 ^ 47 % 2 ^ 12 = 0 ∧ ¬ c ∧ 0 < n ∧ n ≤ 65535 ∧ rb % 8 = 0 ∧ 8 ≤ rb ∧ rb ≤ 16384 ∧ aux.toNat % 4 = 0 ∧
      SpanFine s b dsp dst (n * rb) ∧ SpanFine s b ssp src 0
  | .dpfa =>
    rest = 0 ∧ ¬ c ∧ ssp = 0 ∧ dsp ≤ 1 ∧ 0 < n ∧ n ≤ 256 ∧ src.toNat % 16 = 0 ∧ (if dsp = 0 then dst = 0 else dst.toNat % 64 = 0) ∧
      SpanFine s b dsp dst 1
  | .dbtw => rest = 0 ∧ ¬ c ∧ dsp = 0 ∧ key dst ∧ n % 64 = 0 ∧ 0 < n ∧ n + ofs dst ≤ 16384 ∧ SpanFine s b ssp src n
  | .dbtr => rest = 0 ∧ ¬ c ∧ ssp = 0 ∧ key src ∧ n % 64 = 0 ∧ 0 < n ∧ n + ofs src ≤ 16384 ∧ SpanFine s b dsp dst n
  | .dbtsh =>
    rest = 0 ∧ ¬ c ∧ dsp = 0 ∧ ssp = 0 ∧ 0 < n ∧ n ≤ 65535 ∧ key dst ∧ ofs dst = 0 ∧ dst.toNat % 65536 + n ≤ 65536 ∧
      key src ∧ ofs src = 0 ∧ src.toNat % 65536 + n ≤ 65536
  | .dbtfree => rest = 0 ∧ ¬ c ∧ dsp = 0 ∧ ssp = 0 ∧ key dst ∧ (n = 0 → ofs dst = 0 ∧ dst.toNat % 2 ^ 24 = 0)
  | .dxfer | .dcoll =>
    let p := s.part b.part
    let peer := v / 2 ^ 52 % 64
    let role := v / 2 ^ 50 % 4
    let fmt := v / 2 ^ 45 % 32
    let slot := v / 2 ^ 32 % 2 ^ 13
    dsp ≤ 1 ∧ ssp ≤ 1 ∧ ¬ c ∧ role ≤ 1 ∧ v / 2 ^ 58 % 2 = 0 ∧ (role = 0 → o.dst = 0) ∧ peer < p.pkgCount ∧ peer ≠ p.pkgIndex ∧
      (if k = .dxfer then fmt = 0 else ∃ f, collFmt fmt = some f ∧ 8 ≤ f.width ∧ n % (f.width / 8) = 0) ∧
      (role = 0 ∨ k = .dcoll → SpanFine s b ssp src n) ∧ (role = 1 → SpanFine s b dsp dst n) ∧
      b.ssPart = true ∧ ∃ t0, b.t0 = some t0 ∧ t0 + slot * b.sslot ≤ s.timebase ∧ s.timebase < t0 + (slot + 1) * b.sslot
/-- The rest of a request that waits at its issue: its checks are made, its tag is free, its slot has opened and the seat's engine has room
(R280, R293, R299). -/
structure CopyRoom (s : State) (b : Bank) (k : CopyKind) (o : DcArgs) : Prop where
  tag : s.tagBusy b.job o.tag = false
  room : (s.copies.filter fun q => q.core == s.cur.core && q.seat == s.cur.seat).length < 64
  hints : b.hints + (if k = .dpfa then (b.getD o.len).toNat % 2 ^ 32 else 0) ≤ 256
  slot : b.dS.stage = .checked → (k = .dxfer ∨ k = .dcoll) → s.slotAhead b ((b.getD o.len).toNat / 2 ^ 32 % 2 ^ 13) = false
/-- Request `r` may take an action now: it is under way, stalled on nothing that others wait for before it, and behind no earlier request of its
stream (R183, R191, R356). -/
structure CopyActs (s : State) (r : CopyReq) : Prop where
  found : s.copies.find? (·.id == r.id) = some r
  going : r.finished = false
  status : r.status = none
  answered : r.s2stall = none
  first : r.refused.all s.stallFirst = true
  order : s.copyBehind r = false
  acquire : r.acq = true → s.othersAt r.job r.core r.seat .d r.scope = true
/-- n bytes of a scratchpad, which lie in one aligned 8-byte part, are valid, not poisoned and not being scrubbed. -/
def SpFine (s : State) (core off n : Nat) : Prop :=
  0 < n ∧ off % 8 + n ≤ 8 ∧ off + n ≤ 0x60000 ∧ (s.core core).scrubbing.getLsbD (off / 4096) = false ∧ (s.core core).readCond off n = .ok

/-! ## The vector engine (R206, R209 to R222) -/

/-- R206: element j of width w takes part in an instruction with mask bit m. -/
def Active (k : Bank) (m : Bool) (w j : Nat) : Prop :=
  m = true → (match k.mask with | t :: _ => t.getLsbD (j / (32 / w)) = true | [] => True)
/-- The element-by-element instructions: destination, element width, mask bit, and the code and flags that an active element gets. -/
inductive LaneOp : Instr → Fin 32 → Nat → Bool → (Bank → Nat → Nat × VFlags) → Prop
  | vadd (d a b : Fin 32) (o : VMod) : LaneOp (.vadd d a b o) d o.type.width o.m fun k i =>
      let x := k.elemVal a o.type o.fzi i
      let y := k.elemVal b o.type o.fzi i
      lane o (xadd o.rnd x y) (flIf (sumInvalid [x, y]) flNV)
  | vsub (d a b : Fin 32) (o : VMod) : LaneOp (.vsub d a b o) d o.type.width o.m fun k i =>
      let x := k.elemVal a o.type o.fzi i
      let y := (k.elemVal b o.type o.fzi i).neg
      lane o (xadd o.rnd x y) (flIf (sumInvalid [x, y]) flNV)
  | vmul (d a b : Fin 32) (o : VMod) : LaneOp (.vmul d a b o) d o.type.width o.m fun k i =>
      let x := k.elemVal a o.type o.fzi i
      let y := k.elemVal b o.type o.fzi i
      lane o (x.mul y) (flIf (mulInvalid x y) flNV)
  | vfma (d a b c : Fin 32) (o : VMod) : LaneOp (.vfma d a b c o) d o.type.width o.m fun k i =>
      let x := k.elemVal a o.type o.fzi i
      let y := k.elemVal b o.type o.fzi i
      let z := k.elemVal c o.type o.fzi i
      lane o (xadd o.rnd (x.mul y) z) (flIf (mulInvalid x y || sumInvalid [x.mul y, z]) flNV)
  | vmin (d a b : Fin 32) (o : VMod) : LaneOp (.vmin d a b o) d o.type.width o.m fun k i =>
      lane o (xmin (k.elemVal a o.type o.fzi i) (k.elemVal b o.type o.fzi i)) 0
  | vmax (d a b : Fin 32) (o : VMod) : LaneOp (.vmax d a b o) d o.type.width o.m fun k i =>
      lane o (xmax (k.elemVal a o.type o.fzi i) (k.elemVal b o.type o.fzi i)) 0
  | vabs (d a : Fin 32) (o : VMod) : LaneOp (.vabs d a o) d o.type.width o.m fun k i => lane o (k.elemVal a o.type o.fzi i).abs 0
  | vneg (d a : Fin 32) (o : VMod) : LaneOp (.vneg d a o) d o.type.width o.m fun k i => lane o (k.elemVal a o.type o.fzi i).neg 0
  | vexp2 (d a : Fin 32) (o : VMod) : LaneOp (.vexp2 d a o) d o.type.width o.m fun k i => lane o (xexp2 (k.elemVal a o.type o.fzi i)) 0
  | vrcp (d a : Fin 32) (o : VMod) : LaneOp (.vrcp d a o) d o.type.width o.m fun k i =>
      lane o (xrcp (k.elemVal a o.type o.fzi i)).1 (xrcp (k.elemVal a o.type o.fzi i)).2
  | vrsq (d a : Fin 32) (o : VMod) : LaneOp (.vrsq d a o) d o.type.width o.m fun k i =>
      lane o (xrsq (k.elemVal a o.type o.fzi i)).1 (xrsq (k.elemVal a o.type o.fzi i)).2
  | vand (d a b : Fin 32) (m : Bool) : LaneOp (.vand d a b m) d 32 m fun k i => (elem (k.getV a) 32 i &&& elem (k.getV b) 32 i, 0)
  | vor (d a b : Fin 32) (m : Bool) : LaneOp (.vor d a b m) d 32 m fun k i => (elem (k.getV a) 32 i ||| elem (k.getV b) 32 i, 0)
  | vxor (d a b : Fin 32) (m : Bool) : LaneOp (.vxor d a b m) d 32 m fun k i => (elem (k.getV a) 32 i ^^^ elem (k.getV b) 32 i, 0)
  | vshl (d a b : Fin 32) (t : Fmt) (m : Bool) : LaneOp (.vshl d a b t m) d t.width m fun k i =>
      (elem (k.getV a) t.width i * 2 ^ elem (k.getV b) t.width i, 0)
  | vshr (d a b : Fin 32) (t : Fmt) (m : Bool) : LaneOp (.vshr d a b t m) d t.width m fun k i =>
      (elem (k.getV a) t.width i / 2 ^ elem (k.getV b) t.width i, 0)
  | vsra (d a b : Fin 32) (t : Fmt) (m : Bool) : LaneOp (.vsra d a b t m) d t.width m fun k i =>
      ((signedOf t.width (elem (k.getV a) t.width i) / (2 ^ elem (k.getV b) t.width i : Nat) % (2 ^ t.width : Nat)).toNat, 0)
  | vdot4 (d a b : Fin 32) (t : Fmt) (sat m : Bool) : LaneOp (.vdot4 d a b t sat m) d 32 m fun k i =>
      let v (r : Fin 32) (j : Nat) : Int :=
        if t = .i8 then signedOf 8 (elem (k.getV r) 8 (4 * i + j)) else ((elem (k.getV r) 8 (4 * i + j) : Nat) : Int)
      let x := XVal.ofInt (signedOf 32 (elem (k.getV d) 32 i) + (v a 0 * v b 0 + v a 1 * v b 1 + v a 2 * v b 2 + v a 3 * v b 3))
      (roundTo .i32 .rne false sat x, roundFlags .i32 .rne false sat x)
  | vtacc (d a b : Fin 32) (sat m : Bool) : LaneOp (.vtacc d a b sat m) d 32 m fun k i =>
      let v (r : Fin 32) (j : Nat) : Int := signedOf 8 (elem (k.getV r) 8 (4 * i + j))
      let t (j : Nat) : Int := if v a j < 0 then -v b j else if v a j = 0 then 0 else v b j
      let x := XVal.ofInt (signedOf 32 (elem (k.getV d) 32 i) + (t 0 + t 1 + t 2 + t 3))
      (roundTo .i32 .rne false sat x, roundFlags .i32 .rne false sat x)
  | vcvt (d a : Fin 32) (src : Fmt) (o : VMod) : LaneOp (.vcvt d a src o) d o.type.width o.m fun k i =>
      if i < 2048 / Nat.max src.width o.type.width then lane o (k.elemVal a src o.fzi i) 0 else (0, 0)
  | vperm (d a b : Fin 32) (t : Fmt) (m : Bool) : LaneOp (.vperm d a b t m) d t.width m fun k i =>
      (elem (k.getV a) t.width (elem (k.getV b) t.width i % (2048 / t.width)), 0)
  | vbcast (d : Fin 32) (a : Fin 16) (t : Fmt) (m : Bool) : LaneOp (.vbcast d a t m) d t.width m fun k _ => ((k.getE a).toNat, 0)
  | vslide (d a : Fin 32) (t : Fmt) (m : Bool) (n : BitVec 24) : LaneOp (.vslide d a t m n) d t.width m fun k i =>
      (if n.toInt ≤ i ∧ i - n.toInt < (2048 / t.width : Nat) then elem (k.getV a) t.width ((i : Int) - n.toInt).toNat else 0, 0)
/-- The signed or unsigned value of an element of an integer type. -/
def intElem (k : Bank) (a : Fin 32) (t : Fmt) (i : Nat) : Int :=
  if Fmt.signedInt t then signedOf t.width (elem (k.getV a) t.width i) else ((elem (k.getV a) t.width i : Nat) : Int)

/-! ## The matrix and stitch engines (R227 to R277) -/

/-- R115, R190, R231, R232, R348: the next format word: the head of fq, legal and not poisoned, which the stream may pop now and has not popped
yet. -/
structure HasWord (s : State) (b : Bank) (w : Word) (f : FmtWord) (rest : List QEntry) : Prop where
  fresh : b.minst = none
  acquire : s.acquireReady b.job .m = true
  may : MayUse b .m .fq false
  head : ∃ h, b.queue .fq = h :: rest ∧ h.poison = false ∧ w = h.data.setWidth 64
  legal : fmtWord w = some f
/-- The bank that has popped its format word and holds it until its instruction has issued. -/
def Bank.holding (b : Bank) (w : Word) (rest : List QEntry) : Bank :=
  { b.popTo .fq rest with minst := some { fw := w }, seam := b.seam.map fun z => { z with words := z.words ++ [w] } }
/-- R230: n bytes of scratchpad pass the checks of an M operand: inside the scratchpad, aligned, owned and of the compartment. -/
def MFine (s : State) (b : Bank) (addr : Word) (n align : Nat) : Prop :=
  addr.toNat < 2 ^ 19 ∧ addr.toNat + n ≤ 0x60000 ∧ addr.toNat % align = 0 ∧
    ∀ u, addr.toNat / 4096 ≤ u → 4096 * u < addr.toNat + n →
      s.unitCond b (b.level .m) b.mS.mo s.cur.core (some s.cur.seat) u ≠ .illegal ∧
      s.unitCond b (b.level .m) b.mS.mo s.cur.core (some s.cur.seat) u ≠ .gate
/-- R148, R236, R304, R354: n bytes of weight space of a core pass the checks of an operand of a VF. -/
def WFine (s : State) (core vf : Nat) (a : Word) (n align : Nat) : Prop :=
  let off := a.toNat % 2 ^ 27
  a.toNat < 2 ^ 38 ∧ a.toNat / 2 ^ 27 = core ∧ off + n ≤ 0x5000000 ∧ a.toNat % align = 0 ∧
    ∀ o, off ≤ o → (o < off + n ∨ o = off) → ∃ i r, (s.slice core).region? o = some (i, r) ∧ r.vf = vf ∧ (s.key r.key).isSome = true
/-- R253: an action spends `cost` tokens of a column: they are there, and no other action waits before it. -/
def Pays (s : State) (column : Nat) (w : TokWait) (cost : Nat) (s' : State) : Prop :=
  let c := s.core column
  cost ≤ c.tokens ∧ 0 < cost ∧ (c.tokWait = [] ∨ c.tokWait.head? = some w) ∧
    s' = s.setCore column { c with tokens := c.tokens - cost, tokWait := c.tokWait.filter (· != w) }
/-- The tokens of the instruction that M issues. -/
def State.mine (s : State) (b : Bank) : TokWait := ⟨s.cur.core, b.job, 0⟩
/-- R230: a range of scratchpad that M reads holds `v`: nothing of it refuses, is poisoned, or, with UT = 1, invalid, none of it has been read
ahead, and no earlier access waits for the target that M stalled on; `w`: its first invalid part. -/
def MReads (s : State) (b : Bank) (a n v : Nat) (w : Option Nat) : Prop :=
  let c := s.core s.cur.core
  b.mbuf = [] ∧ (∀ st, b.mS.scrub = some st → s.stallFirst st = true) ∧
  (∀ u, a / 4096 ≤ u → u < (a + n + 4095) / 4096 → c.scrubbing.getLsbD u = false) ∧ firstPart c.poison true a n = none ∧
    w = firstPart c.valid false a n ∧ (b.ut = true → w = none) ∧ v = leNat (s.readLoc (.sp s.cur.core a) n)
/-- R263, R264, R271: a stitch instruction may act: no seam is open and its seat owns the stitch file. -/
def OwnsFile (s : State) (b : Bank) : Prop := b.seam = none ∧ (s.core s.cur.core).stOwner = some s.cur.seat

/-! ## The weight tier (R302 to R314) -/

/-- R304, R312, R314: a weight address of the core, in a region of the stream's VF: the region and its place in the table. -/
def InRegion (s : State) (vf : Nat) (a : Word) (i : Nat) (r : Region) : Prop :=
  a.toNat < 2 ^ 38 ∧ a.toNat / 2 ^ 27 = s.cur.core ∧ a.toNat % 2 ^ 27 < 0x5000000 ∧
    (s.slice s.cur.core).region? (a.toNat % 2 ^ 27) = some (i, r) ∧ r.vf = vf
/-- R308, R314: the weight engine of the event's core may go on with request `r`: no earlier request of its row is running and no WSEAL of
its region holds it. -/
structure MayProgram (s : State) (r : WReq) : Prop where
  req : (s.core s.cur.core).wreqs[s.cur.ev.idx]? = some r
  runs : r.out = 1
  first : ∀ o ∈ (s.core s.cur.core).wreqs, o.row = r.row → o.id < r.id → o.out ≠ 1
  free : ∀ z ∈ (s.core s.cur.core).seals, z.order ≤ r.id →
    ((s.slice s.cur.core).region? (64 * r.row)).map (·.1) ≠ some z.region

/-! ## Banks (R334) -/

/-- Two banks hold the same general registers, windows, vector registers and masks. -/
def sameRegs (b c : Bank) : Prop :=
  b.k = c.k ∧ b.win = c.win ∧ b.q = c.q ∧ b.older = c.older ∧ b.spd = c.spd ∧ b.x = c.x ∧ b.v = c.v ∧ b.e = c.e ∧ b.h = c.h ∧ b.d = c.d ∧
    b.mask = c.mask
/-- R336: what SWAPB, BANKLD and BANKST accept as a seat. -/
def seatFine (s : State) (b : Bank) (w : Word) : Prop :=
  w.toNat < 4 ∧ (b.level .c = .h ∨ ∀ o, ((s.core s.cur.core).seat (w.toNat % 4)).live = some o ∨
    ((s.core s.cur.core).seat (w.toNat % 4)).shadow.bank = some o → o.vf = b.vf)
/-- No access from before `mark` that is not performed, by VF and location, meets the test `f`; a line of a destination unit that a copy is
writing is such an access. -/
def Quiet (s : State) (mark : Nat) (f : Nat → Loc → Prop) : Prop :=
  (∀ a ∈ s.acc, a.id < mark → ∀ x ∈ a.elems, x.done = false → ¬ f a.vf x.loc) ∧
    ∀ r ∈ s.copies, r.finished = false → ∀ u ∈ r.xl, u.2.1 < mark → ∀ l ∈ u.2.2, ¬ f r.vf l.2
/-- Each core is listed once (part of `Inv`). -/
def State.coresOnce (s : State) : Prop := (s.cores.map (·.1)).Pairwise (· < ·)

/-! ## The host's windows and the command processors (R344, R345, R365 to R376) -/

/-- R344, R345, R359: the resize procedure has emptied every core of a cluster, no VF of the partition has its home there, and no region of
its slices is assigned to one. -/
def ClusterFree (s : State) (p cl : Nat) : Prop :=
  (∀ i, i < 16 → 16 * cl + i ∈ s.dev.removed) ∧ (∀ x ∈ s.vfs, x.2.partition = p → x.2.home ≠ cl) ∧
    ∀ x ∈ s.tier, x.1 / 16 = cl → ∀ r ∈ x.2.regions, r.2.len ≠ 0 → r.2.vf ≠ 0xFF → (s.vf r.2.vf).partition ≠ p
/-- R344, R365: the writes of quad q of partition k's descriptor that are accepted. -/
def PartAccepts (s : State) (k q v : Nat) : Prop :=
  let p := s.part k
  let page := v % 65536 = 0 ∧ v < 2 ^ 52
  let clusters (m : BitVec 96) : Prop := (∀ x ∈ s.parts, x.1 ≠ k → x.2.clusters &&& m = 0) ∧
    ∀ cl, cl < 96 → p.clusters.getLsbD cl = true → m.getLsbD cl = false → ClusterFree s k cl
  match q with
  | 0 => clusters (BitVec.ofNat 96 (p.clusters.toNat / 2 ^ 64 * 2 ^ 64 + v))
  | 1 => v < 2 ^ 32 ∧ clusters (BitVec.ofNat 96 (p.clusters.toNat % 2 ^ 64 + v * 2 ^ 64))
  | 2 => page
  | 3 => 1 ≤ v ∧ v ≤ 4096
  | 4 => page ∧ p.live = 0
  | 5 => v ≤ 2 ^ 24 ∧ p.live = 0
  | 6 => page ∧ p.btMap = []
  | 7 => v % 2 ^ 32 ≤ 2 ^ 24 ∧ v < 2 ^ 41 ∧ p.btMap = []
  | 8 => 1 ≤ v ∧ v < 2 ^ 32
  | 9 => v % 2 ^ 32 = 0 ∧ v < 2 ^ 48 ∧ 1 ≤ v / 2 ^ 32 % 256 ∧ v / 2 ^ 32 % 256 ≤ 64 ∧ v / 2 ^ 40 < v / 2 ^ 32 % 256
  | 10 => True
  | 11 => v < 2
  | _ => v = 0
/-- R345, R365: the writes of quad q of VF k's descriptor that are accepted. -/
def VfAccepts (s : State) (k q v : Nat) : Prop :=
  let x := s.vf k
  let part := v % 256
  let home := v / 256 % 256
  match q with
  | 0 => v < 2 ^ 26 ∧ home < 96 ∧ (part = x.partition ∧ home = x.home ∨ (s.vfBusy k = false ∧
      (part = 0xFF ∨ (part < 20 ∧ (s.part part).clusters.getLsbD home = true ∧
        ∀ y ∈ s.vfs, y.1 ≠ k → y.2.partition ≠ 0xFF → y.2.home ≠ home))))
  | 1 | 2 => v % 65536 = 0 ∧ v < 2 ^ 52
  | 3 => v % 32 = 0 ∧ v < 2 ^ 52
  | 4 => ∃ n, 4 ≤ n ∧ n ≤ 16 ∧ v = 2 ^ n
  | _ => v = 0
/-- R304, R366: the writes of quad q of region i's descriptor of a core that are accepted; the flags and the digest are read-only
(assumption 112: a zero-field that is not zero). -/
def RegionAccepts (sl : Slice) (i q v : Nat) : Prop :=
  let r := sl.regions.get i {}
  let apart (r : Region) : Prop := r.len = 0 ∨ (r.base + r.len ≤ 0x5000000 ∧
    ∀ o ∈ sl.regions, o.1 ≠ i → o.2.len ≠ 0 → o.2.base + o.2.len ≤ r.base ∨ r.base + r.len ≤ o.2.base)
  match q with
  | 0 => v % 65536 = 0 ∧ (r.vf = 0xFF ∨ v = r.base) ∧ apart { r with base := v }
  | 1 => v % 65536 = 0 ∧ (r.vf = 0xFF ∨ v = r.len) ∧ apart { r with len := v }
  | 2 => v / 2 ^ 8 % 256 = 0 ∧ v / 2 ^ 25 % 128 = 0 ∧ v < 2 ^ 33 ∧ (v % 256 < 96 ∨ v % 256 = 0xFF) ∧
      (r.vf = 0xFF ∨ v / 2 ^ 16 % 512 = r.key)
  | 8 | 9 | 10 | 11 | 12 | 13 | 14 | 15 => False
  | _ => v = 0
/-- R369, R372: the packet that the slot of the event hands to its command processor, and the state once it is read: VF, queue, its
descriptor and the packet's 64 bytes. -/
def HasPacket (s : State) (vf k : Nat) (q : SwQueue) (l : List Byte) (s1 : State) : Prop := s.head = (some (vf, k, q, l), s1)
/-- R372: a packet of a known type for its die with its zero-fields zero and, but for a NOP, an aligned record. -/
def PacketFine (q : SwQueue) (l : List Byte) : Prop :=
  fieldOf l 0 1 ≤ 2 ∧ fieldOf l 1 1 = q.die ∧ fieldOf l 2 6 = 0 ∧ (fieldOf l 0 1 ≠ 0 → fieldOf l 8 8 % 64 = 0) ∧ fieldOf l 32 32 = 0

/-! ## Fetch, decode, dispatch (R25, R27 to R30, R128, R129) -/

/-- The state in which the engine makes its choice: time has passed, the turn is taken, the streams that are not ready have done what takes no
issue slot, and a round that starts is refilled. -/
def State.turned (s : State) (core : Nat) (e : Engine) : State :=
  let s0 := (s.tick.takeTurn).2.settleAll core e
  let x0 := (s0.core core).sched e
  if x0.cyc % 256 == 0 && !x0.refilled then s0.roundStart core e else s0
/-- The first cycle of a round (R129). -/
def State.roundAt (s : State) (core : Nat) (e : Engine) : Bool :=
  ((((s.tick.takeTurn).2.settleAll core e).core core).sched e).cyc % 256 == 0
/-- The state in which the engine's turn attempts the word of seat `j` of VF `v`: the scheduler has counted the issue. -/
def State.scheduled (s : State) (core : Nat) (e : Engine) (v j : Nat) : State :=
  let s1 := s.turned core e
  let x := (s1.core core).sched e
  s1.setCore core ((s1.core core).setSched e { x with
    vp := s1.lowestSeat core v, sp := x.sp.put v j, c := x.c.put v (x.c.get v 0 - 1),
    cyc := x.cyc + 1, refilled := false })
/-- R129: the scheduler chooses seat `j` of VF `v` for the engine's turn. -/
def Chosen (s : State) (core : Nat) (e : Engine) (v j : Nat) : Prop := (s.turned core e).choose core e (s.roundAt core e) = some (v, j)

/-! ## What every step keeps -/

/-- The memories, the firmware state areas of the weight tier among them, are in canonical form and each core is listed once. -/
def Inv (s : State) : Prop :=
  s.dram.wf = true ∧ s.host.wf = true ∧ (∀ x ∈ s.cores, x.2.sp.wf = true) ∧ (∀ x ∈ s.tier, x.2.fwArea.wf = true) ∧ s.coresOnce

end Sys2Proof.Machine
end

