-- ==== Sys2Proof/Certificates/Slice0/Obligations.lean ====
section
/-! DEFINITION. The statements about this model: one `def Obligations.<Name> : Prop` each; OBLIGATIONS.json gives each its rules.
A statement is the conjunction of the claims above it, `Claim.<Name>`, each of which says in its docstring which rules it reads.
A claim of what an instruction does is written `exec i s = .next …` under `Ready`: the state it leaves is said whole, so that what
it does not name is unchanged. -/
open Sys2Proof Sys2Proof.Machine

/-! ## What the register and immediate instructions of C write, and the rule of the divisions -/

/-- R95 and R96: each register-to-register instruction of C writes its result into d; SEL chooses between b and c, CLZ counts leading
zeros, POPC ones. A write of zr is discarded (`Bank.setC`). Nothing but the stream's move to the next word and the word's signal
comes with it. -/
def Claim.RegisterResults : Prop :=
  ∀ (s : State) (x y : Bank) (d a b c : CReg),
    (∀ i f, CrOp i f → Ready s { regs := [d, a, b] } x y →
      exec (i d a b) s = .next (s.done (y.setC d (f (y.getC a) (y.getC b))) .next false)) ∧
    (Ready s { regs := [d, a, b, c] } x y →
      exec (.sel d a b c) s = .next (s.done (y.setC d (if (y.getC a).toNat = 0 then y.getC c else y.getC b)) .next false)) ∧
    (Ready s { regs := [d, a] } x y →
      exec (.clz d a) s = .next (s.done (y.setC d (BitVec.ofNat 64
        (if (y.getC a).toNat = 0 then 64 else 63 - (y.getC a).toNat.log2))) .next false) ∧
      exec (.popc d a) s = .next (s.done (y.setC d (BitVec.ofNat 64 ((List.range 64).filter (y.getC a).getLsbD).length)) .next false))

/-- R96: a = DIV × b + REM modulo 2^64, and a = DIVN × b + REMN, for every a and b, zero included; DIV of -7 by 2 gives -3 and REM -1. -/
def Claim.DivisionIdentity : Prop :=
  (∀ (q r : Word → Word → Word) (a b : Word), CrOp .div q → CrOp .rem r → a = q a b * b + r a b) ∧
  (∀ (q r : Word → Word → Word) (a b : Word), CrOp .divn q → CrOp .remn r → a = q a b * b + r a b) ∧
  (∀ q, CrOp .div q → q (-7) 2 = -3) ∧ (∀ r, CrOp .rem r → r (-7) 2 = -1)

/-- R97 and R98: the immediate family; LDI writes the sign-extended immediate, LDIH replaces the upper half of d. -/
def Claim.ImmediateResults : Prop :=
  ∀ (s : State) (x y : Bank) (d a : CReg),
    (∀ i f, CiOp i f → Ready s { regs := [d, a] } x y → exec (i d a) s = .next (s.done (y.setC d (f (y.getC a))) .next false)) ∧
    (∀ m, Ready s { regs := [d] } x y → exec (.ldi d m) s = .next (s.done (y.setC d (BitVec.ofInt 64 m.toInt)) .next false)) ∧
    (∀ m, Ready s { regs := [d, d] } x y →
      exec (.ldih d m) s = .next (s.done (y.setC d (BitVec.ofNat 64 (m.toNat * 2 ^ 32 + (y.getC d).toNat % 2 ^ 32))) .next false))

/-- R94 and R80: a read of zr yields 0, and a write of zr changes nothing of the bank; a write of any other C register is read
back and leaves every other register as it was. -/
def Claim.ZeroRegister : Prop :=
  ∀ (b : Bank) (r q : CReg) (w : Word),
    (b.setC .zr w = b) ∧ ((b.setC r w).getC .zr = 0) ∧ (r ≠ .zr → (b.setC r w).getC r = w) ∧
      (q ≠ r → (b.setC r w).getC q = b.getC q)

/-- What the register and immediate instructions of C write, and the rule of the divisions. -/
def Obligations.ControlArithmetic : Prop :=
  Claim.RegisterResults ∧ Claim.DivisionIdentity ∧ Claim.ImmediateResults ∧ Claim.ZeroRegister

/-! ## Where a stream goes on after an instruction, and the targets of branches -/

/-- R28, R29 and R91: where a stream goes on. C: an ordinary word moves to NPC; a transfer's slot is the word at NPC and lies in a
delay slot, and the target, or the word after the slot, follows it. The other streams: the next word, or the branch's target. A
taken transfer discards the words fetched ahead. An instruction that sets its stream's position itself (RTE, RDV) leaves it so. -/
def Claim.StreamMovesOn : Prop :=
  ∀ (s : State) (b : Bank) (g : Go) (late : Bool),
    ∃ b', (s.done b g late).bank s.cur.core s.cur.seat = some b' ∧
      (g = .set → b'.ctl s.cur.eng = b.ctl s.cur.eng) ∧
      (∀ t, g = .to (some t) ∨ s.cur.eng = .c ∧ g = .slot (some t) → (b'.ctl s.cur.eng).fetched = []) ∧
      (g ≠ .set → s.cur.eng = .c → (b'.cS.pc, b'.cS.npc, b'.cS.ds) =
        match g with
        | .slot (some t) => (b.cS.npc, t, true)
        | .slot none => (b.cS.npc, (b.ring .c).next b.cS.npc, true)
        | .to (some t) => (t, (b.ring .c).next t, false)
        | _ => (b.cS.npc, (b.ring .c).next b.cS.npc, false)) ∧
      (g ≠ .set → s.cur.eng ≠ .c → (b'.ctl s.cur.eng).pc =
        match g with
        | .to (some t) => t
        | _ => (b.ring s.cur.eng).next (b.ctl s.cur.eng).pc)

/-- R28: ring_next is BASE + ((pc − BASE + 8) mod 8·LEN) and ring_target BASE + ((pc − BASE + 8·disp) mod 8·LEN); both stay inside the ring, a
multiple of 8 bytes from its base for an aligned position, and a displacement of a whole number of ring lengths goes nowhere. -/
def Claim.RingTarget : Prop :=
  ∀ (r : Ring) (pc : Nat) (d k : Int), 0 < r.len → r.base ≤ pc → pc < r.base + 8 * r.len → (pc - r.base) % 8 = 0 →
    r.next pc = r.base + (pc - r.base + 8) % (8 * r.len) ∧
    (r.target pc d : Int) = r.base + ((pc : Int) - r.base + 8 * d) % (8 * r.len) ∧
    r.base ≤ r.target pc d ∧ r.target pc d < r.base + 8 * r.len ∧ (r.target pc d - r.base) % 8 = 0 ∧
      r.target pc (d + k * r.len) = r.target pc d ∧ r.target pc (k * r.len) = pc

/-- Where a stream goes on after an instruction, and the targets of branches. -/
def Obligations.ProgramOrder : Prop := Claim.StreamMovesOn ∧ Claim.RingTarget

/-! ## The branches and jumps of C, and a transfer in a delay slot -/

/-- R99: B and the conditional branches; the target is ring_target of the branch's own position, the delay slot comes first. -/
def Claim.Branches : Prop :=
  ∀ (s : State) (x y : Bank) (a b : CReg) (disp : BitVec 28),
    (∀ i taken, CbOp i taken → Ready s { ctl := true, regs := [a, b] } x y →
      exec (i a b disp) s = .next (s.done y
        (.slot (if taken (y.getC a) (y.getC b) then some ((y.ring .c).target y.cS.pc disp.toInt) else none)) false)) ∧
    (Ready s { ctl := true, regs := [.zr, .zr] } x y →
      exec (.b disp) s = .next (s.done y (.slot (some ((y.ring .c).target y.cS.pc disp.toInt))) false))

/-- R100: JR goes to a, after its slot, when a lies in the C ring and is a multiple of 8; else it raises ILLEGAL with TRAPADDR = a. -/
def Claim.JumpRegister : Prop :=
  ∀ (a : CReg) (s : State) (b b1 : Bank), Ready s { ctl := true, regs := [a] } b b1 →
    let t := b1.getC a
    let r := b1.ring .c
    (∀ ann, (encode .c ann (.jr a)).toNat % 2 ^ 48 = 0x30 * 2 ^ 40 + a.code * 2 ^ 28) ∧
    (r.base ≤ t.toNat ∧ t.toNat < r.base + 8 * r.len ∧ t.toNat % 8 = 0 →
      exec (.jr a) s = .next (s.done b1 (.slot (some t.toNat)) false)) ∧
    (¬ (r.base ≤ t.toNat ∧ t.toNat < r.base + 8 * r.len ∧ t.toNat % 8 = 0) →
      exec (.jr a) s = .next (s.stops b1 { cause := .illegal, addr := t }))

/-- R92: a control transfer of C in a delay slot raises DSBRANCH, before its wait: the record has WD = 0 and DS = 1. -/
def Claim.DelaySlotBranch : Prop :=
  ∀ (s : State) (b : Bank), s.bank s.cur.core s.cur.seat = some b → s.cur.eng = .c → b.cS.ds = true →
    (∀ w, (b.trapRec .c { cause := .dsbranch } w).wd = false ∧ (b.trapRec .c { cause := .dsbranch } w).ds = true) ∧
    (∀ i taken a c disp, CbOp i taken → exec (i a c disp) s = .next (s.trapped b { cause := .dsbranch })) ∧
    (∀ disp, exec (.b disp) s = .next (s.trapped b { cause := .dsbranch })) ∧
    (∀ a, exec (.jr a) s = .next (s.trapped b { cause := .dsbranch })) ∧
    (∀ disp, exec (.call disp) s = .next (s.trapped b { cause := .dsbranch })) ∧
    (∀ a, exec (.callr a) s = .next (s.trapped b { cause := .dsbranch })) ∧
    exec .ret s = .next (s.trapped b { cause := .dsbranch }) ∧
    exec .rdv s = .next (s.trapped b { cause := .dsbranch }) ∧
    (∀ k, (b.level .c) ≠ .u → exec (.rte k) s = .next (s.trapped b { cause := .dsbranch }))

/-- The branches and jumps of C, and a transfer in a delay slot. -/
def Obligations.ControlTransfers : Prop := Claim.Branches ∧ Claim.JumpRegister ∧ Claim.DelaySlotBranch

/-! ## CALL, CALLR and RET move the register windows -/

/-- R101: CALL and CALLR, when a window is free (RSD < 9): the caller's q registers become p0 to p7, p7 becomes the address of the word
after the slot, the caller's window is kept, DEPTH and RSD rise by one, and the target follows the slot. The callee's l and q
registers are free values: nothing is said of them. k0 to k7 and the other streams' registers stay; a poisoned register is poisoned
under its new name (R326). -/
def Claim.Calls : Prop :=
  ∀ (i : Instr) (s : State) (b b1 : Bank) (tgt : Nat) (rs : List CReg),
    (match i with
     | .call disp => rs = [] ∧ tgt = (b1.ring .c).target b1.cS.pc disp.toInt
     | .callr a => rs = [a] ∧ tgt = (b1.getC a).toNat ∧ (b1.ring .c).holds (b1.getC a) = true
     | _ => False) →
    Ready s { ctl := true, regs := rs ++ windowRegs } b b1 → b1.rsd < 9 →
    ∃ b2 : Bank, exec i s = .next ({ s with ctr := s.ctr + 1 }.done b2 (.slot (some tgt)) false) ∧
      (∀ j : Fin 8, b2.getC (.p j) =
        if j = 7 then BitVec.ofNat 64 ((b1.ring .c).next ((b1.ring .c).next b1.cS.pc)) else b1.getC (.q j)) ∧
      b2.older = b1.win :: b1.older ∧ b2.depth = b1.depth + 1 ∧ b2.rsd = b1.rsd + 1 ∧
      b2.bad = b1.bad.filterMap BadElem.called ∧ { b2 with win := b1.win, q := b1.q, older := b1.older, bad := b1.bad } = b1

/-- R83, R85, R100, R101: CALL and CALLR that find RSD = 9 wait for a spill or fill in flight; with none, they start a spill and wait, or,
with SPD at the capacity of the spill area or DEPTH at 65535, raise WINOVF with TRAPADDR = SPILLBASE + 192 × SPD. CALLR of a target that
is outside the ring or misaligned raises ILLEGAL with TRAPADDR = a, whatever RSD. Nothing but the wait comes before a trap. -/
def Claim.CallsHeld : Prop :=
  ∀ (i : Instr) (s : State) (b b1 : Bank) (rs : List CReg),
    (match i with
     | .call _ => rs = []
     | .callr a => rs = [a] ∧ (b1.ring .c).holds (b1.getC a) = true
     | _ => False) →
    Ready s { ctl := true, regs := rs ++ windowRegs } b b1 → 9 ≤ b1.rsd →
    let capacity := (b1.spillLim - b1.spillBase) / 192
    (b1.spill ≠ none → exec i s = .next (s.waited b1).blockedAt) ∧
    (b1.spill = none → b1.spd < capacity → b1.depth ≠ 65535 →
      exec i s = .next (((s.waited b1).setBank s.cur.core s.cur.seat { b1 with spill := some (.spill 0), fillTrap := none }).blockedAt)) ∧
    (b1.spill = none → b1.spd = capacity ∨ b1.depth = 65535 →
      exec i s = .next (s.stops b1 { cause := .winovf, addr := BitVec.ofNat 64 (b1.spillBase + 192 * b1.spd) }))
def Claim.CallTargets : Prop :=
  ∀ (s : State) (b b1 : Bank) (a : CReg), Ready s { ctl := true, regs := a :: windowRegs } b b1 →
    (b1.ring .c).holds (b1.getC a) = false → exec (.callr a) s = .next (s.stops b1 { cause := .illegal, addr := b1.getC a })

/-- R86 and R102: RET with a resident caller: the caller's window becomes current, with the callee's p registers as its q registers,
DEPTH and RSD fall by one, and p7 follows the slot; at DEPTH 0, or with p7 outside the ring or misaligned, it raises ILLEGAL with
TRAPADDR = p7 and moves no window. At RSD = 0 it waits for a spill or fill in flight, else starts the fill; the error that a fill has met
is its trap: UNCORR, or SPUNINIT. The model's choice (log entry 98): a caller's window that is being spilled is waited for. -/
def Claim.Returns : Prop :=
  ∀ (s : State) (b b1 : Bank), Ready s { ctl := true, regs := windowRegs } b b1 →
    let t := b1.getC (.p 7)
    (∀ w ws, b1.older = w :: ws → (b1.ring .c).holds t = true → b1.spillsLast = true → exec .ret s = .next (s.waited b1).blockedAt) ∧
    (∀ w ws, b1.older = w :: ws → (b1.ring .c).holds t = true → b1.spillsLast = false →
      exec .ret s = .next (s.done { b1 with win := w, older := ws, q := b1.win.p, bad := b1.bad.filterMap BadElem.returned }
        (.slot (some t.toNat)) false)) ∧
    (b1.older = [] → b1.depth ≠ 0 → (b1.ring .c).holds t = true →
      (b1.spill ≠ none → exec .ret s = .next (s.waited b1).blockedAt) ∧
      (b1.spill = none → b1.fillTrap = none →
        exec .ret s = .next (((s.waited b1).setBank s.cur.core s.cur.seat { b1 with spill := some .fill }).blockedAt)) ∧
      (∀ cause addr, b1.spill = none → b1.fillTrap = some (cause, addr) →
        let b2 := { b1 with fillTrap := none }
        exec .ret s = .next (s.stopsAs b1 ((s.waited b1).setBank s.cur.core s.cur.seat b2) b2
          { cause := if cause = 0x11 then .uncorr else .spuninit, addr := addr }))) ∧
    (b1.depth = 0 ∨ (b1.ring .c).holds t = false →
      exec .ret s = .next (s.stops b1 { cause := .illegal, addr := t }))

/-- CALL, CALLR and RET move the register windows. -/
def Obligations.CallsAndReturns : Prop := Claim.Calls ∧ Claim.CallsHeld ∧ Claim.CallTargets ∧ Claim.Returns

/-! ## The spill engine moves windows between the registers and the spill area -/

/-- R83, R84 and R86: the spill engine. WINDOW_SPILL starts when RSD is 8 or more and the area has room; WINDOW_SPILL_DONE moves the oldest
resident window to index SPD: p0 to p7 at SPILLBASE + 192 × SPD and l0 to l15 from + 64 on, but for words the spill has written before,
and no other byte of scratchpad or memory changes; WINDOW_FILL starts when RSD is 1 or less and SPD is not 0; WINDOW_FILL_DONE of a
valid window makes the window of those 192 bytes the oldest resident one; a window that has gone is poisoned no more, and one that a fill
brings is not (a poisoned word stops it: R86). DEPTH never changes by them. -/
def Claim.WindowEvents : Prop :=
  ∀ (s : State) (b : Bank), s.bank s.cur.core s.cur.seat = some b → (∀ c, (s.core c).sp.wf = true) →
    let core := s.cur.core
    let a := b.spillBase + 192 * b.spd
    let f := b.spillBase + 192 * (b.spd - 1)
    (8 ≤ b.rsd → b.spd < (b.spillLim - b.spillBase) / 192 → b.spill = none → b.frozen = none →
      exec .windowSpill s = .next (s.setBank s.cur.core s.cur.seat { b with spill := some (.spill 0), fillTrap := none })) ∧
    (∀ w written, b.spill = some (.spill written) → b.older.getLast? = some w → a + 192 ≤ 0x60000 → ∃ t,
      exec .windowSpillDone s = .next t ∧
      t.bank core s.cur.seat = some { b with spill := none, spd := b.spd + 1, older := b.older.dropLast,
                                              bad := b.bad.filter (BadElem.resident (b.rsd - 1)) } ∧
      (∀ k : Fin 8, written.testBit k = false → leNat (t.readLoc (.sp core (a + 8 * k.val)) 8) = (w.p[k]).toNat) ∧
      (∀ k : Fin 16, written.testBit (8 + k.val) = false → leNat (t.readLoc (.sp core (a + 64 + 8 * k.val)) 8) = (w.l[k]).toNat) ∧
      (∀ c k, (c ≠ core ∨ k < a ∨ a + 192 ≤ k ∨ written.testBit ((k - a) / 8) = true) →
        t.readLoc (.sp c k) 1 = s.readLoc (.sp c k) 1) ∧ t.dram = s.dram) ∧
    (b.rsd ≤ 1 → 0 < b.spd → b.spill = none → b.frozen = none → b.fillTrap = none →
      exec .windowFill s = .next (s.setBank s.cur.core s.cur.seat { b with spill := some .fill })) ∧
    (b.spill = some .fill → 0 < b.spd →
      firstPart (s.core core).poison true f 192 = none → firstPart (s.core core).valid false f 192 = none → ∃ w : Win,
      exec .windowFillDone s = .next (s.setBank core s.cur.seat { b with spill := none, spd := b.spd - 1, older := b.older ++ [w] }) ∧
      (∀ k : Fin 8, (w.p[k]).toNat = leNat (s.readLoc (.sp core (f + 8 * k.val)) 8)) ∧
      ∀ k : Fin 16, (w.l[k]).toNat = leNat (s.readLoc (.sp core (f + 64 + 8 * k.val)) 8))

/-- The spill engine moves windows between the registers and the spill area. -/
def Obligations.SpillEngine : Prop := Claim.WindowEvents

/-! ## MFS reads each special register; the values of those that hardware sets -/

/-- R46 and R103: MFS writes the value of the register into d, at the level that R46 asks for. -/
def Claim.SpecialRegisterReads : Prop :=
  ∀ (d : CReg) (r : SpecialReg) (s : State) (x y : Bank), Ready s { lvl := srReadLevel r, regs := [d] } x y →
    exec (.mfs d r) s = .next (s.done (y.setC d (s.special y r)) .next false)

/-- R8, R9, R27, R46, R82, R127, R253, R385: the values of the registers that a job cannot write, a ring register's word of BASE and LEN, and
WINPTR's fields. -/
def Claim.HardwareValues : Prop :=
  ∀ (s : State) (b : Bank), s.cur.core < 1536 → s.cur.seat < 4 → b.vf < 128 →
    (s.special b .seatid).toNat = s.cur.seat ∧ (s.special b .coreid).toNat = s.cur.core ∧
    (s.special b .clustid).toNat = s.cur.core % 192 / 16 ∧ (s.special b .dieid).toNat = s.cur.core / 192 ∧
    (s.special b .vfid).toNat = b.vf ∧ (s.special b .compart).toNat = (if b.cS.mo then 1 else 0) ∧
    s.special b .tagbits = b.tagbits ∧
    s.special b .tickno = BitVec.ofNat 64 (s.part b.part).tickno ∧ s.special b .timebase = BitVec.ofNat 64 s.timebase ∧
    s.special b .tickper = BitVec.ofNat 64 (s.part b.part).tickper ∧ s.special b .tokrate = BitVec.ofNat 64 (if s.dev.thermal = true then 0 else (s.core s.cur.core).tokrate) ∧
    s.special b .tokens = BitVec.ofNat 64 (s.core s.cur.core).tokens ∧ s.special b .tokmax = BitVec.ofNat 64 (s.core s.cur.core).tokmax ∧
    s.special b .cring = b.cring.word ∧ s.special b .aring = b.aring.word ∧ s.special b .vring = b.vring.word ∧
    s.special b .mring = b.mring.word ∧ s.special b .dring = b.dring.word ∧ s.special b .winptr = b.winptr ∧
    (∀ r : Ring, r.base < 2 ^ 19 → r.len < 2 ^ 16 → r.word.toNat % 2 ^ 19 = r.base ∧ r.word.toNat / 2 ^ 20 = r.len) ∧
    (b.rsd ≤ 9 → b.depth < 65536 →
      (b.winptr.toNat / 2 ^ 32 = b.spd ∧ b.winptr.toNat / 2 ^ 16 % 2 ^ 16 = b.depth ∧ b.winptr.toNat % 16 = b.rsd))

/-- MFS reads each special register; the values of those that hardware sets. -/
def Obligations.SpecialReads : Prop := Claim.SpecialRegisterReads ∧ Claim.HardwareValues

/-! ## MTS writes each special register, or refuses the value -/

/-- R88, R89, R103, R145, R254, R317, R339: MTS of a value that the register's map accepts writes the register, and nothing else of the
machine but TOKENS, which a lowered TOKMAX lowers with it. That the map of TICKPER accepts 1 to 2^32 - 1 is the model's reading of
R127 (log entry 14). -/
def Claim.SpecialRegisterWrites : Prop :=
  ∀ (i : Instr) (r : SpecialReg) (a : CReg), MtsForm i r a →
    ∀ (s : State) (x y : Bank), Ready s { lvl := srWriteLevel r, regs := [a] } x y → (r = .winptr → y.spill = none) →
      let v := y.getC a
      let c := (s.waited y).core s.cur.core
      MtsAccepts y r v.toNat →
      exec i s = .next
        (match r with
         | .tokmax => ((s.waited y).setCore s.cur.core { c with tokmax := v.toNat, tokens := Nat.min c.tokens v.toNat }).done y .next false
         | .tickper => ((s.waited y).setPart y.part { s.part y.part with tickper := v.toNat }).done y .next false
         | r => s.done (y.setSpecial r v) .next false)

/-- R103: what an accepted write of a register of the bank sets is what a read then gives, in every field that may be written. -/
def Claim.SpecialReadAfterWrite : Prop :=
  ∀ (s : State) (b : Bank) (r : SpecialReg) (v : Word), MtsAccepts b r v.toNat → (r = .winptr → b.spill = none) →
    s.special (b.setSpecial r v) r &&& srWritable r = v &&& srWritable r

/-- R88, R89, R103, R317: MTS of any other value, to a register that some level may write, raises ILLEGAL and writes nothing. For
TICKPER that is the model's reading (log entry 14: no rule gives the instruction's trap for 0 or a value of 2^32 or more). -/
def Claim.SpecialRegisterRefusals : Prop :=
  ∀ (i : Instr) (r : SpecialReg) (a : CReg), MtsForm i r a → (srWritable r ≠ 0 ∨ r = .tokmax ∨ r = .tickper) →
    ∀ (s : State) (x y : Bank), Ready s { lvl := srWriteLevel r, regs := [a] } x y → (r = .winptr → y.spill = none) →
      ¬ MtsAccepts y r (y.getC a).toNat →
      ∃ addr, exec i s = .next (s.stops y { cause := .illegal, addr := addr })

/-- R88: MTS of WINPTR waits until no spill or fill is in flight. -/
def Claim.WindowPointerWaits : Prop :=
  ∀ (i : Instr) (a : CReg) (s : State) (x y : Bank), MtsForm i .winptr a → Ready s { lvl := .s, regs := [a] } x y → y.spill ≠ none →
    exec i s = .next (s.waited y).blockedAt

/-- MTS writes each special register, or refuses the value. -/
def Obligations.SpecialWrites : Prop :=
  Claim.SpecialRegisterWrites ∧ Claim.SpecialReadAfterWrite ∧ Claim.SpecialRegisterRefusals ∧ Claim.WindowPointerWaits

/-! ## Privileged instructions raise PRIV below their level -/

/-- R25 step 4, R46, R308, R312, R314, R315, R336, R338: an instruction whose level is above the stream's raises PRIV and has no other
effect: MFS and MTS of the registers of level S and H, and the instructions of C of level S and of level H; so does an instruction of the
weight tier in a stream outside the model-owner compartment. -/
def Claim.PrivilegedInstructions : Prop :=
  ∀ (s : State) (b : Bank), s.bank s.cur.core s.cur.seat = some b →
    b.unsettled s.cur.eng = false →
    (∀ d r, srPrivileged r = true → b.level s.cur.eng = .u → exec (.mfs d r) s = .next (s.trapped b { cause := .priv })) ∧
    (∀ i r a, MtsForm i r a → (srWriteLevel r).le (b.level s.cur.eng) = false → exec i s = .next (s.trapped b { cause := .priv })) ∧
    (∀ i, (∃ a c, i = .spalloc a c) ∨ (∃ k, i = .rte k) ∨ (∃ a, i = .tlbi a) ∨ i = .tlbia ∨ (∃ d, i = .errpop d) ∨ (∃ d a, i = .monrd d a) ∨
        (∃ a, i = .swapb a) ∨ (∃ a c, i = .bankld a c) ∨ (∃ a c, i = .bankst a c) →
      b.level s.cur.eng = .u → exec i s = .next (s.trapped b { cause := .priv })) ∧
    (∀ i, (∃ a, i = .gpafl a) ∨ (∃ a, i = .keyzap a) ∨ (∃ a, i = .zscrub a) ∨ (∃ a c, i = .keyld a c) →
      b.level s.cur.eng ≠ .h → exec i s = .next (s.trapped b { cause := .priv })) ∧
    (∀ i, (∃ a c t, i = .wprog a c t) ∨ (∃ d a, i = .wpstat d a) ∨ (∃ d a, i = .wwear d a) ∨ (∃ d a, i = .wrmap d a) ∨ (∃ a, i = .wseal a) →
      (b.ctl s.cur.eng).mo = false → exec i s = .next (s.trapped b { cause := .priv }))

/-- Privileged instructions raise PRIV below their level. -/
def Obligations.PrivilegeChecks : Prop := Claim.PrivilegedInstructions

/-! ## NOP, WSYNC and FENCE -/

/-- R105 and R106: NOP does nothing but its wait and its signal; WSYNC, once no store of C to scratchpad is pending, discards the words
that C has fetched ahead. -/
def Claim.NopAndWsync : Prop :=
  ∀ (s : State) (x y : Bank), Ready s {} x y →
    exec .nop s = .next (s.done y .next false) ∧
    (s.acc.any (fun a => a.job == y.job && a.eng == .c && a.storesSp) = false →
      exec .wsync s = .next (s.done { y with cS := { y.cS with fetched := [] } } .next false))

/-- R188, R195: FENCE has no effect in V, nor on a stream with nothing pending that has been shown no store of another stream that its scope has
yet to see; else it leaves a marker of its scope that holds back later accesses of the kinds it names (`State.fenceHolds`). -/
def Claim.FenceIssues : Prop :=
  ∀ (s : State) (x y : Bank) (scope : Scope) (kinds : BitVec 4), Ready s {} x y →
    let busy := (s.waited y).streamBusy y s.cur.eng || (s.cur.eng == .d && s.copies.any (·.job == y.job)) ||
      (s.cur.eng == .c && s.sigs.any (·.job == y.job)) || !(s.waited y).othersAt y.job s.cur.core s.cur.seat s.cur.eng scope
    (s.cur.eng = .v ∨ busy = false → exec (.fence scope kinds) s = .next (s.done y .next false)) ∧
    (s.cur.eng ≠ .v → busy = true →
      exec (.fence scope kinds) s = .next (((s.waited y).post y 0 (.fence kinds) 0 [] false false s.cur.ann.late scope).done y .next true))

/-- NOP, WSYNC and FENCE. -/
def Obligations.PlainInstructions : Prop := Claim.NopAndWsync ∧ Claim.FenceIssues

/-! ## Loads, stores and atomics of C on virtual memory issue -/

/-- R150, R161, R177, R196: a load of C that passes its checks posts one read of its address, which writes d when it is performed: LD, LDA
with its acquire and its scope, PMLDX under the postmark of b. Nothing else changes but the translations it has made. -/
def Claim.LoadsIssue : Prop :=
  ∀ (s s1 : State) (x y : Bank) (t : Target),
    (∀ o : CmArgs, Ready s { regs := [o.d, o.a] } x y →
      Passes s y (y.getC o.a + o.disp.signExtend 64) o.size.bytes y.pmC.toNat useLoad t s1 →
      exec (.ld o) s = .next ((s1.post y 0 (.load o.d o.size o.x) (y.getC o.a + o.disp.signExtend 64)
        [plainElem t.loc o.size.bytes t.ord false []] false false s.cur.ann.late).done y .next true)) ∧
    (∀ o : CnArgs, Ready s { regs := [o.d, o.a] } x y →
      Passes s y (y.getC o.a + o.disp.signExtend 64) o.size.bytes y.pmC.toNat useLoad t s1 →
      exec (.lda o) s = .next ((s1.post y 0 (.load o.d o.size o.x) (y.getC o.a + o.disp.signExtend 64)
        [plainElem t.loc o.size.bytes t.ord false []] true false s.cur.ann.late o.scope).done y .next true)) ∧
    (∀ d a b, Ready s { regs := [d, a, b] } x y → (y.getC b).toNat < 65536 →
      Passes s y (y.getC a) 8 (y.getC b).toNat { useLoad with explicitPm := true } t s1 →
      exec (.pmldx d a b) s = .next ((s1.post y 0 (.load d .b8 false) (y.getC a)
        [plainElem t.loc 8 t.ord false []] false false s.cur.ann.late).done y .next true))

/-- R150, R168, R196: a store of C that passes its checks posts one write of the low bytes of d at its address: ST, and STL with its
release and its scope. No byte of memory changes when it issues. -/
def Claim.StoresIssue : Prop :=
  ∀ (s s1 : State) (x y : Bank) (t : Target),
    (∀ o : CmArgs, Ready s { regs := [o.d, o.a] } x y →
      Passes s y (y.getC o.a + o.disp.signExtend 64) o.size.bytes y.pmC.toNat useStore t s1 →
      exec (.st o) s = .next ((s1.post y 0 .store (y.getC o.a + o.disp.signExtend 64)
        [plainElem t.loc o.size.bytes t.ord true (leBytes (y.getC o.d).toNat o.size.bytes)] false false s.cur.ann.late).done y .next true)) ∧
    (∀ o : CnArgs, Ready s { regs := [o.d, o.a] } x y →
      Passes s y (y.getC o.a + o.disp.signExtend 64) o.size.bytes y.pmC.toNat useStore t s1 →
      exec (.stl o) s = .next ((s1.post y 0 .store (y.getC o.a + o.disp.signExtend 64)
        [plainElem t.loc o.size.bytes t.ord true (leBytes (y.getC o.d).toNat o.size.bytes)] false true s.cur.ann.late o.scope).done y .next true))

/-- R197 and R199: an atomic of C that passes the checks of a store posts one action on its address, with its operand, its acquire, its
release and its scope; it answers in d when it is performed. AMOCAS likewise on memory without a postmark. -/
def Claim.AtomicsIssue : Prop :=
  ∀ (s s1 : State) (x y : Bank) (t : Target) (o : CaArgs),
    (∀ i op, AmoForm i op → Ready s { regs := [o.d, o.a, o.b, .zr] } x y →
      Passes s y (y.getC o.a) o.size.bytes y.pmC.toNat (useAtomic true) t s1 →
      exec (i o) s = .next ((s1.post y 0 (.amo op o.d o.size (y.getC o.b) 0) (y.getC o.a)
        [plainElem t.loc o.size.bytes t.ord true []] o.acq o.rel s.cur.ann.late o.scope).done y .next true)) ∧
    (∀ c part gpa pa key, Ready s { regs := [o.d, o.a, o.b, c] } x y → t.loc = .mem part 0 gpa pa key →
      Passes s y (y.getC o.a) o.size.bytes y.pmC.toNat (useAtomic true) t s1 →
      exec (.amocas o c) s = .next ((s1.post y 0 (.amo .cas o.d o.size (y.getC o.b) (y.getC c)) (y.getC o.a)
        [plainElem t.loc o.size.bytes t.ord true []] o.acq o.rel s.cur.ann.late o.scope).done y .next true))

/-- Loads, stores and atomics of C on virtual memory issue. -/
def Obligations.MemoryIssues : Prop := Claim.LoadsIssue ∧ Claim.StoresIssue ∧ Claim.AtomicsIssue

/-! ## Scratchpad accesses of C, and the traps of an address in their order -/

/-- R150 and R144: SLD and SST reach the scratchpad of their own core, WLD and WST that of the core of the cluster that bits [22:19] of the
address name; the address must be aligned and its unit owned, of the stream's compartment and not refusing. A load reads only valid
bytes, once the stream's own stores to them are performed; with UT = 0 it reads an invalid part too, and logs it (R144, R325). -/
def Claim.ScratchpadAccessesIssue : Prop :=
  ∀ (s : State) (x y : Bank) (o : CmArgs) (window : Bool),
    let ea := (y.getC o.a + o.disp.signExtend 64).toNat
    let n := o.size.bytes
    let core := if window then s.cur.core / 16 * 16 + ea / 2 ^ 19 % 16 else s.cur.core
    let off := if window then ea % 2 ^ 19 else ea
    Ready s { regs := [o.d, o.a] } x y → off < 0x60000 → (window = true → ea < 2 ^ 23) → off % n = 0 →
    (s.waited y).unitCond y (y.level .c) y.cS.mo core (if window then none else some s.cur.seat) (off / 4096) = .ok →
    (s.waited y).firstStalled y .c = true → (s.waited y).requestFree s.cur.core = true →
    (s.ownSpStore y.job .c core off n = false → ((s.waited y).core core).readCond off n = .ok →
      exec (if window then .wld o else .sld o) s = .next (((s.waited y).post y 0 (.load o.d o.size o.x) (BitVec.ofNat 64 ea)
        [plainElem (.sp core off) n .sp false []] false false s.cur.ann.late).done y .next true)) ∧
    (∀ p, s.ownSpStore y.job .c core off n = false → ((s.waited y).core core).readCond off n = .invalid p → y.ut = false →
      exec (if window then .wld o else .sld o) s = .next (
        (((s.waited y).log s.cur.core s.cur.seat ⟨5, false, 0, y.cid, 0, BitVec.ofNat 64 p⟩).post y 0 (.load o.d o.size o.x) (BitVec.ofNat 64 ea)
          [plainElem (.sp core off) n .sp false []] false false s.cur.ann.late).done y .next true)) ∧
    exec (if window then .wst o else .sst o) s = .next (((s.waited y).post y 0 .store (BitVec.ofNat 64 ea)
      [plainElem (.sp core off) n .sp true (leBytes (y.getC o.d).toNat n)] false false s.cur.ann.late).done y .next true)

/-- R143, R144, R147, R150, R326, R347: what SLD and SST meet in their own scratchpad, WLD and WST in the cluster's: an address outside raises
ILLEGAL; then a misaligned one MISALIGN, in the window after the unit's own traps; a unit that the seat (in the window, the VF) does not own
ILLEGAL, a unit of the other compartment GATE; then, for a load, poisoned bytes UNCORR, and with UT = 1 an invalid part SPUNINIT with TRAPADDR
= the part's address as the access names it (in the window the model's reading: log entry 100). The trap has no other effect. -/
def Claim.ScratchpadTraps : Prop :=
  ∀ (s : State) (x y : Bank) (o : CmArgs) (window write : Bool), Ready s { regs := [o.d, o.a] } x y →
    let ea := y.getC o.a + o.disp.signExtend 64
    let n := o.size.bytes
    let i : Instr := if window then (if write then .wst o else .wld o) else if write then .sst o else .sld o
    let core := if window then s.cur.core / 16 * 16 + ea.toNat / 2 ^ 19 % 16 else s.cur.core
    let off := if window then ea.toNat % 2 ^ 19 else ea.toNat
    let out := 0x60000 ≤ off ∨ (window = true ∧ 2 ^ 23 ≤ ea.toNat)
    let u := (s.waited y).unitCond y (y.level .c) y.cS.mo core (if window then none else some s.cur.seat) (off / 4096)
    let traps (c : Cause) (a : Word) : Prop := exec i s = .next (s.stops y { cause := c, addr := a })
    let reads := write = false ∧ ¬ out ∧ off % n = 0 ∧ u = .ok ∧ (s.waited y).firstStalled y .c = true ∧
      (s.waited y).requestFree s.cur.core = true ∧ s.ownSpStore y.job .c core off n = false
    (out → traps .illegal ea) ∧
    (¬ out → off % n ≠ 0 → window = false ∨ (u ≠ .illegal ∧ u ≠ .gate) → traps .misalign ea) ∧
    (¬ out → window = true ∨ off % n = 0 → (u = .illegal → traps .illegal ea) ∧ (u = .gate → traps .gate ea)) ∧
    (reads → ((s.waited y).core core).readCond off n = .poison → traps .uncorr ea) ∧
    (∀ p, reads → y.ut = true → ((s.waited y).core core).readCond off n = .invalid p →
      traps .spuninit (BitVec.ofNat 64 (ea.toNat - off + p)))

/-- R131, R137, R140, R141, R196: what LD, ST, LDA and STL meet first at a virtual address: one that is not canonical raises PFAULT1 with
PFK = 4; then, at level U, one of the upper half PFAULT1 with PFK = 2; then a misaligned one MISALIGN. -/
def Claim.AddressTraps : Prop :=
  ∀ (s : State) (x y : Bank) (i : Instr) (d a : CReg) (size : Size) (disp : Word),
    ((∃ o : CmArgs, (i = .ld o ∨ i = .st o) ∧ (o.d, o.a, o.size, o.disp.signExtend 64) = (d, a, size, disp)) ∨
      (∃ o : CnArgs, (i = .lda o ∨ i = .stl o) ∧ (o.d, o.a, o.size, o.disp.signExtend 64) = (d, a, size, disp))) →
    Ready s { regs := [d, a] } x y →
    let ea := y.getC a + disp
    let top := ea.toNat / 2 ^ 54
    let traps (c : Cause) (k : Nat) : Prop := exec i s = .next (s.stops y { cause := c, addr := ea, pfk := k })
    (top ≠ 0 → top ≠ 1023 → traps .pfault1 4) ∧
    (top = 1023 → y.level .c = .u → traps .pfault1 2) ∧
    (top = 0 ∨ (top = 1023 ∧ y.level .c ≠ .u) → ea.toNat % size.bytes ≠ 0 → traps .misalign 0)

/-- Scratchpad accesses of C, and the traps of an address in their order. -/
def Obligations.AccessChecks : Prop := Claim.ScratchpadAccessesIssue ∧ Claim.ScratchpadTraps ∧ Claim.AddressTraps

/-! ## What a store, an atomic and a load do when they are performed -/

/-- R182 to R184: a pending write to scratchpad or to base memory, when it is performed: its bytes read as stored, every other byte of
memory reads as before, its element counts as performed, and no register changes. -/
def Claim.StorePerformed : Prop :=
  ∀ (s : State) (a : Access) (i : Nat) (x : Elem), Inv s → Performable s a i x → x.write = true → x.poison = false →
    (a.kind = .store ∨ a.kind = .blockStore ∨ a.kind = .tile) → x.bytes.length = x.len → 0 < x.len → x.len ≤ 64 →
    (∀ core off, x.loc = .sp core off → off + x.len ≤ 0x60000 → ∃ t, exec .accessPerformed s = .next t ∧
      t.readLoc x.loc x.len = x.bytes ∧ t.dram = s.dram ∧ (∀ c j, t.bank c j = s.bank c j) ∧
      ∀ c k, k < 0x60000 → (c ≠ core ∨ k < off ∨ off + x.len ≤ k) → t.readLoc (.sp c k) 1 = s.readLoc (.sp c k) 1) ∧
    (∀ part gpa pa key, x.loc = .mem part 0 gpa pa key → ∃ t, exec .accessPerformed s = .next t ∧
      t.readLoc x.loc x.len = x.bytes ∧ t.cores = s.cores ∧
      ∀ k, (k < pa ∨ pa + x.len ≤ k) → t.dram.read k = s.dram.read k)

/-- R197: an integer atomic on base memory, when it is performed: the bytes read are kept for d, and memory holds the new value; a
failing AMOCAS leaves memory as it was; every other byte reads as before. -/
def Claim.AtomicPerformed : Prop :=
  ∀ (s : State) (a : Access) (i : Nat) (x : Elem) (op : AmoOp) (d : CReg) (size : Size) (y z : Word) (part gpa pa key : Nat),
    Inv s → Performable s a i x → a.kind = .amo op d size y z → op ≠ .fadd → x.loc = .mem part 0 gpa pa key → x.len = size.bytes →
    (s.lineMeta pa).poison = false →
    let n := size.bytes
    let old := leNat (s.dram.readBytes pa n)
    ∃ t, exec .accessPerformed s = .next t ∧
      leNat (t.dram.readBytes pa n) = (amoRule op n old (y.toNat % 2 ^ (8 * n)) (z.toNat % 2 ^ (8 * n))).getD old ∧
      (∀ k, (k < pa ∨ pa + n ≤ k) → t.dram.read k = s.dram.read k) ∧ t.cores = s.cores ∧
      (∃ a', t.acc.find? (fun o => o.id == a.id) = some a' ∧ (a'.elems[i]?).map (fun e => (e.done, e.bytes)) = some (true, s.dram.readBytes pa n))

/-- R150 and R182: a load of C whose read is performed writes its register: the bytes little-endian, zero-extended, or sign-extended
when X = 1; every other register of the bank, and every other bank, is as before. -/
def Claim.LoadCompletes : Prop :=
  ∀ (s : State) (a : Access) (d : CReg) (size : Size) (sext : Bool) (e : Elem) (b : Bank),
    s.acc.find? (fun o => o.id == s.cur.ev.idx) = some a → a.kind = .load d size sext → a.elems = [e] → e.done = true →
    e.poison = false → e.bytes.length = size.bytes → a.sig = none → 1 ≤ s.cur.ev.quad → s.images = [] →
    s.bank a.core a.seat = some b → b.job = a.job → (∀ c i o, s.bank c i = some o → o.job = a.job → c = a.core ∧ i % 4 = a.seat % 4) →
    ∃ t, exec .accessPerformed s = .next t ∧
      t.bank a.core a.seat = some (b.setC d
        (if sext && decide (2 ^ (8 * size.bytes - 1) ≤ leNat e.bytes) then BitVec.ofInt 64 ((leNat e.bytes : Int) - (2 ^ (8 * size.bytes) : Nat))
         else BitVec.ofNat 64 (leNat e.bytes))) ∧
      (∀ c i, (c ≠ a.core ∨ i % 4 ≠ a.seat % 4) → t.bank c i = s.bank c i) ∧
      (∀ l n, t.readLoc l n = s.readLoc l n)

/-- R144: after a write of scratchpad every part it touches is valid, and no part becomes invalid. -/
def Claim.ScratchpadValidity : Prop :=
  ∀ (s : State) (core off : Nat) (bytes : List Byte), 0 < bytes.length → off + bytes.length ≤ 0x60000 → bytes.length ≤ 64 →
    (∀ k, off ≤ k → k < off + bytes.length → ((s.writeLoc (.sp core off) bytes).core core).valid.getLsbD (k / 4) = true) ∧
    (∀ c p, (s.core c).valid.getLsbD p = true → ((s.writeLoc (.sp core off) bytes).core c).valid.getLsbD p = true)

/-- What a store, an atomic and a load do when they are performed. -/
def Obligations.AccessesPerformed : Prop :=
  Claim.StorePerformed ∧ Claim.AtomicPerformed ∧ Claim.LoadCompletes ∧ Claim.ScratchpadValidity

/-! ## Accesses wait for those that are ordered before them -/

/-- R146, R181, R184, R187, R190, R195: an element of a pending access is not performed, at any scope, while an element that is ordered before it is
not: an earlier element of its stream at an overlapping location, on SO pages both, or to scratchpad both; anything earlier of its
stream, off UO pages, behind an acquire, or when it releases; what an earlier FENCE of its stream orders before it; and what other
streams have shown its releasing stream. The event then changes nothing. That an access counts at its scope by what it has shown is the model's
reading (log entry 43). -/
def Claim.OrderedAccessesWait : Prop :=
  ∀ (s : State) (a o : Access) (x z : Elem), s.acc.find? (fun u => u.id == s.cur.ev.idx) = some a → a.kind ≠ .sigset →
    (∀ k, a.kind ≠ .fence k) → a.elems[s.cur.ev.quad]? = some x → x.seen = 0 → o ∈ s.acc → z ∈ o.elems → z.done = false →
    let mine (u : Access) : Prop := u.job = a.job ∧ u.eng = a.eng ∧ u.id < a.id
    let both (k : OrdKind) : Prop := x.ord = k ∧ z.ord = k
    let other := a.inst = 0 ∨ o.inst ≠ a.inst
    let shut := z.ord ≠ .uo ∧ x.ord ≠ .uo
    (mine o ∧ (z.loc.overlaps z.len x.loc x.len = true ∨ both .so ∨ both .sp) ∨
      mine o ∧ other ∧ shut ∧ (o.acq = true ∧ o.scope ≠ .stream ∨ a.rel = true ∧ z.at a.scope = false) ∨
      (∃ (f : Access) (k : BitVec 4), f ∈ s.acc ∧ mine f ∧ f.kind = .fence k ∧ f.scope ≠ .stream ∧ mine o ∧ o.id < f.id ∧
        (o.elemReads z = true ∧ (x.write = true ∧ k.getLsbD 1 = true ∨ a.elemReads x = true ∧ k.getLsbD 0 = true) ∨
          z.write = true ∧ z.at f.scope = false ∧ (x.write = true ∧ k.getLsbD 3 = true ∨ a.elemReads x = true ∧ k.getLsbD 2 = true))) ∨
      ¬ (o.job = a.job ∧ o.eng = a.eng) ∧ o.showsTo a.core a.seat z = true ∧ z.at a.scope = false ∧ a.rel = true ∧ x.ord ≠ .uo) →
    exec .accessPerformed s = .next s

/-- R111, R112, R115, R187, R195: a signal that waits for the earlier accesses of its stream is not set, a FENCE does not end, and a load block does not
reach its queue, while an earlier access of the stream that it orders is not performed. The signal waits for them at every scope, UO ones too:
the model's reading of R111 (log entry 37). -/
def Claim.MarkersWait : Prop :=
  ∀ (s : State) (a o : Access) (z : Elem), s.acc.find? (fun u => u.id == s.cur.ev.idx) = some a → o ∈ s.acc → o.job = a.job → o.eng = a.eng →
    o.id < a.id → z ∈ o.elems → z.done = false →
    (a.kind = .sigset → exec .accessPerformed s = .next s) ∧
    (∀ k, a.kind = .fence k → a.scope ≠ .stream →
      ((k.getLsbD 0 = true ∨ k.getLsbD 1 = true) ∧ o.elemReads z = true ∨
        (k.getLsbD 2 = true ∨ k.getLsbD 3 = true) ∧ z.write = true ∧ z.at a.scope = false) → exec .accessPerformed s = .next s) ∧
    (∀ q n f at_ b, a.kind = .blockLoad q n f → a.elems[s.cur.ev.quad]? = none → a.elems.all (·.done) = true → z.ord ≠ .uo → z.at .seat = false →
      s.findJob a.job = some (at_, b) → exec .accessPerformed s = .next s.refreshImages)

/-- R182, R183, R185, R186: a store on an RC or UO page is performed for one scope before the others: memory is as it was, and its element is performed
at that scope and at the narrower ones, but not yet at the wider; a store on an SO page is not. The levels are the model's reading of R182
(log entry 43). -/
def Claim.ScopesOfStores : Prop :=
  ∀ (s : State) (a : Access) (x : Elem) (n : Nat) (part m gpa pa key : Nat),
    s.acc.find? (fun u => u.id == s.cur.ev.idx) = some a → a.elems[s.cur.ev.quad]? = some x → (a.kind = .store ∨ a.kind = .blockStore) →
    s.cur.ev.val.toNat = n → 0 < n → n < 6 → x.write = true → x.done = false → x.poison = false → x.loc = .mem part m gpa pa key →
    (x.ord = .so → exec .accessPerformed s = .next s) ∧
    (x.ord ≠ .so → m = 0 → ((a.elems.take s.cur.ev.quad).any fun y => !y.done && y.ordered x) = false →
      (x.seen = 0 → s.mustWait a.core a.seat a.job a.eng a.id a.inst a.release (a.elemReads x) x = false) →
      s.lineTaken a.job a.eng x.loc = false → ∃ t a' x', exec .accessPerformed s = .next t ∧ (∀ l k, t.readLoc l k = s.readLoc l k) ∧
        t.acc.find? (fun u => u.id == s.cur.ev.idx) = some a' ∧ a'.elems[s.cur.ev.quad]? = some x' ∧ x'.done = false ∧
        x'.seen = Nat.max x.seen n ∧ ∀ scope : Scope, x'.at scope = (decide (scope.code ≤ Nat.max x.seen n)))

/-- Accesses wait for those that are ordered before them. -/
def Obligations.AccessOrder : Prop := Claim.OrderedAccessesWait ∧ Claim.MarkersWait ∧ Claim.ScopesOfStores

/-! ## SPALLOC and GATE: the owner and the compartment of scratchpad units -/

/-- R151: SPALLOC gives n units from the one at a to a seat of the issuing VF: they belong to it, are labelled DO, and every part of them is
invalid; other units keep owner, label and valid bits. A bad operand, or a unit that another VF owns, raises ILLEGAL with
TRAPADDR = a. -/
def Claim.ScratchpadAllocation : Prop :=
  ∀ (s : State) (x y : Bank) (a b : CReg), Ready s { lvl := .s, regs := [a, b] } x y →
    let va := y.getC a
    let w := (y.getC b).toNat
    let u0 := va.toNat / 4096
    let n := w % 256
    let c := (s.waited y).core s.cur.core
    let bad := va.toNat % 4096 ≠ 0 ∨ w ≥ 1024 ∨ n = 0 ∨ u0 + n > 96
    let foreign := ∃ i v, i < n ∧ c.owner.find? (u0 + i) = some v ∧ v.2 ≠ y.vf
    let pending := ∃ o ∈ s.acc, o.job = y.job ∧ o.eng = .c ∧ ∃ e ∈ o.elems, ∃ k f, e.loc = .sp k f
    (bad ∨ foreign → exec (.spalloc a b) s = .next (s.stops y { cause := .illegal, addr := va })) ∧
    (¬ bad → ¬ foreign → ¬ pending → ∃ c' : Core,
      exec (.spalloc a b) s = .next (((s.waited y).setCore s.cur.core c').done y .next false) ∧
      (∀ u, c'.owner.find? u = if u0 ≤ u ∧ u < u0 + n then some (w / 256 % 4, y.vf) else c.owner.find? u) ∧
      (∀ u, u < 96 → c'.mo.getLsbD u = (c.mo.getLsbD u && !(decide (u0 ≤ u) && decide (u < u0 + n)))) ∧
      (∀ p, p < 98304 → c'.valid.getLsbD p = (c.valid.getLsbD p && !(decide (1024 * u0 ≤ p) && decide (p < 1024 * (u0 + n))))) ∧
      { c' with owner := c.owner, mo := c.mo, valid := c.valid } = c)

/-- R350, R351, R347: GATE with an entry of its gate table that has crossings left in the stream's direction, of owned units with that label: once
no access of the seat touches them, the units take the other label and one crossing is used. An entry that does not exist raises GATE
with TRAPADDR = b; a bad address ILLEGAL. No other label changes. -/
def Claim.Gates : Prop :=
  ∀ (s : State) (x y : Bank) (a b : CReg), Ready s { regs := [a, b] } x y →
    let s1 := s.waited y
    let core := s.cur.core
    let c := s1.core core
    let av := y.getC a
    let g := (y.getC b).toNat
    let u0 := av.toNat / 4096
    let relabels (e : Gate) (u0 : Nat) (go : Go) : Prop := ∃ c' : Core,
      exec (.gate a b) s = .next ((s1.setCore core c').done { y with gates := y.gates.set g { e with count := e.count - 1 } } go false) ∧
      (∀ u, u < 96 → c'.mo.getLsbD u = if u0 ≤ u ∧ u < u0 + e.units then !e.out else c.mo.getLsbD u) ∧ { c' with mo := c.mo } = c
    (y.gates.length ≤ g → exec (.gate a b) s = .next (s.stops y { cause := .gate, addr := y.getC b })) ∧
    (∀ e n, y.gates[g]? = some e → y.cS.stage = .posted n →
      (s1.gateBusy y u0 e.units n = true → exec (.gate a b) s = .next s1.blockedAt) ∧
      (s1.gateBusy y u0 e.units n = false → relabels e u0 .passed)) ∧
    (∀ e, y.gates[g]? = some e → y.cS.stage = .fresh →
      (y.cS.mo ≠ e.out ∨ e.count = 0 → exec (.gate a b) s = .next (s.stops y { cause := .gate, addr := y.getC b })) ∧
      (y.cS.mo = e.out → 0 < e.count →
        (2 ^ 19 ≤ av.toNat ∨ av.toNat % 4096 ≠ 0 ∨ 96 < u0 + e.units →
          exec (.gate a b) s = .next (s.stops y { cause := .illegal, addr := av })) ∧
        (av.toNat < 2 ^ 19 → av.toNat % 4096 = 0 → u0 + e.units ≤ 96 →
          ((∃ u, u0 ≤ u ∧ u < u0 + e.units ∧
              (c.owner.find? u ≠ some (s.cur.seat, y.vf) ∨ c.sealed u = true ∨ c.mo.getLsbD u ≠ e.out)) →
            exec (.gate a b) s = .next (s.stops y { cause := .gate, addr := av })) ∧
          ((∀ u, u0 ≤ u → u < u0 + e.units →
              c.owner.find? u = some (s.cur.seat, y.vf) ∧ c.sealed u = false ∧ c.mo.getLsbD u = e.out) →
            (s1.gateBusy y u0 e.units s.nextId = false → relabels e u0 .next) ∧
            (s1.gateBusy y u0 e.units s.nextId = true → exec (.gate a b) s = .next (s1.setBank core s.cur.seat
              { s.issueSignal y with cS := { y.cS with stage := .posted s.nextId } }))))))

/-- SPALLOC and GATE: the owner and the compartment of scratchpad units. -/
def Obligations.ScratchpadOwnership : Prop := Claim.ScratchpadAllocation ∧ Claim.Gates

/-! ## Queue pushes, pops and counts -/

/-- R115, R116, R119, R239: a push by a stream that has this end, with room in the queue and its earlier accesses performed: the value joins
the tail; fq stays open to it. A push into a full queue waits, and one whose earlier accesses are not performed. FQCLOSE marks fq closed,
and FQPUT then raises QMISUSE (R233). A push by a stream without this end, or of a queue whose poppers the job has not started, raises
QMISUSE, and so does QPUT of a queue that C does not push; one across compartments raises GATE (R348): TRAPADDR = the queue's code. -/
def Claim.QueuePushes : Prop :=
  ∀ (s : State) (x y : Bank),
    (∀ i q rs v, PutForm i q rs v → Ready s { regs := rs } x y → MayUse y s.cur.eng q true → (y.queue q).length < q.depth →
      (q = .fq → y.fqClosed = false) → (s.waited y).releaseReady y.job s.cur.eng .seat = true →
      exec i s = .next (s.done (y.setQueue q (y.queue q ++ [{ data := (v y).setWidth 2048 }])) .next false)) ∧
    (∀ i q rs v, PutForm i q rs v → Ready s { regs := rs } x y → MayUse y s.cur.eng q true → (q = .fq → y.fqClosed = false) →
      q.depth ≤ (y.queue q).length ∨ (s.waited y).releaseReady y.job s.cur.eng .seat = false → exec i s = .next (s.waited y).blockedAt) ∧
    (∀ i q rs v, PutForm i q rs v → Ready s { regs := rs } x y → (q = .fq → y.fqClosed = false) →
      (s.cur.eng ∉ q.pushers ∨ (∀ o ∈ q.poppers, y.jobStarted o = false) →
        exec i s = .next (s.stops y (trapOf s.cur.eng .qmisuse (BitVec.ofNat 64 q.code)))) ∧
      (s.cur.eng ∈ q.pushers → (∃ o ∈ q.poppers, y.jobStarted o = true) →
        (∃ o ∈ q.poppers, o ≠ s.cur.eng ∧ y.jobStarted o = true ∧ (y.ctl o).mo ≠ (y.ctl s.cur.eng).mo) →
        exec i s = .next (s.stops y (trapOf s.cur.eng .gate (BitVec.ofNat 64 q.code))))) ∧
    (Ready s {} x y → exec .fqclose s = .next (s.done { y with fqClosed := true } .next false)) ∧
    (∀ a, Ready s { regs := [a] } x y → y.fqClosed = true →
      exec (.fqput a) s = .next (s.stops y { cause := .qmisuse, addr := BitVec.ofNat 64 Queue.fq.code })) ∧
    (∀ a q, Ready s { regs := [a] } x y → s.cur.eng = .c → Engine.c ∉ q.pushers →
      exec (.qput a q) s = .next (s.stops y { cause := .qmisuse, addr := BitVec.ofNat 64 q.code }))

/-- R115, R117, R119, R257, R279, R326, R348: a pop takes the head and writes it to its register; BQBR branches on bit 0 of it. A poisoned
head leaves the queue and raises UNCORR with TRAPADDR = the queue's code. On an empty queue, or behind a FENCE that holds later reads
back (R190), nothing happens but the wait. A pop of any other queue, or of one whose pushers the job has not started, raises QMISUSE; a
compartment boundary between the ends GATE. -/
def Claim.QueuePops : Prop :=
  ∀ (s : State) (x y : Bank) (h : QEntry) (t : List QEntry),
    (∀ i e q d, GetForm i e q d → Ready s {} x y → MayUse y e q false →
      (s.acquireReady y.job e = true → y.queue q = h :: t → h.poison = false →
        exec i s = .next (s.done ((y.popTo q t).setS d (h.data.setWidth 64)) .next false)) ∧
      (s.acquireReady y.job e = true → y.queue q = h :: t → h.poison = true →
        exec i s = .next (s.stopsAs y (s.waited (y.popTo q t)) (y.popTo q t)
          { cause := .uncorr, addr := BitVec.ofNat 64 q.code, past := true })) ∧
      (y.queue q = [] ∨ s.acquireReady y.job e = false → exec i s = .next ((s.waited y).blockedAt))) ∧
    (∀ disp, Ready s {} x y → MayUse y s.cur.eng .bq false → s.acquireReady y.job s.cur.eng = true → y.queue .bq = h :: t → h.poison = false →
      exec (.bqbr disp) s = .next (s.done (y.popTo .bq t)
        (.to (if h.data.getLsbD 0 then some ((y.ring s.cur.eng).target (y.ctl s.cur.eng).pc disp) else none)) false)) ∧
    (∀ i e q d, GetForm i e q d → Ready s {} x y → (∀ o ∈ q.pushers, y.jobStarted o = false) →
      exec i s = .next (s.stops y (trapOf e .qmisuse (BitVec.ofNat 64 q.code)))) ∧
    (∀ i e d q, (i = .qget d q ∧ e = .a ∧ q ≠ .ca0 ∨ i = .mqget d q ∧ e = .m ∧ q ≠ .cm0 ∨ i = .dqget d q ∧ e = .d ∧ q ≠ .cd0) → Ready s {} x y →
      exec i s = .next (s.stops y (trapOf e .qmisuse (BitVec.ofNat 64 q.code)))) ∧
    (∀ i e q d, GetForm i e q d → Ready s {} x y → (∃ o ∈ q.pushers, y.jobStarted o = true) →
      (∃ o ∈ q.pushers, o ≠ e ∧ y.jobStarted o = true ∧ (y.ctl o).mo ≠ (y.ctl e).mo) →
      exec i s = .next (s.stops y (trapOf e .gate (BitVec.ofNat 64 q.code))))

/-- R118: QCNT of a queue that the stream pushes or pops gives its number of entries, for fq plus 256 when fq is closed; of any
other queue it raises QMISUSE. -/
def Claim.QueueCount : Prop :=
  ∀ (s : State) (x y : Bank) (d : SReg) (q : Queue), Ready s { regs := d.cregs } x y →
    (s.cur.eng ∈ q.pushers ∨ s.cur.eng ∈ q.poppers →
      exec (.qcnt d q) s = .next (s.done (y.setS d (BitVec.ofNat 64
        ((y.queue q).length + if q = .fq ∧ y.fqClosed = true then 256 else 0))) .next false)) ∧
    (¬ (s.cur.eng ∈ q.pushers ∨ s.cur.eng ∈ q.poppers) →
      exec (.qcnt d q) s = .next (s.stops y (trapOf s.cur.eng .qmisuse (BitVec.ofNat 64 q.code))))

/-- Queue pushes, pops and counts. -/
def Obligations.Queues : Prop := Claim.QueuePushes ∧ Claim.QueuePops ∧ Claim.QueueCount

/-! ## Signals within a seat and between seats, and the tag instructions -/

/-- R111 to R113: SIGSET sets its signal now, or by a marker behind the stream's pending accesses; SIGCLR and SIGWAIT clear it (SIGWAIT only
once it is set, and no FENCE holds later reads back: R190); SIGX sends it, and its delivery sets it in the target seat when that holds a
bank of the same VF, else reports SIGXDROP. A bad target raises ILLEGAL with TRAPADDR = a. -/
def Claim.Signals : Prop :=
  ∀ (s : State) (x y : Bank) (n : Fin 64),
    (Ready s {} x y →
      (s.streamBusy y s.cur.eng = false → exec (.sigset n) s = .next (s.done (y.setSig n) .next false)) ∧
      (s.streamBusy y s.cur.eng = true →
        exec (.sigset n) s = .next ((sigMarker (s.waited y) s.cur.core s.cur.seat y s.cur.eng n).done y .next false)) ∧
      (s.ownSetPending y s.cur.eng n = false →
        exec (.sigclr n) s = .next (s.done (y.clrSig n) .next false) ∧
        (y.sg.getLsbD n = true → (s.waited y).acquireReady y.job s.cur.eng = true →
          exec (.sigwait n) s = .next (s.done (y.clrSig n) .next false))) ∧
      (y.sg.getLsbD n = false ∨ (s.waited y).acquireReady y.job s.cur.eng = false → exec (.sigwait n) s = .next ((s.waited y).blockedAt))) ∧
    (∀ a, Ready s { regs := [a] } x y →
      let t := (y.getC a).toNat
      let ok := t < 2 ^ 13 ∧ s.coreInPart (t / 4) y.part = true ∧ ¬ (t / 4 = s.cur.core ∧ t % 4 = s.cur.seat)
      (ok → (s.waited y).releaseReady y.job .c .system = true →
        exec (.sigx a n) s = .next (State.done { s.waited y with nextId := s.nextId + 1, sigs := s.sigs ++
          [⟨y.vf, y.part, y.job, 4 * s.cur.core + s.cur.seat, y.getC a, n, s.cur.ann.late, s.nextId⟩] } y .next true)) ∧
      (¬ ok → exec (.sigx a n) s = .next (s.stops y { cause := .illegal, addr := y.getC a }))) ∧
    (∀ f, s.sigs[s.cur.ev.idx]? = some f → (s.sigs.take s.cur.ev.idx).all (fun g => g.job != f.job || g.target != f.target) = true →
      f.done = none → f.target.toNat < 2 ^ 13 →
      let c := f.target.toNat / 4
      let i := f.target.toNat % 4
      let s' := { s with sigs := s.sigs.eraseIdx s.cur.ev.idx }
      (∀ o, s.bank c i = some o → o.vf = f.vf → exec .sigxDelivery s = .next (s'.setBank c i (o.setSig f.sig))) ∧
      ((∀ o, s.bank c i = some o → o.vf ≠ f.vf) → exec .sigxDelivery s = .next (s'.reportVf f.vf
        { type := 3, strm := 0, cid := f.part * 128 + f.vf, seat := f.src, a1 := f.target.toNat, detail := f.sig })))

/-- R190, R284: with no FENCE that holds later reads back, TWANY goes on when a named tag is complete (and raises ILLEGAL for an empty set),
TWALL when all are; TFFR gives the lowest complete named tag with its status, or all ones; TCLR clears the named complete tags and their
status. -/
def Claim.TagWaits : Prop :=
  ∀ (s : State) (x y : Bank) (a : SReg),
    (Ready s { regs := a.cregs } x y →
      (y.getS a = 0 → exec (.twany a) s = .next (s.stops y (trapOf s.cur.eng .illegal))) ∧
      (s.acquireReady y.job s.cur.eng = true →
        (y.tagbits &&& y.getS a ≠ 0 → exec (.twany a) s = .next (s.done y .next false)) ∧
        (y.tagbits &&& y.getS a = y.getS a → exec (.twall a) s = .next (s.done y .next false))) ∧
      (y.getS a ≠ 0 → y.tagbits &&& y.getS a = 0 ∨ s.acquireReady y.job s.cur.eng = false →
        exec (.twany a) s = .next ((s.waited y).blockedAt)) ∧
      (y.tagbits &&& y.getS a ≠ y.getS a ∨ s.acquireReady y.job s.cur.eng = false → exec (.twall a) s = .next ((s.waited y).blockedAt)) ∧
      ∃ y', exec (.tclr a) s = .next (s.done y' .next false) ∧ y'.tagbits = y.tagbits &&& ~~~ (y.getS a) ∧
        (∀ t, y'.getStatus t = if (y.tagbits &&& y.getS a).getLsbD t then 0 else y.getStatus t) ∧
        { y' with tagbits := y.tagbits, status := y.status } = y) ∧
    (∀ d, Ready s { regs := d.cregs ++ a.cregs } x y → s.acquireReady y.job s.cur.eng = true →
      (y.tagbits &&& y.getS a = 0 → exec (.tffr d a) s = .next (s.done (y.setS d (BitVec.allOnes 64)) .next false)) ∧
      (∀ t : Fin 64, (y.tagbits &&& y.getS a).getLsbD t = true → (∀ u : Fin 64, u < t → (y.tagbits &&& y.getS a).getLsbD u = false) →
        exec (.tffr d a) s = .next (s.done (y.setS d (BitVec.ofNat 64
          ((y.getStatus t).toNat * 256 + (if y.getStatus t = 0 then 0 else 64) + t.val))) .next false)))

/-- Signals within a seat and between seats, and the tag instructions. -/
def Obligations.SignalInstructions : Prop := Claim.Signals ∧ Claim.TagWaits

/-! ## Groups of streams and their barriers -/

/-- R121: JOIN adds the stream to the group that bits [15:0] of its register name, in its partition, when it is in fewer than four groups
and there is room, and does nothing for a member; LEAVE takes it out, and a group without members is gone. No other group
changes. A fifth group raises ILLEGAL with TRAPADDR = the group. -/
def Claim.GroupMembership : Prop :=
  ∀ (s : State) (x y : Bank) (a : SReg), Ready s { regs := a.cregs } x y →
    let me : StreamId := ⟨y.job, s.cur.eng, 0⟩
    let id := (y.getS a).toNat % 65536
    let p := s.part y.part
    let mine := (p.groups.filter (·.members.contains me)).length
    ((∃ g, p.group? id = some g ∧ me ∈ g.members) → exec (.join a) s = .next (s.done y .next false)) ∧
    (¬ (∃ g, p.group? id = some g ∧ me ∈ g.members) → 4 ≤ mine →
      exec (.join a) s = .next (s.stops y (trapOf s.cur.eng .illegal (BitVec.ofNat 64 id)))) ∧
    (¬ (∃ g, p.group? id = some g ∧ me ∈ g.members) → mine < 4 → p.joinWait = [] →
      (∀ g, p.group? id = some g → g.members.length < 4096) → (p.group? id = none → p.groups.length < 256) →
      ∃ p' : Partition, exec (.join a) s = .next (((s.waited y).setPart y.part p').done y .next false) ∧
        (p'.group? id).map (·.members) = some (((p.group? id).map (·.members)).getD [] ++ [me]) ∧
        (∀ k, k ≠ id → p'.group? k = p.group? k) ∧ { p' with groups := p.groups } = p) ∧
    (∃ p' : Partition, exec (.leave a) s = .next (((s.waited y).setPart y.part p').done y .next false) ∧
      (∀ g ∈ p'.groups, g.id = id → me ∉ g.members) ∧ (∀ g ∈ p'.groups, g.members ≠ []) ∧
      (∀ g, g.id ≠ id → g.members ≠ [] → (g ∈ p'.groups ↔ g ∈ p.groups)) ∧ { p' with groups := p.groups } = p)

/-- R120, R122, R123: GBAR of a member arrives once the stream's earlier accesses are performed; the first arrival of an episode requires every
member; when every required member has arrived, all that have arrived are released (those of other packages go on in theirs) and the
next episode opens; a released stream goes on, unless a FENCE holds its later reads back (R190). GBAR of a group that the
stream is not in raises ILLEGAL. -/
def Claim.Barriers : Prop :=
  ∀ (s : State) (x y : Bank) (a : SReg), Ready s { regs := a.cregs } x y →
    let me : StreamId := ⟨y.job, s.cur.eng, 0⟩
    let id := (y.getS a).toNat % 65536
    let p := s.part y.part
    ((∀ g, p.group? id = some g → me ∉ g.members) →
      exec (.gbar a) s = .next (s.stops y (trapOf s.cur.eng .illegal (BitVec.ofNat 64 id)))) ∧
    (∀ g, p.group? id = some g → me ∈ g.members →
      ((y.ctl s.cur.eng).stage ≠ .second → (s.waited y).releaseReady y.job s.cur.eng .system = true → ∃ p' g', exec (.gbar a) s =
        .next (((s.waited y).setBank s.cur.core s.cur.seat ((s.issueSignal y).setCtl s.cur.eng
          { (s.issueSignal y).ctl s.cur.eng with stage := .second })).setPart y.part p') ∧
        p'.group? id = some g' ∧ g'.members = g.members ∧
        (∀ k, k ≠ id → p'.group? k = p.group? k) ∧
        (let need := if g.isOpen = true then g.required else g.members
         if ∀ m ∈ need, m = me ∨ m ∈ g.arrived then
           g'.episode = g.episode + 1 ∧ g'.arrived = [] ∧ g'.isOpen = false ∧
             (∀ m, m ∈ g'.released ↔ (m ∈ g.released ∧ m ≠ me) ∨ (m.pkg = 0 ∧ (m ∈ g.arrived ∨ m = me)))
         else g'.episode = g.episode ∧ g'.released = g.released.filter (· != me) ∧ g'.isOpen = true ∧ (∀ m, m ∈ g'.arrived ↔ m ∈ g.arrived ∨ m = me))) ∧
      ((y.ctl s.cur.eng).stage = .second → me ∈ g.released → (s.waited y).acquireReady y.job s.cur.eng = true → ∃ p' g', exec (.gbar a) s =
        .next (((s.waited y).setPart y.part p').done y .passed false) ∧ p'.group? id = some g' ∧
        g'.released = g.released.filter (· != me) ∧ { g' with released := g.released } = g) ∧
      ((y.ctl s.cur.eng).stage = .second → me ∉ g.released ∨ (s.waited y).acquireReady y.job s.cur.eng = false → exec (.gbar a) s = .next ((s.waited y).blockedAt)))

/-- Groups of streams and their barriers. -/
def Obligations.Groups : Prop := Claim.GroupMembership ∧ Claim.Barriers

/-! ## RDV, SSTEP and the end of a job -/

/-- R109, R110: RDV, with nothing of the stream pending: the stream leaves its groups and is done; C closes fq. M inside a seam raises
SEAM. -/
def Claim.Rendezvous : Prop :=
  ∀ (s : State) (x y : Bank), Ready s { ctl := true } x y →
    (s.cur.eng = .m → y.seam.isSome = true → exec .rdv s = .next (s.stops y { cause := .seam })) ∧
    ((s.cur.eng = .m → y.seam = none) → s.streamBusy y s.cur.eng = false → (s.waited y).requestsOf s.cur.core y s.cur.eng = false →
      let z := if s.cur.eng = .c then { y with fqClosed := true } else y
      exec .rdv s = .next (((s.waited y).leaveAll y.part ⟨y.job, s.cur.eng, 0⟩).done
        (z.setCtl s.cur.eng { z.ctl s.cur.eng with done := true }) .set false))

/-- R124: SSTEP of a participant: it arrives once its earlier accesses are performed; when every participant of the partition has, all of
them are released, each with its clock base set to the same TIMEBASE, wherever its bank is: live, in a shadow or saved; a released one goes
on, unless a FENCE holds its later reads back (R190). A job that takes no part raises ILLEGAL. -/
def Claim.Supersteps : Prop :=
  ∀ (s : State) (x y : Bank), Ready s {} x y → s.cur.eng = .c →
    let p := s.part y.part
    (y.ssPart = false → exec .sstep s = .next (s.stops y { cause := .illegal })) ∧
    (y.ssPart = true → y.cS.stage = .second → y.job ∈ p.ssReleased → (s.waited y).acquireReady y.job .c = true → exec .sstep s =
      .next (((s.waited y).setPart y.part { p with ssReleased := p.ssReleased.filter (· != y.job) }).done y .passed false)) ∧
    (y.ssPart = true → y.cS.stage = .second → y.job ∉ p.ssReleased ∨ (s.waited y).acquireReady y.job .c = false → exec .sstep s = .next (s.waited y).blockedAt) ∧
    (y.ssPart = true → y.cS.stage ≠ .second → (s.waited y).releaseReady y.job .c .system = true →
      let z := s.issueSignal y
      let s1 := s.setBank s.cur.core s.cur.seat { z with cS := { z.cS with stage := .second } }
      ∃ t, exec .sstep s = .next t ∧
        (let arrived := if y.job ∈ p.ssArrived then p.ssArrived else p.ssArrived ++ [y.job]
         let all := ∀ j ∈ s1.participants y.part, j ∈ arrived
         (¬ (all ∧ (p.pkgCount ≤ 1 ∨ p.ssRemote = true)) → (t.part y.part).ssArrived = arrived) ∧
         (all ∧ (p.pkgCount ≤ 1 ∨ p.ssRemote = true) → (t.part y.part).ssArrived = [] ∧
           (∀ j, j ∈ (t.part y.part).ssReleased ↔ (j ∈ p.ssReleased ∧ j ≠ y.job) ∨ j ∈ arrived) ∧
           (∀ b, t.bank s.cur.core s.cur.seat = some b → b.t0 = some s.timebase) ∧
           ∀ o ∈ t.allBanks, o.2.part = y.part → o.2.ssPart = true → o.2.t0 = some s.timebase)))

/-- R14, R110: a job all of whose streams are done, or that its handler has ended, with nothing of it left, retires: its seat is empty, or
its loaded shadow bank goes live. -/
def Claim.JobRetirement : Prop :=
  ∀ (s : State) (b : Bank), s.bank s.cur.core s.cur.seat = some b →
    let shadow := ((s.core s.cur.core).seat s.cur.seat).shadow
    (s.mayRetire s.cur.core s.cur.seat b = false → exec .jobRetire s = .next s) ∧
    (s.mayRetire s.cur.core s.cur.seat b = true → ∃ t, exec .jobRetire s = .next t ∧
      ((∀ n, shadow ≠ .loaded n) → t.bank s.cur.core s.cur.seat = none) ∧
      (∀ n, shadow = .loaded n → b.steals = [] → n.job ∉ (s.part b.part).ssArrived → ∃ n', t.bank s.cur.core s.cur.seat = some n' ∧
        sameRegs n' n ∧ n'.job = n.job ∧ n'.cS.pc = n.cS.pc ∧ ((t.core s.cur.core).seat s.cur.seat).shadow = .empty)) ∧
    (s.mayRetire s.cur.core s.cur.seat b = true → (∀ e, (b.ctl e).started = true → (b.ctl e).done = false → b.ended = true) ∧
      (b.handling = false ∧ b.handler = false ∨ b.handler = true ∧ b.cS.done = true) ∧ b.stopped = false ∧ (∀ a ∈ s.acc, a.job ≠ b.job) ∧ (∀ r ∈ s.copies, r.job ≠ b.job))

/-- RDV, SSTEP and the end of a job. -/
def Obligations.StreamsEnd : Prop := Claim.Rendezvous ∧ Claim.Supersteps ∧ Claim.JobRetirement

/-! ## Ranges and steals, ticks and deadlines -/

/-- R125 to R127: RNEXT takes up to a entries of the range, or answers all ones when it is empty, and serves the oldest request first,
giving away the upper half of a range of two or more; RSTEAL from an empty seat or another VF's job answers an empty range, else
leaves its request with the victim, marked when C issues it in its handler; TICKWAIT goes on from tick a on. -/
def Claim.RangesAndTicks : Prop :=
  ∀ (s : State) (x y : Bank),
    (∀ ann d a, (encode .c ann (.rnext d a)).toNat % 2 ^ 48 = 0x73 * 2 ^ 40 + d.code * 2 ^ 34 + a.code * 2 ^ 28) ∧
    (∀ d a, Ready s { regs := [d, a] } x y → y.steals = [] →
      exec (.rnext d a) s = .next (s.done
        (if y.rhi.toNat ≤ y.rlo.toNat then y.setC d (BitVec.allOnes 64)
         else { y.setC d y.rlo with rlo := BitVec.ofNat 64 (Nat.min (y.rlo.toNat + Nat.max (y.getC a).toNat 1) y.rhi.toNat) }) .next false)) ∧
    (∀ d a j h js, Ready s { regs := [d, a] } x y → y.steals = (j, h) :: js → y.rlo.toNat + 2 ≤ y.rhi.toNat →
      let mid := y.rlo.toNat + (y.rhi.toNat - y.rlo.toNat + 1) / 2
      exec (.rnext d a) s = .next (((s.waited y).mapJob j (·.stealAnswer h (BitVec.ofNat 64 mid) y.rhi)).done
        { y.setC d y.rlo with steals := js, rhi := BitVec.ofNat 64 mid,
                              rlo := BitVec.ofNat 64 (Nat.min (y.rlo.toNat + Nat.max (y.getC a).toNat 1) mid) } .next false)) ∧
    (∀ d a j h js, Ready s { regs := [d, a] } x y → y.steals = (j, h) :: js → y.rhi.toNat < y.rlo.toNat + 2 →
      exec (.rnext d a) s = .next (((s.waited y).mapJob j (·.stealAnswer h 0 0)).done
        (if y.rhi.toNat ≤ y.rlo.toNat then { y.setC d (BitVec.allOnes 64) with steals := js }
         else { y.setC d y.rlo with steals := js, rlo := y.rhi }) .next false)) ∧
    (∀ a, Ready s { regs := [a] } x y →
      let t := (y.getC a).toNat
      let ok := t < 2 ^ 13 ∧ t / 4 / 16 = s.cur.core / 16 ∧ ¬ (t / 4 = s.cur.core ∧ t % 4 = s.cur.seat)
      (∀ v, y.cS.stage = .answered v → exec (.rsteal a) s = .next (s.done y .passed false)) ∧
      ((∀ v, y.cS.stage ≠ .answered v) →
        (¬ ok → exec (.rsteal a) s = .next (s.stops y { cause := .illegal, addr := y.getC a })) ∧
        (ok → (∀ o, (s.waited y).bank (t / 4) (t % 4) = some o → o.vf ≠ y.vf) →
          exec (.rsteal a) s = .next (s.done { y with rlo := 0, rhi := 0, wfe := true } .next false)) ∧
        (∀ o, ok → (s.waited y).bank (t / 4) (t % 4) = some o → o.vf = y.vf → (y.job, y.handler) ∉ o.steals →
          exec (.rsteal a) s = .next ((s.setBank s.cur.core s.cur.seat (s.issueSignal y)).setBank (t / 4) (t % 4)
            { o with steals := o.steals ++ [(y.job, y.handler)] })))) ∧
    (∀ a, Ready s { regs := [a] } x y → (y.getC a).toNat ≤ (s.part y.part).tickno →
      exec (.tickwait a) s = .next (s.done y .next false))

/-- R127, R343: TICK_EDGE of a valid partition: TICKNO rises by one, the next edge is TICKPER later, TIMEBASE has reached the edge, and the event
latch of every live bank of the partition is set. With no deadline due, no byte of memory changes. -/
def Claim.TickEdges : Prop :=
  ∀ (s : State), let k := s.cur.ev.part
    let p := s.part k
    (p.valid = false → exec .tickEdge s = .next s) ∧
    (p.valid = true → ∃ t, exec .tickEdge s = .next t ∧ (t.part k).tickno = p.tickno + 1 ∧ (t.part k).nextEdge = p.nextEdge + p.tickper ∧
      t.timebase = Nat.max s.timebase p.nextEdge ∧ (∀ c i b, t.bank c i = some b → b.part = k → b.wfe = true) ∧
      ((∀ x ∈ s.allBanks, x.2.info.deadTick = 0) → (∀ l ∈ s.launches, l.info.deadTick = 0) → ∀ l n, t.readLoc l n = s.readLoc l n))

/-- R376: a job whose deadline tick comes gets one DEADLINE report, to the mailbox of its VF, whose MSI-X vector 2 fires
(R363), and is not disturbed. -/
def Claim.Deadlines : Prop :=
  ∀ (s : State) (b : Bank) (pl : Place), let k := s.cur.ev.part
    let n := (s.part k).tickno + 1
    (s.part k).valid = true → s.allBanks = [(pl, b)] → s.launches = [] → b.part = k → b.info.deadTick ≠ 0 → b.info.deadTick ≤ n →
    let wake (o : Bank) : Bank := if o.part = k then { o with wfe := true } else o
    let s1 := { s with timebase := Nat.max s.timebase (s.part k).nextEdge }.setPart k
      { s.part k with tickno := n, nextEdge := (s.part k).nextEdge + (s.part k).tickper }
    let s2 : State := { s1 with
      cores := s1.cores.map fun (i, c) => (i, { c with seats := c.seats.map fun t => { t with live := t.live.map wake } }) }
    let rep : Report := { type := 8, cid := k * 128 + b.vf, a1 := b.info.pktId.toNat, a2 := b.info.deadTick,
                          detail := b.info.die * 4096 + b.info.queue }
    exec .tickEdge s = .next (if b.info.deadDone = true then s2
      else ((s2.reportVf b.vf rep).fireVf b.vf 2).mapJob b.job fun o => { o with info := { o.info with deadDone := true } })

/-- Ranges and steals, ticks and deadlines. -/
def Obligations.RangesTicksDeadlines : Prop := Claim.RangesAndTicks ∧ Claim.TickEdges ∧ Claim.Deadlines

/-! ## Postmark registers, probes and allocation -/

/-- R160, R162, R174, R179: PMSET, PMGET and PMPROBE: the stream's PM register, and the state of a postmark value with its cells. A value
of 2^16 or more raises ILLEGAL with TRAPADDR = the value. -/
def Claim.PostmarkRegisters : Prop :=
  ∀ (s : State) (x y : Bank),
    (∀ a, Ready s { regs := a.cregs } x y →
      ((y.getS a).toNat < 65536 → exec (.pmset a) s = .next (s.done (y.setPm s.cur.eng ((y.getS a).setWidth 16)) .next false)) ∧
      (65536 ≤ (y.getS a).toNat → exec (.pmset a) s = .next (s.stops y (trapOf s.cur.eng .illegal (y.getS a))))) ∧
    (∀ d, Ready s { regs := d.cregs } x y →
      exec (.pmget d) s = .next (s.done (y.setS d (BitVec.ofNat 64 (y.pm s.cur.eng).toNat)) .next false)) ∧
    (∀ d a, Ready s { regs := [d, a] } x y →
      let m := (y.getC a).toNat
      let p := s.part y.part
      let state := if m = 0 then 3 else if p.pm.find? m = none then 0 else if p.pm.find? m = some (.live y.vf) then 1 else 2
      (65536 ≤ m → exec (.pmprobe d a) s = .next (s.stops y { cause := .illegal, addr := y.getC a })) ∧
      (m < 65536 → exec (.pmprobe d a) s = .next (s.done (y.setC d (BitVec.ofNat 64
        ((if state = 1 then Nat.min (p.cells.filter (·.m == m)).length 0xFFFFFF else 0) * 2 ^ 40 + p.live % 8192 * 2 ^ 24
          + p.pmtags % 8192 * 2 ^ 8 + state))) .next false)))

/-- R164, R175: PMALLOC takes its place at the franking unit and is answered by PM_ALLOCATE, in order of arrival, while fewer than PMTAGS
postmarks are live: the first value that is not live from NEXT on, cyclically over 1 to 65535, becomes live for the VF, and NEXT
is the value after it; PMALLOC then writes it to d. -/
def Claim.PostmarkAllocation : Prop :=
  ∀ (s : State),
    (∀ x y d, Ready s { regs := [d] } x y →
      (∀ v, y.cS.stage = .answered v → exec (.pmalloc d) s = .next (s.done (y.setC d v) .next false)) ∧
      ((∀ v, y.cS.stage ≠ .answered v) → ((s.part y.part).pmReqs.any (·.1 == y.job)) = false →
        exec (.pmalloc d) s = .next ((s.waited y).setPart y.part
          { s.part y.part with pmReqs := (s.part y.part).pmReqs ++ [(y.job, y.vf)] }).blockedAt)) ∧
    (∀ job vf rs n, let p := s.part s.cur.ev.part
      p.pmReqs = (job, vf) :: rs → p.live < p.pmtags → 1 ≤ p.pmNext → p.pmNext ≤ 65535 → n < 65535 →
      (∀ k, k < n → p.isLive ((p.pmNext - 1 + k) % 65535 + 1) = true) → p.isLive ((p.pmNext - 1 + n) % 65535 + 1) = false →
      let v := (p.pmNext - 1 + n) % 65535 + 1
      exec .pmAllocate s = .next ((s.setPart s.cur.ev.part
        { p with pm := p.pm.put v (.live vf), pmNext := v % 65535 + 1, pmReqs := rs }).mapJob job fun b =>
          { b with cS := { b.cS with stage := .answered (BitVec.ofNat 64 v) } })) ∧
    (∀ p : Partition, p.pmtags ≤ p.live → p.pmReqs ≠ [] → s.part s.cur.ev.part = p → exec .pmAllocate s = .next s)

/-- Postmark registers, probes and allocation. -/
def Obligations.Postmarks : Prop := Claim.PostmarkRegisters ∧ Claim.PostmarkAllocation

/-! ## Retirement of postmarks, and the lines of the pool -/

/-- R165, R170, R176, R187: PMRET and PMRETW of a live postmark of the VF, with C's accesses and what happens-before them performed at the
retirement's scope and every access under it performed: the postmark is dead, its cells are gone, writes stalled under it are withdrawn;
before that they wait. PMRETW goes on only when its lines are back in the pool. A value
that is not live for the VF raises PMDEAD, 0 or one of 2^16 or more ILLEGAL. -/
def Claim.PostmarkRetire : Prop :=
  (∀ (s : State) (x y : Bank) (a : CReg) (sc : Scope), Ready s { regs := [a] } x y →
    let m := (y.getC a).toNat
    let p := s.part y.part
    let quiet := (s.waited y).retireReady y sc = true ∧ s.pmInFlight y.part m = false
    (∀ i, i = .pmret a sc ∨ (i = .pmretw a sc ∧ y.cS.stage ≠ .second) →
      (m = 0 ∨ 65536 ≤ m → exec i s = .next (s.stops y { cause := .illegal, addr := y.getC a })) ∧
      (0 < m → m < 65536 → p.pm.find? m ≠ some (.live y.vf) → exec i s = .next (s.stops y { cause := .pmdead, addr := y.getC a })) ∧
      (0 < m → m < 65536 → p.pm.find? m = some (.live y.vf) → ¬ quiet → exec i s = .next (s.waited y).blockedAt)) ∧
    (∀ o ∈ s.acc, o.job = y.job → o.eng = .c → ∀ z ∈ o.elems, z.at sc = false → ¬ quiet) ∧
    (0 < m → m < 65536 → p.pm.find? m = some (.live y.vf) → quiet →
      exec (.pmret a sc) s = .next (((s.waited y).setPart y.part (p.retire m)).done y .next false) ∧
      (y.cS.stage ≠ .second → (∀ l ∈ (p.retire m).returning, l.1 ≠ m) →
        exec (.pmretw a sc) s = .next (((s.waited y).setPart y.part (p.retire m)).done y .next false)) ∧
      (y.cS.stage ≠ .second → (∃ l ∈ (p.retire m).returning, l.1 = m) →
        exec (.pmretw a sc) s = .next (((s.waited y).setPart y.part (p.retire m)).setBank s.cur.core s.cur.seat
          ((s.issueSignal y).setCtl .c { y.cS with stage := .second })))) ∧
    (y.cS.stage = .second →
      ((∀ l ∈ p.returning, l.1 ≠ m) → exec (.pmretw a sc) s = .next (s.done y .passed false)) ∧
      ((∃ l ∈ p.returning, l.1 = m) → exec (.pmretw a sc) s = .next ((s.waited y).blockedAt)))) ∧
  ∀ (p : Partition) (m : Nat), 0 < m →
    (p.retire m).pm.find? m = some .dead ∧ (∀ k, k ≠ m → (p.retire m).pm.find? k = p.pm.find? k) ∧
    (∀ c, c ∈ (p.retire m).cells ↔ c ∈ p.cells ∧ c.m ≠ m) ∧ (∀ w, w ∈ (p.retire m).poolWait ↔ w ∈ p.poolWait ∧ w.m ≠ m) ∧
    (∀ c ∈ p.cells, c.m = m → (m, c.line) ∈ (p.retire m).returning)

/-- R166, R167, R169, R171: a line that is back in the pool goes to the oldest stalled write, or is free; a write that has a line, or whose
line of memory has a cell, or a line given to another write of it, is not stalled. PMPOOL gives up a stalled write: in C and A its stream traps with
the write's address, in A with PROG = the blocks requested, and the write loses its place; in D its copy stops with status PMPOOL. -/
def Claim.PoolLines : Prop :=
  ∀ (s : State), let p := s.part s.cur.ev.part
    (∀ m line, p.returning[s.cur.ev.idx]? = some (m, line) → ∃ p' : Partition, exec .poolLineReturn s = .next (s.setPart s.cur.ev.part p') ∧
      p'.returning = p.returning.eraseIdx s.cur.ev.idx ∧
      ((∀ w ∈ p.poolWait, p.stalled w = false) → p'.freeLines = p.freeLines ++ [line] ∧ p'.poolWait = p.poolWait) ∧
      (∀ l w r, p.poolWait = l ++ w :: r → (∀ v ∈ l, p.stalled v = false) → p.stalled w = true →
        p'.freeLines = p.freeLines ∧ p'.poolWait = l ++ { w with granted := some line } :: r)) ∧
    (∀ w core seat b, p.poolWait[s.cur.ev.idx]? = some w → w.lim ≠ 0 → p.stalled w = true → w.eng = .c →
      s.findJob w.job = some (.live core seat, b) → b.cS.trapped = false → b.stopped = false → b.frozen = none → b.canDivert = false →
      exec .pmpool s = .next ((s.dropStale w.job .c).raise core seat b .c (b.trapRec .c { cause := .pmpool, addr := w.va } b.cS.wclr))) ∧
    (∀ w core seat b i, p.poolWait[s.cur.ev.idx]? = some w → w.lim ≠ 0 → p.stalled w = true → w.eng = .a →
      s.findJob w.job = some (.live core seat, b) → b.aS.trapped = false → b.stopped = false → b.frozen = none → b.ainst = some i →
      exec .pmpool s = .next ((s.dropStale w.job .a).raise core seat b .a
        (b.trapRec .a { cause := .pmpool, addr := w.va, prog := i.prog } i.clr))) ∧
    (∀ w r l₁ l₂, p.poolWait[s.cur.ev.idx]? = some w → w.lim ≠ 0 → p.stalled w = true → w.eng = .d →
      let writes (q : CopyReq) : Prop := q.job = w.job ∧ q.finished = false ∧ q.out.1 = 0 ∧ q.out.2.1 ≤ w.va.toNat ∧
        w.va.toNat < q.out.2.1 + q.out.2.2
      s.copies = l₁ ++ r :: l₂ → (∀ q ∈ l₁, ¬ writes q) → writes r → exec .pmpool s = .next (s.copyStop r 3)) ∧
    (∀ q : Partition, ∀ w, q.stalled w = true ↔ w.granted = none ∧ q.cell w.m w.gpa = none ∧
      ∀ v ∈ q.poolWait, v.m = w.m → v.gpa = w.gpa → v.granted = none)

/-- Retirement of postmarks, and the lines of the pool. -/
def Obligations.PostmarkLines : Prop := Claim.PostmarkRetire ∧ Claim.PoolLines

/-! ## Scalar arithmetic and branches of A, V, M and D -/

/-- R152, R223, R257, R279: the scalar instructions of A, V, M and D write their result, modulo 2^64, and nothing else. -/
def Claim.ScalarResults : Prop :=
  ∀ i d f, ScalarOp i d f → ∀ (s : State) (x y : Bank), Ready s {} x y →
    exec i s = .next (s.done (y.setS d (BitVec.ofInt 64 (f y))) .next false)

/-- R28, R153, R208, R224, R257, R279: the branches of A, V, M and D: a loop branch takes 1 from its counter unless it is 0, and is taken while
the counter is then not 0; a taken branch goes to ring_target of its own position. -/
def Claim.StreamBranches : Prop :=
  ∀ i e disp ctr taken, HopForm i e disp ctr taken → ∀ (s : State) (x y : Bank), s.cur.eng = e → Ready s {} x y →
    exec i s = .next (s.done (match ctr with | some r => y.setS r (BitVec.ofNat 64 ((y.getS r).toNat - 1)) | none => y)
      (.to (if taken y then some ((y.ring e).target (y.ctl e).pc disp) else none)) false)

/-- Scalar arithmetic and branches of A, V, M and D. -/
def Obligations.EngineScalars : Prop := Claim.ScalarResults ∧ Claim.StreamBranches

/-! ## Streaming instructions of A and their blocks -/

/-- R154, R155, R157, R178: a streaming instruction that passes its checks reads its operands and begins, with a release or not; one of no
blocks ends at once; one whose last block is requested ends, and its signal of kind 01 has been set at its issue. APF is only a
hint: it may leave translations and lines, and changes nothing else. -/
def Claim.StreamingIssues : Prop :=
  ∀ (s : State) (x y : Bank), Ready s {} x y → s.cur.eng = .a →
    (∀ i k o count, StreamForm i k → StreamOk y k o count → y.ainst = none →
      (count = 0 → exec (i o) s = .next (s.done y .next false)) ∧
      (0 < count → exec (i o) s = .next ({ s with nextId := s.nextId + 1 }.setBank s.cur.core s.cur.seat
        { s.issueSignal y with ainst := some ({
            kind := k, queue := o.queue, base := y.getX o.base, aux := y.getX o.aux, size := o.size, count := count,
            pm := if k = AKind.apmld then BitVec.ofNat 16 (y.getX o.aux).toNat else y.pmA, acq := o.acq, rel := o.rel, scope := o.scope, id := s.nextId,
            clr := s.cur.ann.wait.isClr, sig := s.cur.ann.late } : AInst) }))) ∧
    (∀ i k o a, StreamForm i k → y.ainst = some a → a.count ≤ a.prog →
      exec (i o) s = .next (s.done { y with ainst := none } .passed a.sig.isNone)) ∧
    (∀ base size mode count, ∃ s1, Looked (s.waited y) s1 ∧ exec (.apf base size mode count) s = .next (s1.done y .next false))

/-- R155, R158: STREAM_BLOCK_REQUEST: when every element of the next block passes its checks, the block is on its way: a load's when its
queue, or the 32 blocks of the landing buffer, has room; a store's with the head of va0, which leaves the queue, unless a FENCE holds the pop
back (R190). PROG rises by one. -/
def Claim.BlockRequests : Prop :=
  ∀ (s s1 : State) (b : Bank) (a : AInst) (ts : List Target), s.bank s.cur.core s.cur.seat = some b → b.ainst = some a →
    b.mayRun .a = true → a.prog < a.count → b.aS.scrub = none → (a.prog = 0 → a.rel = true → State.releaseReady { s with cur := { s.cur with eng := .a } } b.job .a a.scope = true) →
    s.requestFree s.cur.core = true →
    ts.length = 256 / a.size.bytes → BlockSteps a b s.cur.core 0 { s with cur := { s.cur with eng := .a } } ts s1 →
    let b' := { b with ainst := some { a with prog := a.prog + 1, sig := if a.prog + 1 = a.count then none else a.sig } }
    (a.kind.isStore = false → s.blockRoom b a.queue = true → ∃ t o, exec .streamBlockRequest s = .next t ∧ t.acc = s.acc ++ [o] ∧
      o.elems = ts.map (fun g => plainElem g.loc a.size.bytes g.ord false []) ∧ o.job = b.job ∧ o.eng = .a ∧ o.inst = a.id ∧
      (∃ f, o.kind = .blockLoad a.queue a.size f) ∧ (o.acq, o.rel, o.scope) = (a.acq, a.rel, a.scope) ∧
      o.sig = (if a.prog + 1 = a.count then a.sig else none) ∧ t.bank s.cur.core s.cur.seat = some b' ∧ t.dram = s.dram) ∧
    (∀ q qs, a.kind.isStore = true → s.acquireAt b.job .a a.id = true → b.queue .va0 = q :: qs → q.poison = false →
      ∃ t o, exec .streamBlockRequest s = .next t ∧ t.acc = s.acc ++ [o] ∧ o.kind = .blockStore ∧
      o.elems = ts.mapIdx (fun j g =>
        plainElem g.loc a.size.bytes g.ord true (((leBytes q.data.toNat 256).drop (a.size.bytes * j)).take a.size.bytes)) ∧
      o.job = b.job ∧ o.eng = .a ∧ o.inst = a.id ∧ (o.acq, o.rel, o.scope) = (a.acq, a.rel, a.scope) ∧
      t.bank s.cur.core s.cur.seat = some (b'.popTo .va0 qs) ∧ t.dram = s.dram)

/-- Streaming instructions of A and their blocks. -/
def Obligations.Streaming : Prop := Claim.StreamingIssues ∧ Claim.BlockRequests

/-! ## Copy-engine requests are accepted and completed -/

/-- R280, R285 to R299: a copy, fill, gather, adapter hint, block-table request or transfer whose register values it accepts, with its tag
free and room in the engine, is accepted: TAGBITS and STATUS of its tag become 0 and the request stands in the engine with what
the registers held. Nothing is copied yet. One that must wait has made its checks, which are not made again. -/
def Claim.CopiesIssue : Prop :=
  ∀ i k, CopyForm i k → ∀ (s : State) (x y : Bank) (o : DcArgs), Ready s {} x y → s.cur.eng = .d →
    (y.dS.stage ≠ .checked → CopyAccepts (s.waited y) y k o) →
    (y.dS.stage = .checked → ¬ CopyRoom (s.waited y) y k o → exec (i o) s = .next (s.waited y).blockedAt) ∧
    (y.dS.stage ≠ .checked → ¬ CopyRoom (s.waited y) y k o →
      exec (i o) s = .next (s.setBank s.cur.core s.cur.seat { y with dS := { y.dS with stage := .checked } }).blockedAt) ∧
    (CopyRoom (s.waited y) y k o → ∃ r : CopyReq, exec (i o) s = .next (State.done { s.waited y with nextId := s.nextId + 1, copies := s.copies ++ [r] }
        { y with tagbits := y.tagbits &&& ~~~ (bit64 o.tag), status := y.status.put o.tag 0,
                 hints := y.hints + if k = .dpfa then (y.getD o.len).toNat % 2 ^ 32 else 0 } .next false) ∧
      r.id = s.nextId ∧ r.job = y.job ∧ r.kind = k ∧ r.tag = o.tag ∧ (r.dst, r.src, r.len) = (y.getD o.dst, y.getD o.src, y.getD o.len) ∧
      r.aux = y.getD (o.src + 1) ∧ (r.acq, r.rel, r.scope, r.ep) = (o.acq, o.rel, o.scope, o.ep.val) ∧ r.pm = y.pmD ∧ r.done = 0 ∧
      r.read = [] ∧ (k ≠ .dxfer → k ≠ .dcoll → r.status = none))

/-- R187, R191, R280, R281, R283: COPY_COMPLETE of a finished request whose release, if it has one, may take place: its STATUS is the first
that was not OK, or the one it stopped with, or OK (the first in time is the model's reading: log entry 28); then its TAGBITS bit is set, in
the bank wherever the bank is; and the request is gone. -/
def Claim.CopyCompletes : Prop :=
  ∀ (s : State) (r : CopyReq) (b : Bank), s.copies.find? (·.id == s.cur.ev.idx) = some r → r.finished = true → s.tagReady r = true → s.images = [] →
    s.bank r.core r.seat = some b → b.job = r.job → ∃ t b', exec .copyComplete s = .next t ∧ t.bank r.core r.seat = some b' ∧
      t.copies = s.copies.filter (·.id != r.id) ∧ b'.tagbits.getLsbD r.tag = true ∧
      b'.getStatus r.tag = BitVec.ofNat 8 (if r.note ≠ 0 then r.note else r.status.getD 0) ∧
      (∀ n : Fin 64, n ≠ r.tag → b'.tagbits.getLsbD n = b.tagbits.getLsbD n ∧ b'.getStatus n = b.getStatus n) ∧
      { b' with tagbits := b.tagbits, status := b.status, wfe := b.wfe } = b ∧ (∀ l n, t.readLoc l n = s.readLoc l n)

/-- Copy-engine requests are accepted and completed. -/
def Obligations.Copies : Prop := Claim.CopiesIssue ∧ Claim.CopyCompletes

/-! ## What copies read and write -/

/-- R159, R192, R282, R287: an action of a request that may act, with room among its core's requests, reads a part of its destination, or
one byte of a part that is not whole: the bytes come from the request's source (`CopySources`) and stand with the request until they are
written. -/
def Claim.CopyPartRead : Prop :=
  ∀ (s s1 : State) (r r1 : CopyReq) (i j : Nat) (bytes : List Byte) (p : Bool), CopyActs s r → r.stage ≠ 0 → r.out.1 ≠ 3 → r1.out.1 ≠ 3 → j < 8 →
    i < r.total → r.done.testBit i = false → r.partRead i = none → s.requestFree r.core = true →
    let x := if r.byteWise i = true then j else 0
    let n := if r.byteWise i = true then 1 else (r.partAt i).2
    x < (r.partAt i).2 → r.read.find? (8 * i + x) = none →
    s.copySource r (some (r.unitOf i)) ((r.partAt i).1 + x) n = .ok s1 r1 bytes p →
    s.copyStep r.id (8 * i + j) =
      s1.setCopy { (if p = true then r1.noted 9 else r1) with refused := none, read := r1.read.put (8 * i + x) (bytes, p) }

/-- R285, R287, R288, R289, R290, R295: where the bytes at offset o of a destination come from: DCOPY from scratchpad: offset o of the source
range; DCOPY from memory: the bytes at the address src + o; a compressed DCOPY and DBTR: offset o of the bytes expanded, or held;
DFILL: the byte of its 8-byte pattern at the address modulo 8; DGATH: row o / RB, which lies RB times its signed 32-bit index, read
at aux + 4 × row, from src; in the window the row's own address names its core. A row outside the scratchpads of its space, or in units that
the seat or VF does not own, ends the request with status 4 (for the units that is the model's choice: log entry 131). -/
def Claim.CopySources : Prop :=
  ∀ (s : State) (r : CopyReq) (u : Option Nat) (o n : Nat),
    let rb := r.len.toNat / 2 ^ 32 % 2 ^ 15
    let ssp := lenSsp r.len
    let place : Int := (r.src.toNat : Int) + ((r.idx.get (o / rb) 0).toInt * rb)
    let at_ := place.toNat
    let core := if ssp = 2 then r.core / 16 * 16 + at_ / 2 ^ 19 % 16 else r.core
    let owned : Prop := ∃ g b, s.findJob r.job = some (g, b) ∧
      s.rangeCond b r.lvl r.mo core (if ssp = 2 then none else some r.seat) (at_ % 2 ^ 19) rb ≠ .illegal ∧
      s.rangeCond b r.lvl r.mo core (if ssp = 2 then none else some r.seat) (at_ % 2 ^ 19) rb ≠ .gate
    let inside : Prop := 0 ≤ place ∧ at_ < 2 ^ (if ssp = 2 then 23 else 19) ∧ at_ % 2 ^ 19 + rb ≤ 0x60000 ∧ owned
    (r.kind = .dcopy → r.comp = none → lenSsp r.len = 1 → (r.src + BitVec.ofNat 64 o).toNat < 2 ^ 19 →
      SpFine s r.core (r.src + BitVec.ofNat 64 o).toNat n →
      s.copySource r u o n = .ok s r (s.readLoc (.sp r.core (r.src + BitVec.ofNat 64 o).toNat) n) false) ∧
    (∀ t s1, r.kind = .dcopy → r.comp = none → lenSsp r.len = 0 → 0 < n → (r.src + BitVec.ofNat 64 o).toNat % 8 + n ≤ 8 →
      s.checkVa r.ctx (r.src + BitVec.ofNat 64 o) 1 r.pm.toNat { write := false, writes := false, ringFill := r.ring, carry := true }
        = (.ok t, s1) →
      s.copySource r none o n = .ok s1 r (s1.view r.core r.seat t.loc n) (s1.locPoison t.loc n)) ∧
    (∀ b f p, r.kind = .dcopy → r.comp = some (b, f, p) → p ≠ 3 → o + n ≤ r.exp.length →
      s.copySource r u o n = .ok s r ((r.exp.drop o).take n) (r.expBad.contains (o / 64))) ∧
    (r.kind = .dbtr → ∃ p, s.copySource r u o n = .ok s r ((r.exp.drop o).take n) p) ∧
    (r.kind = .dfill → ∃ bytes, s.copySource r u o n = .ok s r bytes false ∧ bytes.length = n ∧
      ∀ i, i < n → bytes[i]? = (leBytes r.src.toNat 8)[(r.dst.toNat + o + i) % 8]?) ∧
    (r.kind = .dgath → 0 < n → o % rb + n ≤ rb →
      (∀ v, ssp = 1 ∨ ssp = 2 → r.idx.find? (o / rb) = some v →
        (inside → SpFine s core (at_ % 2 ^ 19 + o % rb) n →
          s.copySource r u o n = .ok s r (s.readLoc (.sp core (at_ % 2 ^ 19 + o % rb)) n) false) ∧
        (¬ inside → s.copySource r u o n = .no (s.copyStop r 4))) ∧
      (∀ s1 bytes, r.idx.find? (o / rb) = none →
        s.copyRead r none 0 (r.aux + BitVec.ofNat 64 (4 * (o / rb))).toNat 4 = .ok s1 r bytes false →
        let r' := { r with idx := r.idx.put (o / rb) (BitVec.ofInt 64 (BitVec.ofNat 32 (leNat bytes)).toInt) }
        s.copySource r u o n = (s1.setCopy r').copySource r' u o n))

/-- R282, R287: an action of a request that may act writes a part that has been read, whole: its bytes then read as the source gave them, no
other byte of scratchpad or memory changes, and the part counts as written. In memory the destination is a sealed base line that no
other store is being shown on. -/
def Claim.CopyPartWritten : Prop :=
  ∀ (s : State) (r : CopyReq) (i j : Nat) (bytes : List Byte), Inv s → CopyActs s r → r.stage ≠ 0 → i < r.total → j < 8 →
    r.done.testBit i = false → r.byteWise i = false → r.wr.find? i = none → r.partRead i = some (bytes, false) → r.overlaps = false →
    let n := (r.partAt i).2
    let a := r.out.2.1 + (r.partAt i).1
    0 < n → bytes.length = n →
    (r.out.1 = 1 → a < 2 ^ 19 → a + n ≤ 0x60000 → (s.core r.core).scrubbing.getLsbD (a / 4096) = false →
      let t := s.copyStep r.id (8 * i + j)
      t.readLoc (.sp r.core a) n = bytes ∧ t.dram = s.dram ∧
        (∀ c k, (c ≠ r.core ∨ k < a ∨ a + n ≤ k) → t.readLoc (.sp c k) 1 = s.readLoc (.sp c k) 1) ∧
        ∃ r' ∈ t.copies, r'.id = r.id ∧ r'.done.testBit i = true) ∧
    (∀ part gpa pa key ord s1, r.out.1 = 0 → a < 2 ^ 64 → r.xl = [] →
      s.checkVa r.ctx (BitVec.ofNat 64 a) 1 r.pm.toNat
        { write := true, writes := true, fullPage := r.pageWhole a, fullLine := (r.blockMask a 64).isSome }
          = (.ok { loc := .mem part 0 gpa pa key, ord := ord }, s1) →
      s.isUnsealed pa = false → s.lineTaken r.job .d (.mem part 0 gpa pa key) = false →
      let t := s.copyStep r.id (8 * i + j)
      t.dram.readBytes pa n = bytes ∧ t.cores = s.cores ∧ (∀ k, (k < pa ∨ pa + n ≤ k) → t.dram.read k = s.dram.read k) ∧
        ∃ r' ∈ t.copies, r'.id = r.id ∧ r'.done.testBit i = true)

/-- What copies read and write. -/
def Obligations.CopyData : Prop := Claim.CopyPartRead ∧ Claim.CopySources ∧ Claim.CopyPartWritten

/-! ## The block-table store: DBTW, DBTR, DBTSH and DBTFREE -/

/-- R294 to R297: the block-table store. A DBTW whose bytes are read writes them at its offset into its slot's block: a free block, zero but
for them, when the slot is absent; a copy of the block when others share it; else the block itself; no other byte of memory
changes. DBTR takes the bytes of its slot's block, and stops with status 5 on an absent one. DBTSH gives its next slot the block of the
source slot, whose count rises by one; a slot that DBTFREE frees is absent. -/
def Claim.BlockTable : Prop :=
  ∀ (s : State) (r : CopyReq), Inv s → CopyActs s r →
    let p := s.part r.part
    let n := r.len.toNat % 2 ^ 32
    let ofs (w : Word) := w.toNat / 2 ^ 48 % 2 ^ 14
    let slot (w : Word) := w.toNat % 2 ^ 48
    let base (q : Nat) := p.btBase + 16384 * q
    (∀ (xs : Nat → List Byte) (k : Nat), r.kind = .dbtw → r.stage = 1 → r.allDone = true → 0 < n → n % 64 = 0 → ofs r.dst % 64 = 0 →
      n + ofs r.dst ≤ 16384 → (∀ i, i < n / 8 → r.partRead i = some (xs i, false) ∧ (xs i).length = 8) → r.total ≤ k →
      let t := s.copyStep r.id (8 * k)
      let written (q : Nat) (rest : Nat → Byte) : Prop :=
        (∀ i, i < n / 8 → t.dram.readBytes (base q + ofs r.dst + 8 * i) 8 = xs i) ∧
        (∀ x, x < 16384 → (x < ofs r.dst ∨ ofs r.dst + n ≤ x) → t.dram.read (base q + x) = rest x) ∧
        (∀ x, (x < base q ∨ base q + 16384 ≤ x) → t.dram.read x = s.dram.read x) ∧ (t.part r.part).btMap.find? (slot r.dst) = some q
      (∀ q, p.btMap.find? (slot r.dst) = none → p.freeBlock = some q → (∀ g, s.blockCond r.part (base q) 16384 p.btKey ≠ .refuse g) →
        written q fun _ => 0) ∧
      (∀ q, p.btMap.find? (slot r.dst) = some q → s.blockCond r.part (base q) 16384 p.btKey = .ok → p.btCount.get q 1 ≤ 1 →
        written q fun x => s.dram.read (base q + x)) ∧
      (∀ q q', p.btMap.find? (slot r.dst) = some q → s.blockCond r.part (base q) 16384 p.btKey = .ok → 1 < p.btCount.get q 1 →
        p.freeBlock = some q' → written q' fun x => s.dram.read (base q + x))) ∧
    (∀ k, r.kind = .dbtr → r.stage = 0 →
      (p.btMap.find? (slot r.src) = none → ∃ r' ∈ (s.copyStep r.id k).copies, r'.id = r.id ∧ r'.status = some 5) ∧
      (∀ q, p.btMap.find? (slot r.src) = some q → s.blockCond r.part (base q + ofs r.src) n p.btKey = .ok →
        s.copyStep r.id k = s.setCopy { r with stage := 1, exp := s.dram.readBytes (base q + ofs r.src) n,
                                               expBad := s.badLines (base q + ofs r.src) n, refused := none })) ∧
    (∀ k q, r.kind = .dbtsh → r.stage = 0 → r.pos < n → slot r.dst + r.pos ≠ slot r.src + r.pos →
      p.btMap.find? (slot r.src + r.pos) = some q → p.btMap.find? (slot r.dst + r.pos) ∈ [none, some q] → p.btCount.get q 1 < 65535 →
      let t := s.copyStep r.id k
      (t.part r.part).btMap.find? (slot r.dst + r.pos) = some q ∧ (t.part r.part).btCount.get q 1 = p.btCount.get q 1 + 1 ∧
        t.dram = s.dram ∧ ∃ r' ∈ t.copies, r'.id = r.id ∧ r'.pos = r.pos + 1) ∧
    (∀ k q rest, r.kind = .dbtfree → r.stage = 0 → p.btMap = (slot r.dst, q) :: rest → r.pos = slot r.dst → 0 < n →
      (s.copyStep r.id k).dram = s.dram ∧ ((s.copyStep r.id k).part r.part).btMap = rest.filter (fun e => e.1 ≠ slot r.dst))

/-- The block-table store: DBTW, DBTR, DBTSH and DBTFREE. -/
def Obligations.BlockTables : Prop := Claim.BlockTable

/-! ## Transfers between packages pair with their peers -/

/-- R299 to R301: a slot opens at its time; data of the peer, or its acceptance, is taken by the oldest transfer that pairs with it, and a
length or format that differs ends it with MISMATCH; an ABORT flit ends the transfers with the reset VF with ABORTED. -/
def Claim.TransferEvents : Prop :=
  ∀ (s : State), let ev := s.cur.ev
    (∀ b t0, s.bank s.cur.core s.cur.seat = some b → b.ssPart = true → b.t0 = some t0 →
      exec .xferSlotOpen s = .next { s with timebase := Nat.max s.timebase (t0 + ev.slot * b.sslot) }) ∧
    (∀ r l l', s.copies = l ++ r :: l' → (∀ q ∈ l ++ l', q.id ≠ r.id) → (∀ q ∈ l, q.pairsWith ev.part ev.vf ev.idx = false) →
      r.pairsWith ev.part ev.vf ev.idx = true → lenSlot r.len = ev.slot → r.peer = none → (r.kind = .dcoll ↔ ev.peer.collective = true) →
      (lenRole r.len = 0 ↔ ev.quad = 1) →
      (ev.peer.len = lenN r.len → ev.peer.fmt = lenFmt r.len → exec .xferDataArrival s = .next { s with copies :=
        l ++ { r with peer := some ev.peer, stage := if lenRole r.len = 0 then r.stage else 1 } :: l' }) ∧
      (ev.peer.len ≠ lenN r.len ∨ ev.peer.fmt ≠ lenFmt r.len → ∃ t, exec .xferDataArrival s = .next t ∧
        ∃ r' ∈ t.copies, r'.id = r.id ∧ r'.status = some 13)) ∧
    (∃ t, exec .abortFlit s = .next t ∧ ev.idx ∈ (t.vf ev.vf).deadPeers ∧ t.copies.map (·.id) = s.copies.map (·.id) ∧
      ∀ q ∈ t.copies, ∀ r ∈ s.copies, r.id = q.id → (∀ r' ∈ s.copies, r'.id = r.id → r' = r) →
        (r.pairsWith ev.part ev.vf ev.idx = true → q.status = some 8) ∧ (r.pairsWith ev.part ev.vf ev.idx = false → q = r))

/-- Transfers between packages pair with their peers. -/
def Obligations.Transfers : Prop := Claim.TransferEvents

/-! ## Element-by-element vector arithmetic -/

/-- R77, R206, R209 to R211, R213 to R216, R220, R221: the element-by-element instructions of V: an active element of d becomes the
instruction's result; an inactive one stays, or is 0 when VCTL.MZ = 1; the flags of the active elements join VSTAT; no other
register changes. -/
def Claim.VectorLanes : Prop :=
  ∀ i d w m f, LaneOp i d w m f → w ∈ [8, 16, 32] → ∀ (s : State) (x y : Bank), Ready s {} x y →
    ∃ v fl, exec i s = .next (s.done { y.setV d v with vflags := fl } .next false) ∧
      (∀ j, j < 2048 / w →
        (Active y m w j → elem v w j = (f y j).1 % 2 ^ w) ∧
        (¬ Active y m w j → elem v w j = if y.vmz then 0 else elem (y.getV d) w j)) ∧
      (∀ n, n < 7 → (fl.getLsbD n = true ↔
        y.vflags.getLsbD n = true ∨ ∃ j, j < 2048 / w ∧ Active y m w j ∧ (f y j).2.getLsbD n = true))

/-- R63, R67, R209: on integer elements, VADD, VSUB and VMUL give the result modulo 2^w, or, with SAT, the nearest value of the type. -/
def Claim.VectorIntegers : Prop :=
  ∀ (o : VMod) (p q : Int), o.type ∈ [Fmt.i8, .n8, .i16, .n16, .i32] →
    let w := o.type.width
    let lo : Int := if Fmt.signedInt o.type then -(2 ^ (w - 1) : Nat) else 0
    let hi : Int := if Fmt.signedInt o.type then (2 ^ (w - 1) : Nat) - 1 else (2 ^ w : Nat) - 1
    let fit (r : Int) : Nat := ((if o.sat then (if r < lo then lo else if hi < r then hi else r) else r) % (2 ^ w : Nat)).toNat
    (lane o (xadd o.rnd (XVal.ofInt p) (XVal.ofInt q)) 0).1 = fit (p + q) ∧
    (lane o (xadd o.rnd (XVal.ofInt p) (XVal.ofInt q).neg) 0).1 = fit (p - q) ∧
    (lane o ((XVal.ofInt p).mul (XVal.ofInt q)) 0).1 = fit (p * q)

/-- Element-by-element vector arithmetic. -/
def Obligations.VectorArithmetic : Prop := Claim.VectorLanes ∧ Claim.VectorIntegers

/-! ## The mask stack, extraction, unpacking, queue moves and reductions of V -/

/-- R206, R207, R212, R219: VCMP pushes one bit for each lane, MPUSH an e register, MINV replaces the top by its complement within the
entry below, MPOP drops it, VSEL chooses by lane. A push onto 16 entries, MINV and MPOP of none raise ILLEGAL. -/
def Claim.VectorMasks : Prop :=
  ∀ (s : State) (x y : Bank), Ready s {} x y →
    (∀ a b c t fzi m, t.width ∈ [8, 16, 32] → y.mask.length < 16 → ∃ e : Word,
      exec (.vcmp a b c t fzi m) s = .next (s.done { y with mask := e :: y.mask } .next false) ∧
      ∀ l, l < 64 → (e.getLsbD l = true ↔ Active y m 32 l ∧ ∀ j, j < 32 / t.width →
        let p := y.elemVal a t fzi (32 / t.width * l + j)
        let q := y.elemVal b t fzi (32 / t.width * l + j)
        let un := p = .nan ∨ q = .nan
        match c with
        | .eq => ¬ un ∧ p.cmp q = 0
        | .ne => un ∨ p.cmp q ≠ 0
        | .lt => ¬ un ∧ p.cmp q = -1
        | .le => ¬ un ∧ p.cmp q ≠ 1
        | .uo => un)) ∧
    (∀ a, y.mask.length < 16 → exec (.mpush a) s = .next (s.done { y with mask := y.getE a :: y.mask } .next false)) ∧
    (∀ t l, y.mask = t :: l →
      exec .minv s = .next (s.done { y with mask := (~~~ t &&& l.headD (BitVec.allOnes 64)) :: l } .next false) ∧
      exec .mpop s = .next (s.done { y with mask := l } .next false)) ∧
    (∀ a, 16 ≤ y.mask.length → exec (.mpush a) s = .next (s.stops y { cause := .illegal, addr := 16, past := true })) ∧
    (y.mask = [] → exec .minv s = .next (s.stops y { cause := .illegal, past := true }) ∧
      exec .mpop s = .next (s.stops y { cause := .illegal, past := true })) ∧
    (∀ d a b, ∃ v, exec (.vsel d a b) s = .next (s.done (y.setV d v) .next false) ∧
      ∀ l, l < 64 → (Active y true 32 l → elem v 32 l = elem (y.getV a) 32 l) ∧ (¬ Active y true 32 l → elem v 32 l = elem (y.getV b) 32 l))

/-- R217, R221, R222: VEXT gives one element, sign-extended for a signed type, and traps on an index outside the register; VUNPK3 gives the
digits of the used bytes, those of an illegal byte as 0 with IBC set; VQGET and VQPUT move a queue entry. -/
def Claim.VectorMoves : Prop :=
  ∀ (s : State) (x y : Bank), Ready s {} x y →
    (∀ d a t (idx : BitVec 24), let c := elem (y.getV a) t.width idx.toNat
      (idx.toNat < 2048 / t.width → exec (.vext d a t idx) s = .next (s.done
        (y.setE d (if Fmt.signedInt t then BitVec.ofInt 64 (signedOf t.width c) else BitVec.ofNat 64 c)) .next false)) ∧
      (2048 / t.width ≤ idx.toNat → exec (.vext d a t idx) s = .next (s.stops y
        { cause := .illegal, addr := idx.signExtend 64, past := true }))) ∧
    (∀ d a m, let byte (i : Nat) := elem (y.getV a) 8 i
      let used (i : Nat) : Prop := ∃ j, i = j / 5 ∧ j < 256 ∧ Active y m 8 j
      ((∀ i, i < 52 → used i → byte i < 243) → ∃ v, exec (.vunpk3 d a m) s = .next (s.done (y.setV d v) .next false) ∧
        ∀ j, j < 256 → (Active y m 8 j → elem v 8 j = [0, 1, 255].getD (byte (j / 5) / 3 ^ (j % 5) % 3) 0) ∧
          (¬ Active y m 8 j → elem v 8 j = if y.vmz then 0 else elem (y.getV d) 8 j)) ∧
      (∀ i, i < 52 → used i → 243 ≤ byte i → (∀ k, k < i → used k → byte k < 243) → y.vtrapIbc = true →
        exec (.vunpk3 d a m) s = .next (s.stops y { cause := .ibc, addr := BitVec.ofNat 64 i, past := true })) ∧
      ((∃ i, i < 52 ∧ used i ∧ 243 ≤ byte i) → y.vtrapIbc = false → ∃ v, exec (.vunpk3 d a m) s =
        .next (s.done { y.setV d v with vflags := y.vflags ||| 64 } .next false) ∧
        ∀ j, j < 256 → Active y m 8 j → elem v 8 j =
          if 243 ≤ byte (j / 5) then 0 else [0, 1, 255].getD (byte (j / 5) / 3 ^ (j % 5) % 3) 0)) ∧
    (∀ v q h t, MayUse y .v q false → y.queue q = h :: t → h.poison = false →
      (q ∈ [Queue.av 0, .av 1, .av 2, .av 3, .mv0] →
        exec (.vqget v q) s = .next (s.done ((y.popTo q t).setV v h.data) .next false)) ∧
      (q = .cv0 → v.val < 16 →
        exec (.vqget v q) s = .next (s.done ((y.popTo q t).setE ⟨v.val % 16, by omega⟩ (h.data.setWidth 64)) .next false))) ∧
    (∀ v, MayUse y s.cur.eng .va0 true → (y.queue .va0).length < 8 → (s.waited y).releaseReady y.job s.cur.eng .seat = true →
      exec (.vqput v .va0) s = .next (s.done (y.setQueue .va0 (y.queue .va0 ++ [{ data := y.getV v }])) .next false))

/-- R78, R218: the reductions: on integers the sum, the greatest or the least of the active elements, 0 when there is none; on floats the
tree of R78, each node rounded to FP32. -/
def Claim.VectorReductions : Prop :=
  ∀ (s : State) (x y : Bank) (d : Fin 16) (a : Fin 32) (o : VMod), Ready s {} x y →
    let n := 2048 / o.type.width
    let act := (List.range n).filter fun i => y.active o.m o.type.width i
    (o.type.isVInt = true → o.type.width ∈ [8, 16, 32] →
      exec (.vredadd d a o) s = .next (s.done (y.setE d (BitVec.ofInt 64 ((act.map (intElem y a o.type)).sum))) .next false) ∧
      (act = [] → exec (.vredmax d a o) s = .next (s.done (y.setE d 0) .next false) ∧
        exec (.vredmin d a o) s = .next (s.done (y.setE d 0) .next false)) ∧
      (act ≠ [] →
        (∃ i ∈ act, (∀ j ∈ act, intElem y a o.type j ≤ intElem y a o.type i) ∧
          exec (.vredmax d a o) s = .next (s.done (y.setE d (BitVec.ofInt 64 (intElem y a o.type i))) .next false)) ∧
        (∃ i ∈ act, (∀ j ∈ act, intElem y a o.type i ≤ intElem y a o.type j) ∧
          exec (.vredmin d a o) s = .next (s.done (y.setE d (BitVec.ofInt 64 (intElem y a o.type i))) .next false)))) ∧
    (o.type.isVInt = false →
      let node (p q : XVal × VFlags) : XVal × VFlags :=
        (f32 (roundTo .fp32 o.rnd o.fzo o.sat (xadd o.rnd p.1 q.1)),
         p.2 ||| q.2 ||| roundFlags .fp32 o.rnd o.fzo o.sat (xadd o.rnd p.1 q.1) ||| flIf (sumInvalid [p.1, q.1]) flNV)
      let leaves {α : Type} (f : XVal → α) := y.activeElems o.type.width o.m fun i => f (y.elemVal a o.type o.fzi i)
      let code (v : XVal) : Word := BitVec.ofNat 64 (roundTo .fp32 .rne false false v)
      exec (.vredadd d a o) s = .next (s.done (match treeReduce node 9 (leaves (·, 0)) with
        | none => y.setE d 0 | some r => { y.setE d (code r.1) with vflags := y.vflags ||| r.2 }) .next false) ∧
      exec (.vredmax d a o) s = .next (s.done (y.setE d ((treeReduce xmax 9 (leaves id)).elim 0 code)) .next false) ∧
      exec (.vredmin d a o) s = .next (s.done (y.setE d ((treeReduce xmin 9 (leaves id)).elim 0 code)) .next false))

/-- The mask stack, extraction, unpacking, queue moves and reductions of V. -/
def Obligations.VectorMaskStack : Prop := Claim.VectorMasks ∧ Claim.VectorMoves ∧ Claim.VectorReductions

/-! ## Stationary loads are queued and fill the slots -/

/-- R148, R230 to R238, R304, R354: MLDW and MLDS whose operands pass their checks pop a format word and queue a load request of k blocks,
behind at most seven others; MWPF leaves its parts to be prefetched, each of which starts later and spends 2 tokens. A scale table is
named for the block formats only. -/
def Claim.StationaryLoads : Prop :=
  ∀ (s : State) (x y : Bank) (base tab : Fin 16) (k : Fin 64) (w : Word) (f : FmtWord) (rest : List QEntry),
    let z := y.holding w rest
    let s1 := s.waited z
    let a := y.getH base
    let sa := y.getH tab
    let n := k.val * f.bf.blockBytes
    let req (wt : Bool) : LoadReq := { id := s.nextId, fromWeight := wt, addr := a, scaleAddr := if f.bf.isBlock then some sa else none,
                                       fmt := f.bf, bsc := f.bsc, k := k.val, sig := s.cur.ann.late }
    let after (r wt : Bool) : State := State.done { s1 with nextId := s.nextId + 1 }
      { (z.noteTile r none false) with minst := none, reqs := y.reqs ++ [req wt] } .next true
    (HasWord s y w f rest → (f.bf.isBlock = false → tab = 0) → y.reqs.length < 8 →
      (Ready s {} x y → WFine s1 s.cur.core y.vf a n 64 → (f.bf.isBlock = true → WFine s1 s.cur.core y.vf sa (128 * k.val) 64) →
        exec (.mldw base tab k) s = .next (after false true)) ∧
      (∀ r, Ready s { seamOk := r } x y → (r = true → y.seam.isSome = true) → MFine s1 z a n 64 →
        (f.bf.isBlock = true → MFine s1 z sa (128 * k.val) 2) → exec (.mlds base tab k r) s = .next (after r false))) ∧
    (Ready s {} x y → (∀ i, i < k.val → WFine (s.waited y) s.cur.core y.vf (a + BitVec.ofNat 64 (4096 * i)) 4096 1) →
      exec (.mwpf base k) s = .next (s.done { y with mwpf := if k.val = 0 then y.mwpf else y.mwpf ++ [(a, k.val)] } .next false)) ∧
    (∀ core seat b p m l, s.bank core seat = some b → b.mwpf = (p, m) :: l → WFine s core b.vf p 4096 1 → 2 ≤ (s.core core).tokens →
      s.prefetchPart core seat = (s.setCore core { s.core core with tokens := (s.core core).tokens - 2 }).setBank core seat
        { b with mwpf := if m ≤ 1 then l else (p + 4096, m - 1) :: l })

/-- R235, R236, R239, R252: a fill spends its tokens and starts: a slot to be filled afresh first, then the oldest request, while a slot is
free; then the block stands in the next slot as it was read, behind the stream's earlier scratchpad accesses; the rows of a weight
block that have been read before stand as they were read. -/
def Claim.SlotFills : Prop :=
  ∀ (s : State) (b : Bank), s.bank s.cur.core s.cur.seat = some b →
    (b.stopped = false → b.frozen = none → (∀ x ∈ b.slots, x.mark ≠ .filling) → (∀ q ∈ b.reqs, q.filling = false) →
      (∀ q qs s1, b.reqs = q :: qs → (∀ x ∈ b.slots, x.mark ≠ .refill) → b.slots.length < 4 →
        Pays s (b.column s.cur.core) ⟨s.cur.core, b.job, 2⟩
          (Nat.max 1 (if q.fromWeight then (q.fmt.blockBytes + 2047) / 2048 else (q.fmt.blockBytes + 4095) / 4096)) s1 →
        exec .slotFill s = .next (s1.setBank s.cur.core s.cur.seat { b with reqs := { q with filling := true } :: qs })) ∧
      (∀ l x r s1, b.slots = l ++ x :: r → (∀ o ∈ l, o.mark ≠ .refill) → x.mark = .refill →
        Pays s (b.column s.cur.core) ⟨s.cur.core, b.job, 2⟩
          (Nat.max 1 (if x.fromWeight then (x.fmt.blockBytes + 2047) / 2048 else (x.fmt.blockBytes + 4095) / 4096)) s1 →
        exec .slotFill s = .next (s1.setBank s.cur.core s.cur.seat { b with slots := l ++ { x with mark := .filling } :: r }))) ∧
    (∀ q qs, b.reqs = q :: qs → q.filling = true → (∀ x ∈ b.slots, x.mark ≠ .filling) → q.sig = none →
      let a := q.addr + BitVec.ofNat 64 (q.filled * q.fmt.blockBytes)
      let sa := q.scaleAddr.map (· + BitVec.ofNat 64 (128 * q.filled))
      let b' (x : Slot) : Bank := { b.dropAhead (q.id, q.filled) with
        slots := b.slots ++ [x], mS := { b.mS with scrub := none }
        reqs := if q.k ≤ q.filled + 1 then qs else { q with filled := q.filled + 1, filling := false } :: qs }
      (q.fromWeight = true → exec .slotFillDone s = .next (s.setBank s.cur.core s.cur.seat (b' (s.weightSlot a sa q.fmt q.bsc (b.heldRows (q.id, q.filled)))))) ∧
      (∀ v, q.fromWeight = false → q.scaleAddr = none → q.pre.find? q.filled = none → s.mOrder b q.id = false → MReads s b a.toNat q.fmt.blockBytes v none →
        exec .slotFillDone s = .next (s.setBank s.cur.core s.cur.seat (b' ⟨false, a, none, q.fmt, q.bsc, BitVec.ofNat 131072 v, 0, .ok⟩))))

/-- Stationary loads are queued and fill the slots. -/
def Obligations.StationaryBlocks : Prop := Claim.StationaryLoads ∧ Claim.SlotFills

/-! ## Matrix products join the array's work; relocatable tile instructions -/

/-- R231, R232, R240, R241: MMA and MMAG pop a format word and join the array's work; outside a seam the stream stays at them until their
last k-step has started, and then goes on. MMAG reads its pointers behind the stream's earlier scratchpad accesses. MMA needs k filled or
promised blocks, or raises ILLEGAL with their number. -/
def Claim.Products : Prop :=
  ∀ (s : State) (x y : Bank) (t : Fin 4) (a : AOp) (tab : Fin 16) (k : Fin 64) (w : Word) (f : FmtWord) (rest : List QEntry),
    Ready s {} x y →
    let z := y.holding w rest
    let s1 := s.waited z
    let n := k.val * f.af.blockBytes
    let fine := match a with | .h h => MFine s1 z (y.getH h) n 64 | .q (.am i) => MayUse y .m (.am i) false | .q _ => False
    let src := match a with | .h h => ASrc.sp (y.getH h) | .q (.am i) => .queue i | .q _ => .queue 0
    let prod (id : Nat) (op : TileOp) (sc : Option Word) (ptrs : Option (List Word)) (warned : Bool) : Product :=
      { id := id, op := op, pc := y.mS.pc, z := t, src := src, scaleAddr := sc, k := k.val, fw := w, ptrs := ptrs,
        seam := y.seamNo, clr := s.cur.ann.wait.isClr, warned := warned, sig := s.cur.ann.late }
    let after (s2 : State) (b : Bank) (p : Product) : State :=
      { s2 with nextId := s2.nextId + 1 }.setBank s.cur.core s.cur.seat (s.issueSignal
        { (b.noteTile false (some t) true) with minst := none, prods := y.prods ++ [p] })
    (y.current = none → HasWord s y w f rest → fine →
      ((f.af.isBlock = false → tab = 0) → (f.af.isBlock = true → MFine s1 z (y.getH tab) (128 * k.val) 2) →
        (k.val ≤ y.promised → exec (.mma t a tab k false) s = .next (after s1 z
          (prod s.nextId .mma (if f.af.isBlock then some (y.getH tab) else none) none false))) ∧
        (y.promised < k.val →
          exec (.mma t a tab k false) s = .next (s.stopsAs y s1 z { cause := .illegal, addr := BitVec.ofNat 64 y.promised }))) ∧
      (∀ v sR zR, f.af.isBlock = false → f.bf.isBlock = false → MFine s1 z (y.getH tab) 64 64 → s1.mPending y.job s.nextId = false →
        (∀ p ∈ y.prods, p.allApplied = true ∨ (y.seamNo ≠ 0 ∧ p.seam = y.seamNo)) → s1.readAhead z s.nextId = some (sR, zR) →
        MReads sR zR (y.getH tab).toNat 64 v none →
        (∀ g : Fin 8, let p : Word := BitVec.ofNat 64 (v / 2 ^ (64 * g.val))
          p.toNat / 2 ^ 19 % 2 ^ 44 = 0 ∧ (p.getLsbD 63 = false → MFine sR zR p (k.val * f.bf.blockBytes) 64)) →
        exec (.mmag t a tab k false) s = .next (after sR zR
          (prod sR.nextId .mmag none (some ((List.range 8).map fun g => BitVec.ofNat 64 (v / 2 ^ (64 * g)))) false)))) ∧
    (∀ p, y.current = some p → p.allStarted = true →
      exec (.mma t a tab k false) s = .next (s.done y.passCurrent .passed true) ∧
      exec (.mmag t a tab k false) s = .next (s.done y.passCurrent .passed true))

/-- R247 to R249: the tile instructions with R = 1: outside a seam they raise ILLEGAL; in a seam that may still be relocated, on a tile that it
has cleared, MMA joins the array's work and MZERO and MSTZ are deferred with it, and the stream goes on at once (that it goes on, and
that MZERO and MSTZ are deferred, is the model's reading: log entry 50). -/
def Claim.RelocatableSeams : Prop :=
  ∀ (s : State) (x y : Bank) (t : Fin 4) (h tab : Fin 16) (k : Fin 64) (w : Word) (f : FmtWord) (rest : List QEntry),
    Ready s { seamOk := true } x y →
    let z := y.holding w rest
    let s1 := s.waited z
    (y.seam = none → ∀ i, (∃ a, i = .mma t a tab k true) ∨ (∃ a, i = .mmag t a tab k true) ∨
      i = .mlds h tab k true ∨ i = .mstz t h true → exec i s = .next (s.stops y { cause := .illegal })) ∧
    (∀ m, y.seam = some m → m.fits = true → m.count = m.issued →
      (y.current = none → HasWord s y w f rest → m.zeroed.getLsbD t = true → m.tiles < 16 → MFine s1 z (y.getH h) (k.val * f.af.blockBytes) 64 →
        f.af.isBlock = false → tab = 0 → k.val ≤ y.promised →
        exec (.mma t (.h h) tab k true) s = .next (State.done { s1 with nextId := s.nextId + 1 }
          { (z.noteTile true (some t) true) with minst := none, prods := y.prods ++ [
            { id := s.nextId, op := .mma, pc := y.mS.pc, z := t, src := .sp (y.getH h), scaleAddr := none, k := k.val, fw := w, passed := true,
              seam := m.id, clr := s.cur.ann.wait.isClr, sig := s.cur.ann.late }] } .next true)) ∧
      exec (.mzero t) s = .next (State.done { s.waited y with nextId := s.nextId + 1 }
        ((y.noteZero t).deferOp .zero s.nextId t 0 0 s.cur.ann.wait.isClr s.cur.ann.late) .next true) ∧
      (HasWord s y w f rest → m.tiles < 16 → MFine s1 z (y.getH h) f.out.blockBytes 64 →
        exec (.mstz t h true) s = .next (State.done { s1 with nextId := s.nextId + 1 }
          (({ (z.noteTile true (some t) false) with minst := none } : Bank).deferOp .store s.nextId t (y.getH h) w s.cur.ann.wait.isClr
            s.cur.ann.late) .next true)))

/-- Matrix products join the array's work; relocatable tile instructions. -/
def Obligations.MatrixProducts : Prop := Claim.Products ∧ Claim.RelocatableSeams

/-! ## The k-steps of a product and the tile they leave -/

/-- R227, R230, R240, R241, R252, R253, R258, R326: the next k-step starts when its slot is filled and its tokens are there; a started k-step
whose A block is in scratchpad is applied as one action, behind the stream's earlier loads: the tile becomes that of R72, its slot is
free, its bit is set; an A block that is poisoned or, with UT = 1, invalid traps at the product: UNCORR, or SPUNINIT, with TRAPADDR the
first such part. A poisoned tile raises UNCORR there (with TRAPADDR 0, the model's choice: log entry 105). -/
def Claim.KSteps : Prop :=
  ∀ (s : State) (b : Bank) (p : Product) (w : FmtWord), s.bank s.cur.core s.cur.seat = some b → b.mRuns = true → fmtWord p.fw = some w →
    (∀ l r i, b.prods = l ++ p :: r → (∀ o ∈ l, o.allStarted = true) → i < p.k → p.started.testBit i = false →
      (∀ j, j < i → p.started.testBit j = true) → mayStep l p i = true → (∀ o ∈ l ++ r, o.id ≠ p.id) →
      let after (s1 : State) : State := s1.setBank s.cur.core s.cur.seat { b with prods := l ++ { p with started := p.started ||| 2 ^ i } :: r }
      let paid (cost : Nat) (s1 : State) : Prop := Pays s (b.column s.cur.core) ⟨s.cur.core, b.job, 1⟩ cost s1
      (∀ q s1, p.op = .mma → b.slots[slotIndex l p i]? = some q → q.mark = .ok → pairBad w q = false → paid (kstepTokens w.af q.fmt) s1 →
        exec .kstepStart s = .next (after s1)) ∧
      (∀ s1, p.op = .mmag → paid (kstepTokens w.af w.bf) s1 → exec .kstepStart s = .next (after s1)) ∧
      (∀ s1, p.op = .zero → paid 1 s1 → exec .kstepStart s = .next (after s1)) ∧
      (∀ s1, p.op = .store ∨ p.op = .load → paid 2 s1 → exec .kstepStart s = .next (after s1))) ∧
    (∀ l r i q a v sR bR, b.prods = l ++ p :: r → s.cur.ev.idx = l.length → s.cur.ev.quad = i → i < p.k → p.started.testBit i = true →
      p.applied.testBit i = false → mayStep l p i = true → s.mPending b.job p.id = false → (∀ o ∈ l ++ r, o.id ≠ p.id) → p.op = .mma →
      .tile p.z ∉ b.bad → b.slots[slotIndex l p i]? = some q → q.mark = .ok → p.src = .sp a → p.scaleAddr = none → p.sig = none →
      State.readAhead { s with cur := { s.cur with eng := .m } } b p.id = some (sR, bR) →
      (MReads sR bR (a.toNat + i * w.af.blockBytes) w.af.blockBytes v none → ∃ t b', exec .kstepApply s = .next t ∧
        t.bank s.cur.core s.cur.seat = some b' ∧
        b'.z[p.z] = kstepTile w b.z[p.z] v 0 (fun _ => some ⟨q.fmt, q.bsc, q.data.toNat, q.scales.toNat⟩) ∧
        (∀ j : Fin 4, j ≠ p.z → b'.z[j] = b.z[j]) ∧ b'.zk.getLsbD p.z = w.i32 ∧ b'.slots = b.slots.eraseIdx (slotIndex l p i) ∧
        (∀ o ∈ b'.prods, o.id = p.id → o.applied = p.applied ||| 2 ^ i) ∧ (∀ g n, t.readLoc g n = s.readLoc g n)) ∧
      (∀ at_, bR.mbuf = [] → (∀ st, bR.mS.scrub = some st → sR.stallFirst st = true) →
        (∀ u, u < 96 → (s.core s.cur.core).scrubbing.getLsbD u = false) →
        firstPart (s.core s.cur.core).poison true (a.toNat + i * w.af.blockBytes) w.af.blockBytes = some at_ →
        exec .kstepApply s = .next (sR.raiseProduct bR p .uncorr (BitVec.ofNat 64 at_))) ∧
      (∀ at_, bR.mbuf = [] → (∀ st, bR.mS.scrub = some st → sR.stallFirst st = true) →
        (∀ u, u < 96 → (s.core s.cur.core).scrubbing.getLsbD u = false) →
        firstPart (s.core s.cur.core).poison true (a.toNat + i * w.af.blockBytes) w.af.blockBytes = none → bR.ut = true →
        firstPart (s.core s.cur.core).valid false (a.toNat + i * w.af.blockBytes) w.af.blockBytes = some at_ →
        exec .kstepApply s = .next (sR.raiseProduct bR p .spuninit (BitVec.ofNat 64 at_)))) ∧
    (∀ l r i, b.prods = l ++ p :: r → s.cur.ev.idx = l.length → s.cur.ev.quad = i → i < p.k → p.started.testBit i = true →
      p.applied.testBit i = false → mayStep l p i = true → s.mPending b.job p.id = false → (∀ o ∈ l ++ r, o.id ≠ p.id) →
      p.op = .mma ∨ p.op = .mmag ∨ p.op = .store → .tile p.z ∈ b.bad →
      exec .kstepApply s = .next ({ s with cur := { s.cur with eng := .m } }.raiseProduct b p .uncorr 0))

/-- R258, R317, R319: the trap of a k-step is taken by the M stream at its product: TRAPC and TRAPNPC are the product's address, TRAPCAUSE and
TRAPADDR the error's, PROG the number of its k-steps that are applied. The tiles, and the k-steps that are applied, stay. -/
def Claim.KStepTraps : Prop :=
  ∀ (s : State) (b : Bank) (p : Product) (c : Cause) (addr : Word), s.bank s.cur.core s.cur.seat = some b → b.hring.len ≠ 0 →
    ∃ b', (s.raiseProduct b p c addr).bank s.cur.core s.cur.seat = some b' ∧ b'.mS.trapped = true ∧ b'.handling = true ∧
      (b.handling = false → b'.trap.c = BitVec.ofNat 64 p.pc ∧ b'.trap.npc = BitVec.ofNat 64 p.pc ∧
        b'.trap.cause = BitVec.ofNat 64 c.code ∧ b'.trap.addr = addr ∧ b'.trap.fl.toNat / 2 ^ 32 = p.done % 2 ^ 32) ∧
      (b.handling = true → b'.trap = b.trap ∧ ∃ r, b'.waiting = b.waiting ++ [r] ∧ r.pc = p.pc ∧ r.cause = c.code ∧ r.addr = addr ∧
        r.prog = p.done) ∧
      b'.z = b.z ∧ b'.zk = b.zk ∧ b'.slots = b.slots ∧ b'.prods.map (·.applied) = b.prods.map fun q => if q.id = p.id then p.applied else q.applied

/-- R72, R73: one k-step on a tile: element (i, n) becomes its old value and the sum of the 64 products of row i of A and column n of B,
rounded once to FP32 for the products and once with the accumulator; or, for an I32 tile, the exact sum modulo 2^32. A row whose
pointer is null keeps its elements. -/
def Claim.KStepValues : Prop :=
  ∀ (w : FmtWord) (t : Tile) (a sc : Nat) (bOf : Nat → Option BBlock) (i n : Nat), i < 64 → n < 64 →
    let acc := tileElem t i n
    tileElem (kstepTile w t a sc bOf) i n = match bOf (8 * (i / 8)) with
      | none => acc
      | some c =>
        let ps := (List.range 64).map fun j => (operand w.af w.fzi a sc w.asc i j).mul (operand c.fmt w.fzi c.blk c.scales c.bsc n j)
        (if w.i32 then
          (if w.sat then
            let cl (v : Int) : Int := if v < -2 ^ 31 then -2 ^ 31 else if 2 ^ 31 - 1 < v then 2 ^ 31 - 1 else v
            (cl (cl ((ps.map (XVal.units 0)).sum) + int32 acc) % 2 ^ 32).toNat
           else ((int32 acc + (ps.map (XVal.units 0)).sum) % 2 ^ 32).toNat)
         else w.round .fp32 (xadd w.rnd (f32 acc) (f32 (w.round .fp32 (xsum w.rnd ps))))) % 2 ^ 32

/-- The k-steps of a product and the tile they leave. -/
def Obligations.KStepsOfProducts : Prop := Claim.KSteps ∧ Claim.KStepTraps ∧ Claim.KStepValues

/-! ## Tile instructions and seams -/

/-- R227, R230, R242 to R245, R252: the tile instructions outside a relocatable seam, with no k-step of their tile to come and their tokens
there: MZERO clears the tile (kind FP32), MLDZ issues with its reads requested, and these, behind the stream's earlier accesses, replace the
tile by 16 KiB of scratchpad; MSTZ posts the writes of its 64 rows, MSTQ spends its tokens, pushes row after row into mv0 and then goes on;
MTOK reads the tokens of the core. -/
def Claim.TileInstructions : Prop :=
  ∀ (s s2 : State) (x y : Bank) (t : Fin 4) (a d : Fin 16) (w : Word) (f : FmtWord) (rest : List QEntry),
    let z := y.holding w rest
    let s1 := s.waited z
    let addr := y.getH a
    (Ready s {} x y → exec (.mtok d) s = .next (s.done (y.setH d (BitVec.ofNat 64 (s.core s.cur.core).tokens)) .next false)) ∧
    (Ready s { seamOk := true } x y → y.fitting = false → y.tileBusy t = false → y.deferred = false → Pays (s.waited y) s.cur.core (s.mine y) 1 s2 →
      exec (.mzero t) s = .next (s2.done { (y.noteZero t) with z := y.z.set t 0, zk := y.zk &&& ~~~ (1#4 <<< t.val) } .next false)) ∧
    (Ready s {} x y → HasWord s y w f rest → y.tileBusy t = false → MFine s1 z addr 16384 64 → Pays s1 s.cur.core (s.mine y) 2 s2 →
      exec (.mldz t a) s = .next (State.done { s2 with nextId := s2.nextId + 1 } { z with minst := none, prods := y.prods ++ [
        { id := s2.nextId, op := .load, pc := y.mS.pc, z := t, src := .sp addr, scaleAddr := none, k := 1, fw := w, started := 1, passed := true,
          seam := y.seamNo, clr := s.cur.ann.wait.isClr, sig := s.cur.ann.late }] } .next true)) ∧
    (∀ (b : Bank) p l r v sR bR, s.bank s.cur.core s.cur.seat = some b → b.mRuns = true → b.prods = l ++ p :: r → s.cur.ev.idx = l.length →
      s.cur.ev.quad = 0 → p.op = .load → p.k = 1 → p.started = 1 → p.applied = 0 → p.passed = true → p.sig = none → p.src = .sp addr →
      fmtWord p.fw = some f → mayStep l p 0 = true → s.mPending b.job p.id = false → (∀ o ∈ l ++ r, o.id ≠ p.id) →
      State.readAhead { s with cur := { s.cur with eng := .m } } b p.id = some (sR, bR) → MReads sR bR addr.toNat 16384 v none →
      ∃ t' b', exec .kstepApply s = .next t' ∧ t'.bank s.cur.core s.cur.seat = some b' ∧ b'.prods = l ++ r ∧
        b'.z = b.z.set p.z (BitVec.ofNat 131072 v) ∧ (b'.zk.getLsbD p.z = true ↔ f.i32 = true) ∧
        (∀ j : Fin 4, j ≠ p.z → b'.zk.getLsbD j = b.zk.getLsbD j) ∧ .tile p.z ∉ b'.bad ∧ (∀ g n, t'.readLoc g n = s.readLoc g n)) ∧
    (∀ s3 b3, Ready s {} x y → HasWord s y w f rest → y.tileBusy t = false → y.deferred = false → MFine s1 z addr f.out.blockBytes 64 →
      s1.requestFree s.cur.core = true → Pays s1 s.cur.core (s.mine y) 2 s2 → s2.readAhead z s2.nextId = some (s3, b3) →
      exec (.mstz t a false) s = .next (State.done { s3.postTile b3 s3.nextId addr.toNat (b3.tileBytes t f) s3.cur.ann.late with
        nextId := s3.nextId + 1 } { (b3.noteTile false (some t) false) with minst := none } .next true)) ∧
    (∀ i j, i < 64 → j < 64 → leNat (y.tileBytes t f) / 2 ^ (f.out.width * (64 * i + j)) % 2 ^ f.out.width =
      roundTo f.out f.rnd f.fzo f.sat ((y.tileVal t i j).scale f.osc) % 2 ^ f.out.width) ∧
    (Ready s {} x y → HasWord s y w f rest → MayUse y .m .mv0 true → y.tileBusy t = false → f.out = .fp32 ∨ f.out = .i32 →
      Pays s1 s.cur.core (s.mine y) 2 s2 →
      exec (.mstq t) s = .next (s2.setBank s.cur.core s.cur.seat (s.issueSignal { z with minst := some { fw := w, paid := true } }))) ∧
    (∀ p, Ready s {} x y → y.minst = some { fw := w, prog := p, paid := true } → fmtWord w = some f → MayUse y .m .mv0 true →
      y.tileBusy t = false → f.out = .fp32 ∨ f.out = .i32 → (y.queue .mv0).length < 8 →
      (s.waited y).releaseReady y.job .m .seat = true →
      ∀ row : QEntry, row = { data := BitVec.ofNat 2048 ((List.range 64).foldr (fun n acc => acc * 2 ^ 32 + y.outCode t f p n) 0) } →
        (p < 63 → exec (.mstq t) s = .next (s.setBank s.cur.core s.cur.seat
          { (y.push .mv0 row) with minst := some { fw := w, prog := p + 1, paid := true } }).blockedAt) ∧
        (p = 63 → exec (.mstq t) s = .next (s.done { (y.push .mv0 row) with minst := none } .passed false)))

/-- R246 to R249: SEAMB opens a seam and SEAME ends it; SEAMB in a seam, and SEAME outside one, raise SEAM. A seam that may be relocated waits
at its SEAME until its work is done, and then the tiles it used are cleared; while nothing of it has started it may move to a core
of the cluster whose M engine has no ready work, and what it would go back to is kept; a seam that has lost its place there stays local.
When that work has started, and what ready work is, are the model's readings (log entry 51). -/
def Claim.Seams : Prop :=
  ∀ (s : State) (x y : Bank),
    (Ready s {} x y →
      (y.seam = none → exec .seamb s = .next (State.done { s.waited y with nextId := s.nextId + 1 }
        { y with seam := some { id := s.nextId, pc := y.mS.pc, home := y.seamHome }, seamHome := false } .next false)) ∧
      (y.seam.isSome = true → exec .seamb s = .next (s.stops y { cause := .seam }))) ∧
    (Ready s { seamOk := true } x y →
      (y.seam = none → exec .seame s = .next (s.stops y { cause := .seam })) ∧
      (∀ m, y.seam = some m → m.closing = false →
        (¬ (m.fits = true ∧ m.count = m.issued) → exec .seame s = .next (s.done { y with seam := none } .next false)) ∧
        (m.fits = true → m.count = m.issued → exec .seame s = .next (s.setBank s.cur.core s.cur.seat
          { s.issueSignal y with seam := some { m with closing := true } }))) ∧
      (∀ m, y.seam = some m → m.closing = true → y.prods = [] →
        (s.acc.any fun a => a.job == y.job && a.eng == .m && a.kind == .tile) = false → ∃ b',
        exec .seame s = .next (s.done b' .passed false) ∧
        (∀ i : Fin 4, b'.z[i] = if m.used.getLsbD i then 0 else y.z[i]) ∧
        (∀ i : Fin 4, b'.zk.getLsbD i = (y.zk.getLsbD i && !m.used.getLsbD i)) ∧ { b' with z := y.z, zk := y.zk, seam := y.seam } = y) ∧
      (∀ m, y.seam = some m → m.closing = true →
        (y.prods ≠ [] ∨ ∃ a ∈ s.acc, a.job = y.job ∧ a.eng = .m ∧ a.kind = .tile) → exec .seame s = .next (s.waited y).blockedAt)) ∧
    (∀ b m, s.bank s.cur.core s.cur.seat = some b → b.seam = some m →
      (m.home = true → exec .seamRelocate s = .next s) ∧
      (m.closing = true → m.performer = none → m.home = false →
        s.cur.ev.idx ≠ s.cur.core → s.cur.ev.idx / 16 = s.cur.core / 16 →
        (∀ i : Fin 4, ∀ o, s.bank s.cur.ev.idx i = some o → o.prods = [] ∧ o.reqs = [] ∧ o.mwpf = [] ∧ o.minst = none ∧ o.stitch.eval = none ∧
          (o.mayRun .m = false ∨ o.mS.scrub.isSome = true)) →
        (∀ g ∈ s.liveBanks, ∀ z, g.2.2.seam = some z → z.performer ≠ some s.cur.ev.idx) → (∀ p ∈ b.prods, p.seam = m.id ∧ p.started = 0) →
        (∀ q ∈ b.reqs, m.id < q.id ∧ q.filled = 0 ∧ q.filling = false) → b.mS.trapped = false →
        exec .seamRelocate s = .next (s.setBank s.cur.core s.cur.seat
          { b with seam := some { m with performer := some s.cur.ev.idx, snap := some ⟨b.slots, [], b.z, b.zk⟩ } })))

/-- Tile instructions and seams. -/
def Obligations.TilesAndSeams : Prop := Claim.TileInstructions ∧ Claim.Seams

/-! ## The stitch file: its instructions, owner and rules -/

/-- R264, R265, R271 to R277: the stitch instructions of the seat that owns the file, outside a seam, with their tokens there: STCLR clears the
stitch state, STIN names a batch, STHDR takes a header that passes its checks, STEVAL begins at its first rule and ends after its
last, STOUT adds the top rules to a tile, STSTAT reads a counter. A seat that does not own the file raises ILLEGAL; in a seam SEAM. -/
def Claim.StitchInstructions : Prop :=
  ∀ (s s2 : State) (x y : Bank) (w : Word) (f : FmtWord) (rest : List QEntry), Ready s {} x y → OwnsFile s y →
    let z := y.holding w rest
    let s1 := s.waited z
    (Pays (s.waited y) s.cur.core (s.mine y) 1 s2 → exec .stclr s = .next (s2.done { y with stitch := {} } .next false)) ∧
    (∀ a batch, HasWord s y w f rest → f.af.isBlock = false →
      MFine s1 z (y.getH a) (batch.val * vecBytes ((y.stitch.header.map (·.width)).getD 32768) f.af) 64 → Pays s1 s.cur.core (s.mine y) 1 s2 →
      exec (.stin a batch) s = .next (s2.done { z with minst := none, stitch :=
        { header := y.stitch.header, batch := some ⟨y.getH a, batch.val, f.af, f.asc⟩ } } .next false)) ∧
    (∀ r v h, let a := y.getH r
      WFine (s.waited y) s.cur.core y.vf a 64 64 → (s.waited y).portRead s.cur.core (a.toNat % 2 ^ 27) 64 = .data v → headerOf a v = some h →
      WFine (s.waited y) s.cur.core y.vf a h.seglen 64 →
      (∀ q, y.stitch.batch = some q → MFine (s.waited y) y q.base (q.b * vecBytes h.width q.fmt) 64) → Pays (s.waited y) s.cur.core (s.mine y) 1 s2 →
      exec (.sthdr r) s = .next (State.done { s2 with ctr := s2.ctr + 1 } { y with stitch :=
        { y.stitch with header := some h, file := [], cycles := y.stitch.cycles + BitVec.ofNat 64 (Config.free s2.ctr) } } .next false)) ∧
    (∀ a r h q, y.stitch.eval = none → HasWord s y w f rest → y.stitch.header = some h → y.stitch.batch = some q →
      (y.getH r).toNat < h.rules → (y.getH a).toNat ≤ (y.getH r).toNat →
      exec (.steval a r) s = .next (s.setBank s.cur.core s.cur.seat { s.issueSignal z with minst := none, stitch :=
        { y.stitch with eval := some { rule := (y.getH a).toNat, last := (y.getH r).toNat, fw := w } } })) ∧
    (∀ a r ev, y.stitch.eval = some ev → ev.last < ev.rule → exec (.steval a r) s = .next (State.done { s.waited y with ctr := s.ctr + 1 }
      { y with stitch := { y.stitch with eval := none, cycles := y.stitch.cycles + BitVec.ofNat 64 (Config.free s.ctr) } } .passed false)) ∧
    (∀ t tab h q, HasWord s y w f rest → y.tileBusy t = false → y.stitch.header = some h → y.stitch.batch = some q →
      (∀ j, j < h.tops → (y.stitch.file.find? (h.rules - h.tops + j)).isSome = true) → y.zk.getLsbD t = false → h.ocol + h.tops ≤ 64 →
      Pays s1 s.cur.core (s.mine y) 2 s2 → ∃ v : Tile,
      exec (.stout t 0 tab) s = .next (State.done { s2 with ctr := s2.ctr + 1 } { z with minst := none, z := y.z.set t v
                                                                                         zk := y.zk &&& ~~~ (1#4 <<< t.val), stitch :=
        { y.stitch with cycles := y.stitch.cycles + BitVec.ofNat 64 (Config.free s2.ctr) } } .next false) ∧
      ∀ i n, i < 64 → n < 64 → tileElem v i n =
        if i < q.b ∧ h.ocol ≤ n ∧ n < h.ocol + h.tops then
          roundTo .fp32 f.rnd f.fzo f.sat (xadd f.rnd (f32 (tileElem y.z[t] i n)) ((y.topValue h (n - h.ocol) i).scale f.osc)) % 2 ^ 32
        else tileElem y.z[t] i n) ∧
    (∀ t kind tab h q sR zR, kind ≠ 0 → HasWord s y w f rest → y.stitch.header = some h → y.stitch.batch = some q →
      s1.requestFree s.cur.core = true → State.readAhead { s2 with ctr := s2.ctr + 1 } z s2.nextId = some (sR, zR) →
      (∀ j, j < h.tops → (y.stitch.file.find? (h.rules - h.tops + j)).isSome = true) →
      let stride := (h.tops + 63) / 64 * f.out.rowBytes
      let n := (f.out.width * h.tops + 7) / 8
      MFine s1 z (y.getH tab) ((q.b - 1) * stride + n) 64 → Pays s1 s.cur.core (s.mine y) 2 s2 → ∃ (t' : State) (o : Access) (rows : List (Nat × List Byte)),
      exec (.stout t kind tab) s = .next t' ∧ t'.acc = s.acc ++ [o] ∧ o.kind = .tile ∧ o.job = y.job ∧ o.eng = .m ∧
      rows.length = q.b ∧ (∀ i, i < q.b → ∃ v, rows[i]? = some ((y.getH tab).toNat + i * stride, leBytes v n) ∧ ∀ j, j < h.tops →
        v / 2 ^ (f.out.width * j) % 2 ^ f.out.width =
          roundTo f.out f.rnd f.fzo f.sat ((y.topValue h j i).scale f.osc) % 2 ^ f.out.width) ∧
      o.elems = rows.flatMap fun (r : Nat × List Byte) => (List.range ((r.2.length + 7) / 8)).map fun i =>
        plainElem (.sp s.cur.core (r.1 + 8 * i)) ((r.2.drop (8 * i)).take 8).length .sp true ((r.2.drop (8 * i)).take 8)) ∧
    (∀ d (n : Fin 3), exec (.ststat d n) s = .next (s.done (y.setH d
      (if n = 0 then y.stitch.rulesEvaluated else if n = 1 then y.stitch.refsReused else y.stitch.cycles)) .next false))

/-- R264, R265, R271: a seat that does not own the stitch file: STCLR takes a file that is free and for which nobody waits, or a place behind
those that wait; any other stitch instruction raises ILLEGAL; in an open seam each of them raises SEAM. That SEAM comes before that
ILLEGAL is the model's choice (log entry 110). -/
def Claim.StitchOwnership : Prop :=
  ∀ (s : State) (x y : Bank), Ready s {} x y →
    let c := (s.waited y).core s.cur.core
    let others (i : Instr) : Prop := (∃ a n, i = .stin a n) ∨ (∃ r, i = .sthdr r) ∨ (∃ a r, i = .steval a r) ∨
      (∃ t k tab, i = .stout t k tab) ∨ ∃ d n, i = .ststat d n
    (∀ i, i = .stclr ∨ others i → y.seam.isSome = true → exec i s = .next (s.stops y { cause := .seam })) ∧
    (∀ i, others i → y.seam = none → c.stOwner ≠ some s.cur.seat → y.stitch.claim = false →
      exec i s = .next (s.stops y { cause := .illegal })) ∧
    (y.seam = none → c.stOwner = none → c.stWait = [] → exec .stclr s = .next (((s.waited y).setCore s.cur.core
      { c with stOwner := some s.cur.seat }).setBank s.cur.core s.cur.seat { y with stitch := { y.stitch with claim := false } }).blockedAt) ∧
    (∀ o, y.seam = none → c.stOwner = some o → o ≠ s.cur.seat → y.job ∉ c.stWait →
      exec .stclr s = .next ((s.waited y).setCore s.cur.core { c with stWait := c.stWait ++ [y.job] }).blockedAt)

/-- R75, R262, R266 to R269: STITCH_RULE_EVAL of the rule that an STEVAL is at, behind the stream's earlier loads and products: with its header
good it spends its tokens; then, with all its symbols good, its values and depth are written into the file, the counters rise, and the
STEVAL goes on to the next rule. A rule whose declared depth is 0 or above the limit ends it with STDEPTH at the rule's header. -/
def Claim.StitchRules : Prop :=
  ∀ (s : State) (b : Bank) (ev : StEval) (h : StHeader) (q : StBatch) (f : FmtWord),
    let sm := { s with cur := { s.cur with eng := .m } }
    s.bank s.cur.core s.cur.seat = some b → b.stitch.eval = some ev → b.stitch.header = some h → b.stitch.batch = some q →
    ev.rule ≤ ev.last → b.mS.trapped = false → b.stopped = false → b.frozen = none → (s.core s.cur.core).stOwner = some s.cur.seat →
    sm.mOrder b s.nextId = false → (∀ p ∈ b.prods, p.allApplied = true) → fmtWord ev.fw = some f →
    ∀ s0 c, sm.readAhead b s.nextId = some (s0, c) →
    (∀ a ddep nsym s1, s0.ruleHeader h ev.rule (c.heldRows (0, 2)) = .ok (a, ddep, nsym) → ev.paid = false →
      Pays s0 s.cur.core ⟨s.cur.core, b.job, 3⟩ ((nsym + 16) / 16) s1 →
      exec .stitchRuleEval s = .next (s1.setBank s.cur.core s.cur.seat { c with stitch := { b.stitch with eval := some { ev with paid := true } } })) ∧
    (∀ a ddep nsym m, s0.ruleHeader h ev.rule (c.heldRows (0, 2)) = .ok (a, ddep, nsym) → ev.paid = true →
      s0.ruleBody c h q f ev.rule a ddep nsym = .ok m → m.warn = none →
      ∃ t b', exec .stitchRuleEval s = .next t ∧ t.bank s.cur.core s.cur.seat = some b' ∧
        b'.stitch.file.find? ev.rule = some ⟨((m.sum.getD (List.replicate q.b 0)) ++ List.replicate (8 - q.b) 0).map (BitVec.ofNat 32), m.dep⟩ ∧
        (∀ k, k ≠ ev.rule → b'.stitch.file.find? k = b.stitch.file.find? k) ∧
        b'.stitch.rulesEvaluated = b.stitch.rulesEvaluated + 1 ∧ b'.stitch.refsReused = b.stitch.refsReused + BitVec.ofNat 64 m.refs ∧
        b'.stitch.eval = some { ev with rule := ev.rule + 1, paid := false } ∧ m.dep = ddep ∧ b'.z = b.z ∧
        (∀ l n, t.readLoc l n = s.readLoc l n)) ∧
    (∀ a, s0.ruleHeader h ev.rule (c.heldRows (0, 2)) = .error (.fail .stdepth a) → ∃ t b', exec .stitchRuleEval s = .next t ∧
      t.bank s.cur.core s.cur.seat = some b' ∧ b'.stitch.eval = none ∧ b'.stitch.file = b.stitch.file ∧ b'.mS.trapped = true ∧
      (b.handling = false → b'.trap.cause = 0x0A ∧ b'.trap.addr = a))

/-- The stitch file: its instructions, owner and rules. -/
def Obligations.Stitches : Prop := Claim.StitchInstructions ∧ Claim.StitchOwnership ∧ Claim.StitchRules

/-! ## WPROG requests are accepted, their rows programmed, and completed -/

/-- R308, R309: WPROG whose row of data and whose weight row pass their checks, with its tag and a place of the engine free: the request
takes its place, its tag's TAGBITS and STATUS become 0 and its record says in flight. Memory and the row are as before. -/
def Claim.WeightRequests : Prop :=
  ∀ (s : State) (x y : Bank) (a b : CReg) (tag : Fin 64), Ready s { mo := true, regs := [a, b] } x y →
    let s1 := s.waited y
    let core := s.cur.core
    let c := s1.core core
    let off := (y.getC a).toNat
    let inv := firstPart c.valid false off 64
    off + 64 ≤ 0x60000 → off % 64 = 0 → s1.unitCond y (y.level .c) true core (some s.cur.seat) (off / 4096) = .ok →
    WFine s1 core y.vf (y.getC b) 64 64 → s1.firstStalled y .c = true →
    (∀ o ∈ s.acc, o.job = y.job → o.eng = .c → o.storesSp = false) →
    firstPart c.poison true off 64 = none → (y.ut = true → inv = none) → y.wbuf = [] → s1.tagBusy y.job tag = false → c.wreqs.length < 16 →
    let r : WReq := { id := s.nextId, job := y.job, vf := y.vf, part := y.part, seat := s.cur.seat, tag := tag,
                      row := (y.getC b).toNat % 2 ^ 27 / 64, addr := y.getC b, data := BitVec.ofNat 512 (leNat (s1.readLoc (.sp core off) 64)) }
    let s2 := { s1 with nextId := s.nextId + 1 }.setCore core { c with wreqs := c.wreqs ++ [r] }
    exec (.wprog a b tag) s = .next (State.done
      (match inv with | some p => s2.log core s.cur.seat ⟨5, false, 0, y.cid, 0, BitVec.ofNat 64 p⟩ | none => s2)
      { y with tagbits := y.tagbits &&& ~~~ (bit64 tag), status := y.status.put tag 0, wpstat := y.wpstat.put tag ⟨1, 0⟩ } .next false)

/-- R309, R311: WPROG_COMPLETE of a finished request, whose record is complete, completes its tag with status OK, in the bank of its job,
and the request is gone; a failed one waits until its WPFAIL record stands in the trap registers. WPFAIL's record, which is taken at an
instruction boundary of C, goes to the trap registers, with the position of C, or waits while a trap is handled. -/
def Claim.WeightRequestsEnd : Prop :=
  ∀ (s : State) (r : WReq) (bc bs : Nat) (b : Bank), (s.core s.cur.core).wreqs[s.cur.ev.idx]? = some r →
    s.findJob r.job = some (.live bc bs, b) → s.bank bc bs = some b →
    let core := s.cur.core
    (r.out = 2 ∨ r.out = 3 → s.images = [] → ∃ t, exec .wprogComplete s = .next t ∧
      t.bank bc bs = some (b.completeTag r.tag 0) ∧
      (t.core core).wreqs = (s.core core).wreqs.filter (·.id != r.id) ∧ t.dram = s.dram) ∧
    (r.out = 1 ∨ (r.out = 4 ∧ (r.recorded = false ∨ ∃ z ∈ b.waiting, z.wpfail = some r.id)) → exec .wprogComplete s = .next s) ∧
    let boundary := b.handler = true ∨ (b.swapping = false ∧ b.cS.s2stall = none ∧ ∀ v, b.cS.stage ≠ .answered v)
    (r.out = 4 → r.recorded = false → ¬ boundary → exec .wpfail s = .next s) ∧
    (r.out = 4 → r.recorded = false → b.ended = false → b.hring.len ≠ 0 → boundary → ∃ t z, exec .wpfail s = .next t ∧
      t.bank bc bs = some z ∧ { t with cores := s.cores, images := s.images } = s ∧ (t.core core).wreqs.map (·.id) = (s.core core).wreqs.map (·.id) ∧
      (b.handling = false → z.handling = true ∧ z.trap.cause = BitVec.ofNat 64 0x18 ∧ z.trap.addr = r.addr ∧
        z.trap.c = BitVec.ofNat 64 b.cS.pc ∧ z.trap.npc = BitVec.ofNat 64 b.cS.npc ∧ z.trap.strm = 0) ∧
      (b.handling = true → z.trap = b.trap ∧ z.waiting.length = b.waiting.length + 1) ∧
      { z with trap := b.trap, handling := b.handling, waiting := b.waiting, wfe := b.wfe } = b)

/-- R305 to R307, R309, R312: WEIGHT_UPDATE starts a row: its alternate row, whose wear rises; a worn one is first replaced by a spare row, the
next in ascending order by the model's choice (log entry 8), with a REMAP entry in the log; with no spare left, or no version left,
the request fails, and its record says so at once. -/
def Claim.WeightRowStarts : Prop :=
  ∀ (s : State) (r : WReq), MayProgram s r → r.target = none →
    let core := s.cur.core
    let sl := s.slice core
    let m := sl.entry r.row
    let worn := sl.wlim ≤ (sl.phys.get m.alt {}).wear ∨ (sl.phys.get m.alt {}).failed = true
    let more (p : PhysRow) : PhysRow := { p with wear := Nat.min (p.wear + 1) (2 ^ 20 - 1) }
    (m.version ≥ 2 ^ 32 - 1 ∨ (worn ∧ sl.spares = 0) → exec .weightUpdate s =
      .next ((s.setWReq core { r with out := 4, begun := true }).mapJob r.job fun b => { b with wpstat := b.wpstat.put r.tag ⟨4, 0⟩ })) ∧
    (m.version < 2 ^ 32 - 1 → ¬ worn → exec .weightUpdate s = .next
      ((s.setSlice core { sl with phys := sl.phys.put m.alt (more (sl.phys.get m.alt {})) }).setWReq core { r with target := some m.alt, begun := true })) ∧
    (m.version < 2 ^ 32 - 1 → worn → 0 < sl.spares → ∃ t, exec .weightUpdate s = .next t ∧
      (t.slice core).entry r.row = { m with alt := sl.nextSpare } ∧ (t.slice core).spares = sl.spares - 1 ∧
      (t.slice core).nextSpare = sl.nextSpare + 1 ∧
      (t.slice core).phys.get sl.nextSpare {} = more (sl.phys.get sl.nextSpare {}) ∧
      (∀ row, row ≠ r.row → (t.slice core).entry row = sl.entry row) ∧ t.dram = s.dram ∧
      ({ r with target := some sl.nextSpare, remapped := true, begun := true } : WReq) ∈ (t.core core).wreqs)

/-- R305, R306, R309: the end of a row's programming. It fails, and the target has failed; or the target holds the data under the row's next
version, the map switches to it as one action, the region is dirty, and the request's record is complete: the weight port then gives the
data written, when the region has a key. The map entries of the other rows are as before. -/
def Claim.WeightRowEnds : Prop :=
  ∀ (s : State) (r : WReq) (tgt : Nat), MayProgram s r → r.target = some tgt →
    let core := s.cur.core
    let sl := s.slice core
    let m := sl.entry r.row
    ∃ t, exec .weightUpdate s = .next t ∧ t.dram = s.dram ∧
      (∀ row, row ≠ r.row → (t.slice core).entry row = sl.entry row) ∧
      (∀ p, p ≠ tgt → (t.slice core).phys.get p {} = sl.phys.get p {}) ∧
      ((Config.free s.ctr % 2 = 1 → (t.slice core).entry r.row = m ∧ ((t.slice core).phys.get tgt {}).failed = true ∧
          ({ r with target := none } : WReq) ∈ (t.core core).wreqs ∧ ∀ c i, t.bank c i = s.bank c i) ∧
       (Config.free s.ctr % 2 = 0 → (t.slice core).entry r.row = ⟨tgt, m.cur, m.version + 1⟩ ∧
          (∀ i q, sl.region? (64 * r.row) = some (i, q) → (s.key q.key).isSome = true → t.rowPlain core r.row = some r.data) ∧
          (∀ i q, sl.region? (64 * r.row) = some (i, q) → (t.slice core).region? (64 * r.row) = some (i, { q with dirty := true })) ∧
          ∃ q ∈ (t.core core).wreqs, q.id = r.id ∧ q.out = (if r.remapped then 3 else 2) ∧ q.target = none ∧
            ∀ c i, t.bank c i = (s.bank c i).map fun b =>
              if b.job = r.job then { b with wpstat := b.wpstat.put r.tag ⟨q.out, q.iter⟩ } else b))

/-- WPROG requests are accepted, their rows programmed, and completed. -/
def Obligations.WeightRequests : Prop := Claim.WeightRequests ∧ Claim.WeightRequestsEnd ∧ Claim.WeightRowStarts ∧ Claim.WeightRowEnds

/-! ## WPSTAT, WWEAR, WRMAP and WSEAL -/

/-- R312, R313: WPSTAT reads the record of a tag; WWEAR the wear limit and the wear of the alternate and the current row, WRMAP the spares and
the version of the row of a weight address in a region of the VF. Other operands raise ILLEGAL with TRAPADDR = a. -/
def Claim.WeightReads : Prop :=
  ∀ (s : State) (x y : Bank) (d a : CReg), Ready s { mo := true, regs := [d, a] } x y →
    let v := y.getC a
    let core := s.cur.core
    let sl := s.slice core
    let m := sl.entry (v.toNat % 2 ^ 27 / 64)
    let w (p : Nat) : Nat := (sl.phys.get p {}).wear
    let spare (p : Nat) : Nat := if 0x140000 ≤ p ∧ p < 0x160000 then 1 else 0
    let bad (i : Instr) : Prop := exec i s = .next (s.stops y { cause := .illegal, addr := v })
    (v.toNat < 64 → exec (.wpstat d a) s = .next (s.done (y.setC d (BitVec.ofNat 64
      ((y.wpstat.get v.toNat ⟨0, 0⟩).out * 2 ^ 32 + (y.wpstat.get v.toNat ⟨0, 0⟩).iter % 2 ^ 32))) .next false)) ∧
    (64 ≤ v.toNat → bad (.wpstat d a)) ∧
    (∀ i r, InRegion s y.vf v i r →
      exec (.wwear d a) s = .next (s.done (y.setC d (BitVec.ofNat 64 (sl.wlim * 2 ^ 40 + w m.alt * 2 ^ 20 + w m.cur))) .next false) ∧
      exec (.wrmap d a) s = .next (s.done (y.setC d (BitVec.ofNat 64
        (spare m.alt * 2 ^ 53 + spare m.cur * 2 ^ 52 + sl.spares * 2 ^ 32 + m.version))) .next false)) ∧
    ((∀ i r, ¬ InRegion s y.vf v i r) → bad (.wwear d a) ∧ bad (.wrmap d a))

/-- R314: WSEAL takes its place behind the requests accepted before it; once none of its region is left, the region's digest is that of its
rows and the region is clean. -/
def Claim.WeightSeals : Prop :=
  ∀ (s : State) (x y : Bank) (a : CReg) (i : Nat) (r : Region), Ready s { mo := true, regs := [a] } x y → InRegion s y.vf (y.getC a) i r →
    let core := s.cur.core
    let s1 := s.waited y
    let c := s1.core core
    let sl := s.slice core
    (c.seals.find? (·.job == y.job) = none → exec (.wseal a) s = .next (({ s1 with nextId := s.nextId + 1 }.setCore core
      { c with seals := c.seals ++ [Seal.mk y.job i s.nextId] }).setBank core s.cur.seat (s.issueSignal y))) ∧
    (∀ z, c.seals.find? (·.job == y.job) = some z →
      (∀ q ∈ c.wreqs, ((sl.region? (64 * q.row)).map (·.1)) = some i → z.order ≤ q.id) →
      exec (.wseal a) s = .next (((s1.setSlice core { sl with
          regions := sl.regions.put i { r with digest := sha512 (sl.sealBytes core r), dirty := false } }).setCore core
        { c with seals := c.seals.filter (·.job != y.job) }).done y .passed false))

/-- WPSTAT, WWEAR, WRMAP and WSEAL. -/
def Obligations.WeightReadsAndSeals : Prop := Claim.WeightReads ∧ Claim.WeightSeals

/-! ## Taking a trap, entering the handler, and the trap instructions -/

/-- R253, R317, R319 steps 1 and 2, R321: a trap of a stream in a bank with a handler (of C not in handler mode): the stream stops at its
instruction; the trap registers take its position, cause, address, stream and flags, or, while a trap is handled, a record waits.
Nothing else of the machine changes but the event latch and, in M, the instruction's place among those that wait for heat tokens. -/
def Claim.TakingATrap : Prop :=
  ∀ (s : State) (b : Bank) (t : Trap), b.hring.len ≠ 0 → ¬ (s.cur.eng = .c ∧ b.handler = true) → t.pfk < 8 → t.prog < 2 ^ 32 →
    let e := s.cur.eng
    let c := b.ctl e
    ∃ b', s.trapped b t = (if e = .m then s.dropTokWait b.job (· == 0) else s).setBank s.cur.core s.cur.seat b' ∧ (b'.ctl e).trapped = true ∧ b'.wfe = true ∧ b'.handling = true ∧
      (b.handling = false → b'.waiting = b.waiting ∧ b'.trap.c = BitVec.ofNat 64 c.pc ∧
        b'.trap.npc = BitVec.ofNat 64 (if e = .c then c.npc else if t.past = true then (b.ring e).next c.pc else c.pc) ∧
        b'.trap.cause = BitVec.ofNat 64 t.cause.code ∧ b'.trap.addr = t.addr ∧ b'.trap.strm = BitVec.ofNat 64 e.idx ∧
        b'.trap.fl.toNat / 2 ^ 32 = t.prog ∧ b'.trap.fl.toNat / 2 ^ 8 % 2 ^ 24 = t.pfk ∧ b'.trap.fl.toNat / 4 % 64 = 0 ∧
        b'.trap.fl.getLsbD 1 = (c.wd && s.cur.ann.wait.isClr && t.cause != .dsbranch) ∧ b'.trap.fl.getLsbD 0 = (e == .c && c.ds)) ∧
      (b.handling = true → b'.trap = b.trap ∧ ∃ r, b'.waiting = b.waiting ++ [r] ∧ r.strm = e ∧ r.cause = t.cause.code ∧ r.pc = c.pc ∧
        r.addr = t.addr) ∧
      { b'.setCtl e { b'.ctl e with trapped := c.trapped, scrub := c.scrub } with
        trap := b.trap, handling := b.handling, waiting := b.waiting, wfe := b.wfe } = b

/-- R319 steps 3 and 4, R320: TRAP_DIVERSION, when C may be diverted: C's position is kept and it enters handler mode at word 0 of HRING; no
other register changes and no byte of memory. When it may not be, nothing changes. -/
def Claim.HandlerEntry : Prop :=
  ∀ (s : State), ((∀ b, s.bank s.cur.core s.cur.seat = some b → b.canDivert = false) → exec .trapDiversion s = .next s) ∧
    ∀ b, s.bank s.cur.core s.cur.seat = some b → b.handling = true → b.handler = false → b.stopped = false → b.ended = false →
      b.swapping = false → b.frozen = none → b.cS.s2stall = none → (∀ v, b.cS.stage ≠ .answered v) →
      ∃ t b', exec .trapDiversion s = .next t ∧ t.bank s.cur.core s.cur.seat = some b' ∧ (∀ l n, t.readLoc l n = s.readLoc l n) ∧
        b'.handler = true ∧ b'.cS.pc = b.hring.base ∧ b'.cS.npc = b.hring.next b.hring.base ∧ b'.cS.trapped = false ∧ b'.cS.ds = false ∧
        b'.cS.wd = false ∧ b'.cS.stage = .fresh ∧ b'.cS.scrub = none ∧ b'.level .c = (if b.lvl = .u then .s else b.lvl) ∧ b'.cS.fetched = [] ∧
        (∃ k, b'.kept = some k ∧ k.pc = b.cS.pc ∧ k.npc = b.cS.npc ∧ k.ds = b.cS.ds ∧ k.wd = b.cS.wd ∧ k.started = b.cS.started ∧
          k.done = b.cS.done) ∧
        { b' with handler := b.handler, kept := b.kept, cS := b.cS } = b

/-- R324, R258: TRAP raises SWTRAP and BRK raises BRK, with TRAPADDR = the code; TRAPNPC of a BRK is the next word. In M both wait for the
k-steps of the products it has issued past (the model's reading: log entry 97). -/
def Claim.TrapInstructions : Prop :=
  ∀ (s : State) (x y : Bank) (code : BitVec 16), Ready s {} x y →
    exec (.trap code) s = .next (s.stops y { cause := .swtrap, addr := code.setWidth 64 }) ∧
    exec (.brk code) s = .next (s.stops y { cause := .brk, addr := code.setWidth 64, past := decide (s.cur.eng ≠ .c) })

/-- Taking a trap, entering the handler, and the trap instructions. -/
def Obligations.TrapEntry : Prop := Claim.TakingATrap ∧ Claim.HandlerEntry ∧ Claim.TrapInstructions

/-! ## Traps that stop a seat, and the return from a handler -/

/-- R253, R322: a trap of C in handler mode, or in a bank without a handler, stops the seat: no stream of it runs any more, nothing of it waits
for heat tokens, and a SEATSTOP report goes to the VF's mailbox at level U, else to that of the PF. -/
def Claim.SeatStops : Prop :=
  ∀ (s : State) (b : Bank) (t : Trap), (s.cur.eng = .c ∧ b.handler = true) ∨ b.hring.len = 0 →
    let r := b.trapRec s.cur.eng t s.cur.ann.wait.isClr
    let rep : Report := { type := 5, strm := s.cur.eng.idx, cid := b.part * 128 + b.vf, seat := 4 * s.cur.core + s.cur.seat, a1 := r.pc,
                          a2 := t.addr.toNat, detail := t.cause.code + s.cur.eng.idx * 256 }
    let s0 := s.dropTokWait b.job fun _ => true
    ∃ b', s.trapped b t = (if b.lvl = .u then (s0.setBank s.cur.core s.cur.seat b').reportVf b.vf rep
        else (s0.setBank s.cur.core s.cur.seat b').reportPf rep) ∧ b'.stopped = true ∧ ∀ e, b'.mayRun e = false

/-- R321, R323: RTE of the stream that TRAPSTRM names, in handler mode: handler mode ends, and no byte of memory and no general register
changes. RTE 0 sets C to TRAPC and TRAPNPC with DS and WD of TRAPFL; RTE of another stream sets C back to its kept position and
that stream to TRAPNPC; with END the job's streams are done. The next waiting record is then handled, or none is. Any other RTE
raises ILLEGAL with TRAPADDR = k. -/
def Claim.ReturnFromTrap : Prop :=
  ∀ (s : State) (x y : Bank) (k : Fin 8), Ready s { lvl := .s, ctl := true } x y → s.cur.eng = .c →
    let kv := BitVec.ofNat 64 k.val
    (y.handler = false ∨ 5 ≤ k.val ∨ y.trap.strm ≠ kv →
      exec (.rte k) s = .next (s.stops y { cause := .illegal, addr := kv })) ∧
    (y.handler = true → k.val < 5 → y.trap.strm = kv → ∃ (s' : State) (b' : Bank), exec (.rte k) s = .next (s'.done b' .set false) ∧
      (∀ l n, s'.readLoc l n = s.readLoc l n) ∧ sameRegs b' y ∧ b'.handler = false ∧ b'.kept = none ∧
      (y.trap.fl.getLsbD 11 = true → b'.ended = true ∧ b'.handling = false ∧ ∀ e, (b'.ctl e).done = true ∧ (b'.ctl e).trapped = false) ∧
      (y.trap.fl.getLsbD 11 = false →
        (k.val = 0 → b'.cS.pc = y.trap.c.toNat ∧ b'.cS.npc = y.trap.npc.toNat ∧ b'.cS.trapped = false ∧
          b'.cS.ds = y.trap.fl.getLsbD 0 ∧ b'.cS.wd = y.trap.fl.getLsbD 1) ∧
        (∀ e, k.val ≠ 0 → Engine.ofIdx k.val = some e →
          (∀ p, y.kept = some p → b'.cS.pc = p.pc ∧ b'.cS.npc = p.npc ∧ b'.cS.ds = p.ds ∧ b'.cS.wd = p.wd ∧
            b'.cS.started = p.started ∧ b'.cS.done = p.done) ∧ (b'.ctl e).trapped = false ∧
          (e ≠ .m → (b'.ctl e).pc = y.trap.npc.toNat)) ∧
        (y.waiting = [] → b'.handling = false ∧ b'.trap = y.trap) ∧
        (∀ r rs, y.waiting = r :: rs → b'.handling = true ∧ b'.waiting = rs ∧ b'.trap.cause = BitVec.ofNat 64 r.cause ∧
          b'.trap.addr = r.addr ∧ b'.trap.strm = BitVec.ofNat 64 r.strm.idx)))

/-- Traps that stop a seat, and the return from a handler. -/
def Obligations.TrapReturn : Prop := Claim.SeatStops ∧ Claim.ReturnFromTrap

/-! ## ERRPOP, translation maintenance, monitors and events -/

/-- R329 to R331: ERRPOP gives the oldest entry of the core's log that the level may see, low word in d and high word in d + 1, and takes it out;
with none, both are 0. The high word holds KIND, SPEC, STRM, seat, core, containment ID and DETAIL at their places. -/
def Claim.ErrorLogReads : Prop :=
  (∀ (s : State) (x y : Bank) (d : CReg), Ready s { lvl := .s, regs := [d, CReg.next d] } x y →
    let c := (s.waited y).core s.cur.core
    let ok (n : Nat) : Bool := y.level .c == .h || n % 128 == y.vf
    ((∀ i : Fin 4, (∀ z ∈ c.log[i].entries, ok z.2.cid = false) ∧ (c.log[i].dropped ≠ 0 → ok c.log[i].dropCid = false)) →
      exec (.errpop d) s = .next (s.done ((y.setC d 0).setC (CReg.next d) 0) .next false)) ∧
    (∀ (i : Fin 4) (n : Nat) (z : LogEntry) (rest : List (Nat × LogEntry)), c.log[i].entries = (n, z) :: rest → ok z.cid = true →
      (∀ w ∈ rest, w.1 ≠ n) →
      (∀ j : Fin 4, j ≠ i → (∀ w ∈ c.log[j].entries, ok w.2.cid = true → n < w.1) ∧
        (c.log[j].dropped ≠ 0 → ok c.log[j].dropCid = true → n < c.log[j].dropOrder)) →
      exec (.errpop d) s = .next (((s.waited y).setCore s.cur.core { c with log := c.log.set i { c.log[i] with entries := rest } }).done
        ((y.setC d z.addr).setC (CReg.next d) (z.high s.cur.core i)) .next false))) ∧
  ∀ (z : LogEntry) (core seat : Nat), z.kind < 64 → z.strm < 8 → z.cid < 2 ^ 12 → core < 2 ^ 11 → seat < 4 →
    let v := (z.high core seat).toNat
    v / 2 ^ 58 = z.kind ∧ v / 2 ^ 57 % 2 = (if z.spec = true then 1 else 0) ∧ v / 2 ^ 54 % 8 = z.strm ∧ v / 2 ^ 52 % 4 = seat ∧
      v / 2 ^ 41 % 2 ^ 11 = core ∧ v / 2 ^ 29 % 2 ^ 12 = z.cid ∧ v % 2 ^ 29 = z.detail % 2 ^ 29

/-- R340, R341: TLBI and TLBIA, once C's stores are performed, drop the TLB entries of the VF, TLBI those of a's page; GPAFL drops the LLC
lines of its range. The instruction ends when accesses in flight that it is to wait for are performed: for TLBI and TLBIA all those of the
VF that were posted before it (the model's choice, log entry 31: R340 names those that used a removed entry or an earlier walk). TLBI of an
address that is not canonical raises ILLEGAL. -/
def Claim.TranslationMaintenance : Prop :=
  ∀ (s : State) (x y : Bank),
    let s1 := s.waited y
    let ends (i : Instr) (s2 : State) (busy : Nat → Loc → Prop) : Prop :=
      (y.cS.stage = .fresh → Quiet s s.nextId busy → exec i s = .next (s2.done y .next false)) ∧
      (y.cS.stage = .fresh → ¬ Quiet s s.nextId busy → exec i s =
        .next (s2.setBank s.cur.core s.cur.seat { s.issueSignal y with cS := { (s.issueSignal y).cS with stage := .posted s.nextId } })) ∧
      (∀ n, y.cS.stage = .posted n → Quiet s n busy → exec i s = .next (s.done y .passed false)) ∧
      (∀ n, y.cS.stage = .posted n → ¬ Quiet s n busy → exec i s = .next s1.blockedAt)
    ((∀ a ∈ s.acc, a.job = y.job → a.eng = .c → ∀ z ∈ a.elems, z.write = true → z.done = true) →
      (∀ a, Ready s { lvl := .s, regs := [a] } x y → (y.getC a).toNat / 2 ^ 54 = 0 ∨ (y.getC a).toNat / 2 ^ 54 = 1023 →
        ends (.tlbi a) { s1 with tlb := s.tlb.filter fun t => !(t.vf == y.vf && t.va == vaPage (y.getC a) t.big) } (fun vf _ => vf = y.vf)) ∧
      (Ready s { lvl := .s } x y → ends .tlbia { s1 with tlb := s.tlb.filter fun t => !(t.vf == y.vf) } (fun vf _ => vf = y.vf))) ∧
    (∀ a, Ready s { lvl := .s, regs := [a] } x y → y.cS.stage = .fresh →
      ¬ ((y.getC a).toNat / 2 ^ 54 = 0 ∨ (y.getC a).toNat / 2 ^ 54 = 1023) →
      exec (.tlbi a) s = .next (s.stops y { cause := .illegal, addr := y.getC a })) ∧
    (∀ a part lo n, Ready s { lvl := .h, regs := [a] } x y →
      let v := (y.getC a).toNat
      part < 20 → (s.part part).valid = true → v / 2 ^ 52 = part → v % 2 ^ 15 = 0 →
      (if v / 2 ^ 15 % 2 = 1 then v / 2 ^ 16 % 2 ^ 13 = 0 ∧ lo = v / 2 ^ 29 % 2 ^ 23 * 2 ^ 29 ∧ n = 2 ^ 29
       else lo = v / 2 ^ 16 % 2 ^ 36 * 2 ^ 16 ∧ n = 2 ^ 16) →
      ends (.gpafl a) { s1 with llc := s.llc.filter fun l => !(l.part == part && (lo ≤ l.gpa && l.gpa < lo + n)) }
        (fun _ l => ∃ m g pa key, l = .mem part m g pa key ∧ lo ≤ g ∧ g < lo + n))

/-- R342, R343: MONRD writes the sensor's value, of 16 bits or, for kind 3, of 32 bits (the value is free), for a unit of the partition
or at level H; WFE goes on when its latch is set, and clears it, else it waits. -/
def Claim.MonitorsAndEvents : Prop :=
  ∀ (s : State) (x y : Bank),
    (∀ d a, Ready s { lvl := .s, regs := [d, a] } x y →
      let v := (y.getC a).toNat
      let kind := v / 2 ^ 12
      let unit := v % 2 ^ 12
      let fine := v < 2 ^ 14 ∧ (if kind < 2 then unit < 1536 else unit < 96) ∧
        (y.level .c = .h ∨ (s.part y.part).clusters.getLsbD (if kind < 2 then unit / 16 else unit) = true)
      (fine → ∃ w, w < 2 ^ (if kind = 3 then 32 else 16) ∧
        exec (.monrd d a) s = .next (State.done { s.waited y with ctr := s.ctr + 1 } (y.setC d (BitVec.ofNat 64 w)) .next false)) ∧
      (¬ fine → exec (.monrd d a) s = .next (s.stops y { cause := .illegal, addr := y.getC a }))) ∧
    (Ready s {} x y →
      (y.wfe = true → exec .wfe s = .next (s.done { y with wfe := false } .next false)) ∧
      (y.wfe = false → exec .wfe s = .next ((s.waited y).blockedAt)))

/-- ERRPOP, translation maintenance, monitors and events. -/
def Obligations.Maintenance : Prop := Claim.ErrorLogReads ∧ Claim.TranslationMaintenance ∧ Claim.MonitorsAndEvents

/-! ## SWAPB exchanges a seat's banks -/

/-- R336, R339: SWAPB of a seat that it accepts issues, stops the seat's streams, and exchanges the seat's banks once the shadow is not being
loaded and the outgoing streams have finished: a loaded bank goes live, an empty one leaves the seat empty; the outgoing bank is the
shadow, with its registers, and its background save begins. A selector it does not accept raises ILLEGAL, and so does a SWAPB while BLST
records another operation in progress, with TRAPADDR = BLST (that R339 holds of SWAPB too is the model's reading). -/
def Claim.BankSwaps : Prop :=
  ∀ (s : State) (x y : Bank) (a : CReg), Ready s { lvl := .s, regs := [a] } x y → s.cur.eng = .c → s.cur.seat < 4 →
    let s1 := s.waited y
    let core := s.cur.core
    let w := y.getC a
    let t := w.toNat % 4
    let seat := (s1.core core).seat t
    (y.cS.stage ≠ .second → ¬ seatFine s1 y w → exec (.swapb a) s = .next (s.stops y { cause := .illegal, addr := w })) ∧
    (y.cS.stage ≠ .second → seatFine s1 y w → y.blst.act = true →
      exec (.swapb a) s = .next (s.stops y { cause := .illegal, addr := y.blst.word })) ∧
    (y.cS.stage ≠ .second → seatFine s1 y w → y.blst.act = false → exec (.swapb a) s = .next (s1.setBank core s.cur.seat
      { s.issueSignal y with swapping := true, cS := { (s.issueSignal y).cS with stage := .second },
                             blst := { y.blst with act := true, fail := false, tseat := t, op := 2 } })) ∧
    (∀ b, y.cS.stage = .second → seat.shadow = .loading b → exec (.swapb a) s = .next s1.blockedAt) ∧
    (∀ o, y.cS.stage = .second → (∀ b, seat.shadow ≠ .loading b) → seat.live = some o → o.frozen = none →
      (o.swapping = true → t = s.cur.seat) → exec (.swapb a) s = .next (s1.setBank core t { o with frozen := some y.job }).blockedAt) ∧
    (∀ o, y.cS.stage = .second → (∀ b, seat.shadow ≠ .loading b) → seat.live = some o → o.frozen = some y.job → o.steals = [] →
      s1.winding o = false → ∃ u out, exec (.swapb a) s = .next u ∧ ((u.core core).seat t).shadow = .loaded out ∧ sameRegs out o ∧
        out.job = o.job ∧ out.saving = true ∧ out.aS.pc = o.aS.pc ∧ out.vS.pc = o.vS.pc ∧ out.dS.pc = o.dS.pc ∧ out.trap = o.trap ∧
        (seat.shadow = .empty → ((u.core core).seat t).live = none) ∧
        (∀ n, seat.shadow = .loaded n → n.job ≠ o.job → ∃ n', ((u.core core).seat t).live = some n' ∧ sameRegs n' n ∧ n'.job = n.job ∧
          n'.cS.pc = n.cS.pc ∧ n'.wfe = false))

/-- SWAPB exchanges a seat's banks. -/
def Obligations.BankSwapping : Prop := Claim.BankSwaps

/-! ## BANKLD, BANKST and the saves of banks -/

/-- R338, R339: BANKLD and BANKST check the address and the seat; a BANKLD begins when the image's INFLIGHT is 0, with the shadow LOADING, a BANKST
when the shadow's save is over, and gives up at once a bank that is saved there, with PROG = 0 (the model's reading: log entry 67). They go on
when BLST records the operation's success; its failure raises ILLEGAL with TRAPADDR = va; so does, with TRAPADDR = BLST, one that is not
the operation in progress. -/
def Claim.BankTransfersIssue : Prop :=
  ∀ (s : State) (x y : Bank) (a b : CReg), Ready s { lvl := .s, regs := [a, b] } x y →
    let s1 := s.waited y
    let va := y.getC a
    let w := y.getC b
    let t := w.toNat % 4
    let seat := (s1.core s.cur.core).seat t
    let stop (i : Instr) (c : Cause) (at_ : Word) : Prop := exec i s = .next (s.stops y { cause := c, addr := at_ })
    (va.toNat % 65536 ≠ 0 → stop (.bankld a b) .misalign va ∧ stop (.bankst a b) .misalign va) ∧
    (va.toNat % 65536 = 0 → ¬ seatFine s1 y w → stop (.bankld a b) .illegal w ∧ stop (.bankst a b) .illegal w) ∧
    (va.toNat % 65536 = 0 → seatFine s1 y w → y.blst.act = true →
      (y.blst.op ≠ 1 ∨ y.blst.tseat ≠ t → stop (.bankld a b) .illegal y.blst.word) ∧
      (y.blst.op ≠ 3 ∨ y.blst.tseat ≠ t → stop (.bankst a b) .illegal y.blst.word)) ∧
    (va.toNat % 65536 = 0 → seatFine s1 y w → y.blst.act = false →
      (y.cS.stage = .second → y.blst.tseat = t → y.blst.step = y.blst.op →
        (y.blst.op = 1 → y.blst.fail = false → exec (.bankld a b) s = .next (s.done y .passed false)) ∧
        (y.blst.op = 3 → y.blst.fail = false → exec (.bankst a b) s = .next (s.done y .passed false)) ∧
        (y.blst.fail = true →
          let b2 := { y with cS := { y.cS with stage := .fresh } }
          let failed (i : Instr) : Prop :=
            exec i s = .next (s.stopsAs y (s1.setBank s.cur.core s.cur.seat b2) b2 { cause := .illegal, addr := va })
          (y.blst.op = 1 → failed (.bankld a b)) ∧ (y.blst.op = 3 → failed (.bankst a b)))) ∧
      (y.cS.stage = .fresh →
        (seat.shadow ≠ .empty → stop (.bankld a b) .illegal w) ∧
        (∀ l s2, seat.shadow = .empty → s1.imageLine (y.vaCtx s.cur.core .c) va false = (.ok l, s2) → leNat ((s2.readLoc l 12).drop 8) = 0 →
          ∃ u o, exec (.bankld a b) s = .next u ∧ u.bankOps = s2.bankOps ++ [o] ∧ o.load = true ∧ o.issuer = y.job ∧ o.tseat = t ∧ o.va = va ∧
            ((u.core s.cur.core).seat t).shadow = .loading none) ∧
        (∀ l s2, seat.shadow = .empty → s1.imageLine (y.vaCtx s.cur.core .c) va false = (.ok l, s2) → leNat ((s2.readLoc l 12).drop 8) ≠ 0 →
          exec (.bankld a b) s = .next s1.blockedAt) ∧
        (seat.shadow = .empty → stop (.bankst a b) .illegal w) ∧
        (∀ o, seat.shadow = .loaded o → o.saving = false → va = o.saveva → o.saved = true → exec (.bankst a b) s = .next ((s1.setShadow
          s.cur.core t .empty).done { y with blst := { y.blst with prog := 0, fail := false, tseat := t, op := 3, step := 3 } } .next false)) ∧
        (∀ o, seat.shadow = .loaded o → o.saving = false → ¬ (va = o.saveva ∧ o.saved = true) →
          ∃ u p, exec (.bankst a b) s = .next u ∧ u.bankOps = s.bankOps ++ [p] ∧ p.load = false ∧ p.issuer = y.job ∧ p.tseat = t ∧
            p.va = va ∧ p.subject = o.job)))

/-- R337, R338: the end of a bank operation or of a background save whose 64 units are moved: a BANKST or a save writes the header last, and the
shadow is empty, or saved; a BANKLD whose bytes no accepted image agrees with fails and leaves the shadow empty; one with an image
gives its bank, which goes live in an empty seat. The model's readings: that it goes live at once (log entry 66), and that no bank
is loaded outside its VF's present partition (log entry 116). -/
def Claim.BankTransfersEnd : Prop :=
  (∀ (s s1 : State) (o : BankOp) (p : Place) (b : Bank), s.bankOps[s.cur.ev.idx]? = some o → s.findJob o.issuer = some (p, b) →
    o.fault = none → o.s2stall = none → o.refused = none → 64 ≤ b.blst.prog →
    let fits (im : SaveImage) : Bool := o.cands.contains im.n && (o.lvl == .h || (im.bank.vf == o.vf && im.bank.part == o.part)) &&
      im.bank.lvl.le o.lvl && im.bank.part == (s.vf im.bank.vf).partition && s.coreInPart o.core im.bank.part
    (o.load = true → (∀ im ∈ s.images, fits im = false) →
      exec .bankOperationDone s = .next ((s.setShadow o.core o.tseat .empty).endOp o true)) ∧
    (∀ im, o.load = true → s.images.find? fits = some im → im.old = false → im.bank.job ≠ o.issuer →
      ∃ t c, exec .bankOperationDone s = .next t ∧ sameRegs c im.bank ∧ c.job = im.bank.job ∧ c.saveva = o.va ∧
        (s.bank o.core o.tseat = none → t.bank o.core o.tseat = some c ∧ ((t.core o.core).seat o.tseat).shadow = .empty) ∧
        (∀ z, s.bank o.core o.tseat = some z → ((t.core o.core).seat o.tseat).shadow = .loaded c)) ∧
    (∀ z l, o.load = false → ((s.core o.core).seat o.tseat).shadow = .loaded z → z.job = o.subject →
      s.imageLine o.ctx o.va true = (.ok l, s1) → ∃ t, exec .bankOperationDone s = .next t ∧
        ((t.core o.core).seat o.tseat).shadow = .empty ∧ (∃ im ∈ t.images, im.bank.job = z.job ∧ sameRegs im.bank z ∧ im.old = false))) ∧
  ∀ (s s1 : State) (b : Bank) (l : Loc), ((s.core s.cur.core).seat s.cur.seat).shadow = .loaded b → b.saving = true → b.saveStall = none →
    64 ≤ b.saveProg → s.imageLine (b.saveCtx s.cur.core) b.saveva true = (.ok l, s1) →
    ∃ t, exec .backgroundSaveDone s = .next t ∧
      ((t.core s.cur.core).seat s.cur.seat).shadow = .loaded { b with saving := false, saved := true }

/-- BANKLD, BANKST and the saves of banks. -/
def Obligations.BankTransfers : Prop := Claim.BankTransfersIssue ∧ Claim.BankTransfersEnd

/-! ## Key slots, and the migration of a VF -/

/-- R352 to R354: KEYLD into an empty slot loads the key of a record that is well-formed and unwraps, and raises ILLEGAL at any other (what is
malformed is the model's choice: log entry 70); KEYZAP of a slot that no access in flight uses empties it, and no
LLC line and no readable weight row under it is left; else it issues and waits. Slot 0 and slots of 512 or more raise ILLEGAL. No other
slot changes. -/
def Claim.KeySlots : Prop :=
  ∀ (s : State) (x y : Bank) (a b : CReg),
    let s1 := s.waited y
    let slot := (y.getC a).toNat
    let bad (i : Instr) : Prop := exec i s = .next (s.stops y { cause := .illegal, addr := y.getC a })
    (Ready s { lvl := .h, regs := [a, b] } x y →
      (slot = 0 ∨ 512 ≤ slot ∨ (s.key slot).isSome = true → bad (.keyld a b)) ∧
      (∀ bytes s2, 0 < slot → slot < 512 → s.key slot = none → (y.getC b).toNat % 128 = 0 →
        s1.readLines y 64 2 (y.getC b) = .ok (bytes, s2) → match keyRecord (Config.packageKey s.dev.bootCount) bytes with
          | some (kind, vf, mo, key) => ∃ t : State, exec (.keyld a b) s = .next (t.done y .next false) ∧
              t.key slot = some ⟨key, kind, vf, mo, s.keyGen⟩ ∧ (∀ k, k ≠ slot → t.key k = s.key k) ∧ ∀ l n, t.readLoc l n = s.readLoc l n
          | none => exec (.keyld a b) s = .next (s.stopsAs y s2 y { cause := .illegal, addr := y.getC b }))) ∧
    (Ready s { lvl := .h, regs := [a] } x y → y.cS.stage = .fresh →
      (slot = 0 ∨ 512 ≤ slot → bad (.keyzap a)) ∧
      (0 < slot → slot < 512 → s.key slot = none → exec (.keyzap a) s = .next (s.done y .next false)) ∧
      (0 < slot → slot < 512 → s.key slot ≠ none → s1.slotBusy slot s.nextId = false →
        ∃ t : State, exec (.keyzap a) s = .next (t.done y .next false) ∧ t.key slot = none ∧ (∀ l ∈ t.llc, l.key ≠ slot) ∧
          (∀ z ∈ t.tier, ∀ r ∈ z.2.phys, ∀ u, r.2.under = some u → u.1 ≠ slot) ∧ ∀ k, k ≠ slot → t.key k = s.key k) ∧
      (0 < slot → slot < 512 → s.key slot ≠ none → s1.slotBusy slot s.nextId = true → exec (.keyzap a) s = .next (s1.setBank s.cur.core
        s.cur.seat { s.issueSignal y with cS := { y.cS with stage := .posted s.nextId } })))

/-- R361, R362: a migration's phases: the source sends the VF and waits for *ready*; the destination keeps the keys and the digest of the rest in
escrow and reports *ready*; the source erases every key of the VF; the destination, once that is done and the state has the digest, loads
the escrow into its slots and clears it; the source then is done. When the peer is lost before *ready* the source keeps the VF and the
destination drops its escrow; from then on the VF is lost on the side that loses its peer, in phase 2, or 3 after *erased*, and it and
the PF are told. What marks the phases (log entry 75), and the key records of 68 bytes and what is hashed (log entry 120), are the model's
choices. -/
def Claim.Migrations : Prop :=
  ∀ (s : State), let ev := s.cur.ev
    let v := ev.vf
    let x := s.vf v
    let lost (s' : State) (id phase : Nat) : State :=
      let r : Report := { type := 0xA, cid := s'.vfCid v, a1 := id, a2 := ev.val.toNat, detail := phase }
      ((s'.setVf v { s'.vf v with migrating := 0, lost := true }).reportVf v r).reportPf r
    let held (e : Escrow) : State := { s with dev := { s.dev with escrow := s.dev.escrow.put v e } }
    (ev.fromPf = true → ev.quad ≠ 1 → x.migrating = 0 → x.lost = false → exec .migrationTransfer s = .next
      ({ s with dev := { s.dev with outbox := s.transferOf v } }.setVf v { x with migrating := 1, migId := ev.val.toNat })) ∧
    (ev.fromPf = true → ev.quad = 1 → x.migrating = 1 → exec .migrationTransfer s = .next (s.setVf v { x with migrating := 2 })) ∧
    (ev.fromPf = false → ev.quad ≠ 1 → s.dev.escrow.find? v = none → ¬ (x.migDone = true ∧ x.migId = ev.val.toNat) →
      ∃ t e, exec .migrationTransfer s = .next t ∧
      t.dev.escrow.find? v = some e ∧ e.id = ev.val.toNat ∧ e.keys = escrowOf ev.bytes ev.idx ∧ e.ready = false ∧ e.erased = false ∧
      e.digest = sha512 (ev.bytes.drop (68 * ev.idx)) ∧ t.keys = s.keys ∧ (t.vf v).lost = false ∧ (t.vf v).migDone = false) ∧
    (ev.fromPf = false → s.dev.escrow.find? v = none → x.migDone = true → x.migId = ev.val.toNat → exec .migrationTransfer s = .next s) ∧
    (∀ e, ev.fromPf = false → s.dev.escrow.find? v = some e →
      (ev.quad = 1 → exec .migrationTransfer s = .next (held { e with ready := true })) ∧
      (ev.quad ≠ 1 → exec .migrationTransfer s = .next s) ∧
      (e.ready = true → exec .migrationErase s = .next (held { e with erased := true })) ∧
      (e.ready = false → exec .migrationErase s = .next s)) ∧
    (ev.fromPf = true → x.migrating ≠ 2 → exec .migrationErase s = .next s) ∧
    (ev.fromPf = true → x.migrating = 2 → (∀ e ∈ s.keys, e.1 ≠ 0 → e.2.vf = v → s.slotBusy e.1 s.nextId = false) →
      ∃ t, exec .migrationErase s = .next t ∧
      (∀ e ∈ t.keys, e.1 ≠ 0 → e.2.vf ≠ v) ∧ (t.vf v).migrating = 3 ∧ ∀ k, (∀ e ∈ s.keys, e.1 = k → e.2.vf ≠ v) → t.key k = s.key k) ∧
    (ev.fromPf = true → x.migrating = 3 → exec .migrationConfirm s = .next (s.setVf v { x with migrating := 0 })) ∧
    (∀ e, ev.fromPf = false → s.dev.escrow.find? v = some e →
      (e.erased = false ∨ sha512 ev.bytes ≠ e.digest → exec .migrationConfirm s = .next s) ∧
      (∀ n key kind mo, e.erased = true → sha512 ev.bytes = e.digest → e.keys = [(n, key, kind, mo)] → ∃ t, exec .migrationConfirm s = .next t ∧
        t.key n = some ⟨key, kind, v, mo, s.keyGen⟩ ∧ (∀ k, k ≠ n → t.key k = s.key k) ∧ t.dev.escrow.find? v = none ∧
        (t.vf v).migDone = true ∧ (t.vf v).migId = e.id)) ∧
    (ev.fromPf = true → x.migrating = 1 → exec .migrationLost s = .next (s.setVf v { x with migrating := 0 })) ∧
    (ev.fromPf = true → 2 ≤ x.migrating → exec .migrationLost s = .next (lost s x.migId x.migrating)) ∧
    (∀ e, ev.fromPf = false → s.dev.escrow.find? v = some e →
      let s' : State := { s with dev := { s.dev with escrow := s.dev.escrow.del v } }
      exec .migrationLost s = .next (if e.ready = true then lost s' e.id (if e.erased = true then 3 else 2) else s'))

/-- Key slots, and the migration of a VF. -/
def Obligations.KeysAndMigration : Prop := Claim.KeySlots ∧ Claim.Migrations

/-! ## Scrubs, and waits on a target that is being scrubbed -/

/-- R355: ZSCRUB of a valid descriptor puts its targets among those that refuse access, and goes on when the accesses that its targets have
accepted before are performed (the model's reading: log entry 132); a descriptor that breaks a rule, or one of units of an occupied
seat, raises ILLEGAL with TRAPADDR = a. -/
def Claim.ScrubRequests : Prop :=
  ∀ (s s2 : State) (x y : Bank) (a : CReg) (bytes : List Byte), Ready s { lvl := .h, regs := [a] } x y →
    let va := y.getC a
    let s1 := s.waited y
    (∀ w, y.cS.stage = .answered w →
      let waits := ∃ z, s.scrubs.find? (·.mark == w.toNat) = some z ∧ s.scrubWaits z = true
      (waits → exec (.zscrub a) s = .next s1.blockedAt) ∧ (¬ waits → exec (.zscrub a) s = .next (s.done y .passed false))) ∧
    (y.cS.stage = .fresh → va.toNat % 32 ≠ 0 → exec (.zscrub a) s = .next (s.stops y { cause := .illegal, addr := va })) ∧
    (y.cS.stage = .fresh → va.toNat % 32 = 0 → s1.readLines y 32 1 va = .ok (bytes, s2) →
      (scrubRecord bytes = none → exec (.zscrub a) s = .next (s.stopsAs y s2 y { cause := .illegal, addr := va })) ∧
      (∀ kind start n, scrubRecord bytes = some (kind, start, n) →
        let core := start / 128
        let z : Scrub := { kind := kind, start := start, count := n, mark := s2.nextId }
        let used := kind = 2 ∧ ∃ u seat vf, start % 128 ≤ u ∧ u < start % 128 + n ∧ (s2.core core).owner.find? u = some (seat, vf) ∧
          s2.bank core seat ≠ none
        (used → exec (.zscrub a) s = .next (s.stopsAs y s2 y { cause := .illegal, addr := va })) ∧
        (¬ used → ∃ t : State, t.scrubs = s2.scrubs ++ [z] ∧ t.dram = s.dram ∧ (∀ c, (t.core c).sp = (s.core c).sp) ∧
          (kind = 2 → ∀ u, u < 96 → ((t.core core).scrubbing.getLsbD u =
            ((s2.core core).scrubbing.getLsbD u || decide (start % 128 ≤ u ∧ u < start % 128 + n)))) ∧
          (t.scrubWaits z = false → exec (.zscrub a) s = .next (t.done y .next false)) ∧
          (t.scrubWaits z = true → exec (.zscrub a) s = .next (t.setBank s.cur.core s.cur.seat
            { s.issueSignal y with cS := { y.cS with stage := .answered (BitVec.ofNat 64 s2.nextId) } })))))

/-- R355: the end of a scrub, once what its targets had accepted is performed (the model's reading: log entry 132): banks hold none of their
lines; pages read as zeros, with no key and no poison, and bytes outside them as before; units are free and all their parts invalid, and
other units as before. -/
def Claim.ScrubsEnd : Prop :=
  ∀ (s : State) (x : Scrub) (l l' : List Scrub), s.scrubs = l ++ x :: l' → l.length = s.cur.ev.idx → x.complete = false → s.scrubWaits x = false →
    (∀ y ∈ l, y.complete = true ∨ y.overlaps x = false) → ∃ t, exec .zscrubComplete s = .next t ∧
      t.scrubs = l ++ { x with complete := true } :: l' ∧
      (x.kind = 0 → t.cores = s.cores ∧ ∀ z ∈ t.llc, ¬ (x.start ≤ Config.llcBank z.part (z.gpa / 64) ∧
        Config.llcBank z.part (z.gpa / 64) < x.start + x.count)) ∧
      (x.kind = 1 → (∀ a, t.dram.read a = if x.start ≤ a ∧ a < x.start + 65536 * x.count then 0 else s.dram.read a) ∧
        (∀ a, a % 64 = 0 → x.start ≤ a → a < x.start + 65536 * x.count → t.lineMeta a = {}) ∧ t.cores = s.cores) ∧
      (x.kind = 2 → let c := s.core (x.start / 128)
        let d := t.core (x.start / 128)
        let inside (u : Nat) : Prop := x.start % 128 ≤ u ∧ u < x.start % 128 + x.count
        (∀ u, inside u → d.owner.find? u = none) ∧ (∀ u, ¬ inside u → d.owner.find? u = c.owner.find? u) ∧
        (∀ p, p < 98304 → d.valid.getLsbD p = (c.valid.getLsbD p && !(decide (1024 * (x.start % 128) ≤ p) && decide (p < 1024 * (x.start % 128 + x.count))))) ∧
        (∀ u, u < 96 → d.scrubbing.getLsbD u = true → ∃ y ∈ l ++ l', y.complete = false ∧ y.kind = 2 ∧ y.start / 128 = x.start / 128 ∧
          y.start % 128 ≤ u ∧ u < y.start % 128 + y.count) ∧ t.dram = s.dram) ∧
      ∀ b i, t.bank b i = s.bank b i

/-- R356, R285: BANKSCRUB of a stream of C that has stalled on a refusing target for 1 ms raises the trap with the stalled address; of a copy
request but DPFA, it ends it with STATUS = BANKSCRUB; a bank operation is left with the trap for its instruction. Without such a stall
nothing happens. When the 1 ms are over is free (the model's choice: log entry 72). -/
def Claim.RefusalTimeouts : Prop :=
  ∀ (s : State), let core := s.cur.core
    let seat := s.cur.seat
    (∀ b st, s.cur.ev.idx = 0 → s.bank core seat = some b → b.stopped = false → b.ended = false → b.cS.scrub = some st →
      (s.refuses st.target = true →
        exec .bankscrub s = .next (s.raise core seat b .c (b.trapRec .c { cause := .bankscrub, addr := st.addr } b.cS.wclr))) ∧
      (s.refuses st.target = false → exec .bankscrub s = .next s)) ∧
    (∀ b, s.cur.ev.idx = 0 → s.bank core seat = some b → b.cS.scrub = none → exec .bankscrub s = .next s) ∧
    (∀ r st, s.cur.ev.idx = 4 → s.copies.find? (·.id == s.cur.ev.slot) = some r → r.refused = some st → s.refuses st.target = true →
      r.finished = false → r.kind ≠ .dpfa →
      ∃ t, exec .bankscrub s = .next t ∧ ∃ q ∈ t.copies, q.id = r.id ∧ q.status = some 11) ∧
    (∀ o st, s.cur.ev.idx = 5 → s.bankOps.find? (·.issuer == s.cur.ev.slot) = some o → o.refused = some st → s.refuses st.target = true →
      exec .bankscrub s = .next (s.setOp { o with refused := none, fault := some (12, st.addr), raised := false })) ∧
    (∀ x y o a k p, Ready s { lvl := .s, regs := [a, k] } x y → o.fault = some (12, p) → o.raised = false → s.opOf y.job = some o →
      (y.getC a).toNat % 65536 = 0 → seatFine (s.waited y) y (y.getC k) → y.blst.act = true → y.blst.tseat = (y.getC k).toNat % 4 →
      let stop (i : Instr) : Prop :=
        exec i s = .next (s.stopsAs y ((s.waited y).setOp { o with raised := true }) y { cause := .bankscrub, addr := p })
      (y.blst.op = 1 → stop (.bankld a k)) ∧ (y.blst.op = 3 → stop (.bankst a k)))

/-- Scrubs, and waits on a target that is being scrubbed. -/
def Obligations.Scrubs : Prop := Claim.ScrubRequests ∧ Claim.ScrubsEnd ∧ Claim.RefusalTimeouts

/-! ## Answers to second-stage misses, and failures of integrity -/

/-- R137, R360: the hypervisor's answer to a STAGE2 report: with retry, every stream, copy, bank operation, completion word, report, queue and
graph that is stalled on it goes on; with reset, their VFs are to be reset. That words, reports and queues stall (log entry 118) and
graphs (log entry 17) is the model's choice. -/
def Claim.SecondStageAnswers : Prop :=
  ∀ (s : State), let v := s.cur.ev.val.toNat
    let seq := v % 2 ^ 32
    (v / 2 ^ 32 % 2 = 0 → ∃ t, exec .stage2Answer s = .next t ∧
      (∀ c i b, t.bank c i = some b → ∃ o, s.bank c i = some o ∧ sameRegs b o ∧ ∀ e, (b.ctl e).s2stall ≠ some seq ∧
        (∀ n, n ≠ seq → ((b.ctl e).s2stall = some n ↔ (o.ctl e).s2stall = some n)) ∧ (b.ctl e).pc = (o.ctl e).pc) ∧
      t.copies.map (·.id) = s.copies.map (·.id) ∧ (∀ r ∈ t.copies, r.s2stall ≠ some seq) ∧ (∀ o ∈ t.bankOps, o.s2stall ≠ some seq) ∧
      (∀ w ∈ t.dev.cmpl, w.s2stall ≠ some seq) ∧ (∀ g ∈ t.graphs, g.s2stall ≠ some seq) ∧
      (∀ k, (∀ p ∈ (t.vf k).reports, p.s2stall ≠ some seq) ∧ (∀ q ∈ (t.vf k).queues, q.2.s2stall ≠ some seq) ∧
        (t.vf k).reports.map (·.report) = (s.vf k).reports.map (·.report) ∧
        { t.vf k with reports := (s.vf k).reports, queues := (s.vf k).queues } = s.vf k) ∧
      t.dev.answer = v % 2 ^ 33 ∧ ∀ l n, t.readLoc l n = s.readLoc l n) ∧
    (v / 2 ^ 32 % 2 = 1 → ∃ t, exec .stage2Answer s = .next t ∧ (∀ r ∈ s.copies, r.s2stall = some seq → (t.vf r.vf).reset = true) ∧
      (∀ c i b e, s.bank c i = some b → (b.ctl e).s2stall = some seq → (t.vf b.vf).reset = true) ∧
      (∀ k, ∀ x ∈ s.vfs, x.1 = k → ((∃ p ∈ x.2.reports, p.s2stall = some seq) ∨ ∃ q ∈ x.2.queues, q.2.s2stall = some seq) → (t.vf k).reset = true) ∧
      { t with vfs := s.vfs, dev := { t.dev with answer := s.dev.answer } } = s)

/-- R352, R357, R358: a failed integrity node unseals its pages, when no access beneath it is in flight, and no byte of memory changes; the
firmware reports each run of its pages to their VF's mailbox: its first GPA, its number of pages, the node's level. Where a node can
stand, and which pages are a VF's (log entry 117), and that no access beneath it may be in flight (log entry 72), are the model's
choices. -/
def Claim.IntegrityFailures : Prop :=
  ∀ (s : State), let lo := s.cur.ev.idx
    let n := s.cur.ev.quad
    let node : NodeFail := { level := s.cur.ev.val.toNat, lo := lo, pages := n, key := s.cur.ev.slot }
    (s.nodeFits node = false → exec .integNodeFailure s = .next s) ∧
    (s.nodeFits node = true → (∀ a ∈ s.acc, ∀ z ∈ a.elems, ∀ p m g pa k, z.loc = .mem p m g pa k →
        ¬ (lo ≤ s.homePa p m g pa / 65536 ∧ s.homePa p m g pa / 65536 < lo + n)) →
      ∃ t, exec .integNodeFailure s = .next t ∧ (∀ p, p ∈ t.unsealed ↔ p ∈ s.unsealed ∨ (lo ≤ p ∧ p < lo + n)) ∧
        (∀ q, q ∈ t.resealed ↔ q ∈ s.resealed ∧ ¬ (lo ≤ q / 1024 ∧ q / 1024 < lo + n)) ∧ t.integ = s.integ ++ [node] ∧
        { t with unsealed := s.unsealed, resealed := s.resealed, integ := s.integ } = s) ∧
    (∀ f r, s.integ[s.cur.ev.idx]? = some f → s.cur.ev.runs.head? = some r →
      (s.runFits f r = false → exec .integReport s = .next s) ∧
      (s.runFits f r = true → (0 < r.pages ∧ ∀ i, i < r.pages → ∃ p, s.pageOf r.vf (r.gpa + 65536 * i) = some p ∧ f.lo ≤ p ∧ p < f.lo + f.pages) ∧
        let f' := { f with told := f.told ++ (List.range r.pages).map fun i => (r.gpa / 65536 + i, r.vf) }
        exec .integReport s = .next ({ s with integ := s.integ.set s.cur.ev.idx f' }.reportVf r.vf
          { type := 6, cid := s.vfCid r.vf, a1 := r.gpa, a2 := r.pages, detail := f.level % 16 })))

/-- Answers to second-stage misses, and failures of integrity. -/
def Obligations.SecondStageAndIntegrity : Prop := Claim.SecondStageAnswers ∧ Claim.IntegrityFailures

/-! ## VF resets, the slots they free, and the removal of a core -/

/-- R360, R363, R377: a VF reset is asked for by RESET in its descriptor or by an FLR; an FLR of the PF asks for that of every VF (the model's
choice, assumption 73). At its reset point no bank, access, copy, signal, launch, graph, scratchpad unit or stalled completion word of the
VF is left, and its postmarks are dead; banks of other VFs stay, and so do their scratchpad units, with their labels and contents. -/
def Claim.VfResets : Prop :=
  (∀ s : State, exec .vfResetRequest s = .next (s.setVf s.cur.ev.vf { s.vf s.cur.ev.vf with reset := true }) ∧
    (s.cur.ev.fromPf = false → exec .flr s = .next (s.setVf s.cur.ev.vf { s.vf s.cur.ev.vf with reset := true })) ∧
    (s.cur.ev.fromPf = true → exec .flr s = .next { s with vfs := s.vfs.map fun e => (e.1, { e.2 with reset := true }) })) ∧
  ∀ s : State, let v := s.cur.ev.vf
    ((s.vf v).reset = false → exec .vfReset s = .next s) ∧
    ((s.vf v).reset = true → s.coresOnce → ∃ t, exec .vfReset s = .next t ∧ (t.vf v).reset = false ∧
      (∀ c i b, t.bank c i = some b → b.vf ≠ v) ∧ (∀ a ∈ t.acc, a.vf ≠ v) ∧ (∀ r ∈ t.copies, r.vf ≠ v) ∧ (∀ f ∈ t.sigs, f.vf ≠ v) ∧
      (∀ l ∈ t.launches, l.vf ≠ v) ∧ (∀ g ∈ t.graphs, g.vf ≠ v) ∧ (∀ w ∈ t.dev.cmpl, w.vf ≠ v) ∧
      (∀ c u o, (t.core c).owner.find? u = some o → o.2 ≠ v) ∧
      (∀ c, (t.core c).sp = (s.core c).sp ∧ (t.core c).valid = (s.core c).valid ∧ (t.core c).mo = (s.core c).mo ∧
        ∀ u o, (s.core c).owner.find? u = some o → o.2 ≠ v → (t.core c).owner.find? u = some o) ∧
      (∀ p m, (t.part p).pm.find? m ≠ some (.live v)) ∧ (∀ c i b, ((t.core c).seat i).shadow = .loaded b → b.vf ≠ v) ∧
      (∀ c i b, s.bank c i = some b → b.vf ≠ v → ∃ b', t.bank c i = some b' ∧ sameRegs b' b ∧ b'.job = b.job ∧ b'.cS.pc = b.cS.pc))

/-- R344, R370, R377: a hardware slot of a reset VF is free again at SLOT_RECLAIM, with a SLOTABORT report, under the containment ID that the
VF had, when it held aborted packets. -/
def Claim.SlotReclaims : Prop :=
  ∀ (s : State) (h : HwSlot), let k := s.cur.ev.die * 64 + s.cur.ev.slot
    s.slots.find? k = some h →
    (h.reclaim = false → exec .slotReclaim s = .next s) ∧
    (h.reclaim = true → h.aborted = 0 → exec .slotReclaim s = .next { s with slots := s.slots.del k }) ∧
    (h.reclaim = true → h.aborted ≠ 0 → exec .slotReclaim s = .next ({ s with slots := s.slots.del k }.reportPf
      { type := 0xB, cid := h.part * 128 + h.vf, a1 := h.queue, a2 := h.aborted, detail := k })) ∧
    (s.slots.del k).find? k = none

/-- R359: the firmware takes up the removal of a core, unless rows of it belong to an assigned region of a VF of its partition; the request
ends when every seat of the core is empty, and the core is then removed from its partition. A loaded shadow that the firmware evicts is
emptied once it is not being saved, with a report. How the firmware keeps its requests and the removed cores is the model's choice (log
entry 74). -/
def Claim.CoreRemoval : Prop :=
  ∀ (s : State), let core := s.cur.ev.core
    let c := s.core core
    (s.cur.ev.quad ≠ 1 → core ∈ s.dev.removed → exec .partitionResize s = .next s) ∧
    (s.cur.ev.quad ≠ 1 → core ∉ s.dev.removed → core ∉ s.dev.resizing →
      let held := ∃ r ∈ (s.slice core).regions, r.2.len ≠ 0 ∧ r.2.vf ≠ 0xFF ∧ s.coreInPart core (s.vf r.2.vf).partition = true
      (held → exec .partitionResize s = .next s) ∧
      (¬ held → exec .partitionResize s = .next { s with dev := { s.dev with resizing := s.dev.resizing ++ [core] } })) ∧
    (s.cur.ev.quad ≠ 1 → core ∉ s.dev.removed → core ∈ s.dev.resizing →
      let clear := ∀ i, i < 4 → (c.seat i).live = none ∧ (c.seat i).shadow = .empty
      (clear → exec .partitionResize s = .next { s with dev := { s.dev with
        resizing := s.dev.resizing.filter (· != core), removed := s.dev.removed ++ [core] } }) ∧
      (¬ clear → exec .partitionResize s = .next s)) ∧
    (∀ b k, s.cur.ev.quad = 1 → core ∈ s.dev.resizing → (c.seat s.cur.ev.seat).shadow = .loaded b → b.evict = some k → b.saving = false →
      exec .partitionResize s = .next ((s.setShadow core s.cur.ev.seat .empty).reportVf b.vf
        { type := 7, cid := b.part * 128 + b.vf, seat := 4 * core + s.cur.ev.seat, a1 := b.saveva.toNat, a2 := 4 * core + s.cur.ev.seat,
          detail := k + if b.saved = true then 0 else 4 }))

/-- VF resets, the slots they free, and the removal of a core. -/
def Obligations.Resets : Prop := Claim.VfResets ∧ Claim.SlotReclaims ∧ Claim.CoreRemoval

/-! ## Heat tokens and the rounds of the scheduler -/

/-- R254, R255, R382: TOKEN_REFILL adds TOKRATE up to TOKMAX; the controller sets TOKRATE between 100 and 4000; in a thermal shutdown
TOKRATE reads 0 and nothing is refilled; the shutdown sets DEVSTAT[2] and fires PF vector 1 once, and ends when the sensors have cooled. -/
def Claim.HeatTokens : Prop :=
  ∀ (s : State), let core := s.cur.core
    let c := s.core core
    let v := s.cur.ev.val.toNat
    (s.dev.thermal = false →
      exec .tokenRefill s = .next (s.setCore core { c with tokens := Nat.min c.tokmax (c.tokens + c.tokrate) }) ∧
      (100 ≤ v → v ≤ 4000 → exec .tokrateUpdate s = .next (s.setCore core { c with tokrate := v })) ∧
      (v < 100 ∨ 4000 < v → exec .tokrateUpdate s = .next s) ∧
      exec .thermalShutdown s = .next { s with dev := { s.dev with thermal := true, msix := s.dev.msix ++ [1] } }) ∧
    (s.dev.thermal = true → exec .tokenRefill s = .next s ∧ exec .tokrateUpdate s = .next s ∧ exec .thermalShutdown s = .next s ∧
      (∀ b, s.special b .tokrate = 0) ∧ s.dev.devstat / 4 % 2 = 1) ∧
    exec .thermalRecovery s = .next { s with dev := { s.dev with thermal := false } }

/-- R129: at the start of a round the deficit counter of every VF with a job in the core is floor(256 w / W), and the other counters are gone. -/
def Claim.SchedulerRounds : Prop :=
  ∀ (s : State) (e : Engine), Engine.ofIdx s.cur.ev.idx = some e →
    let core := s.cur.core
    let x := (s.core core).sched e
    (x.cyc % 256 ≠ 0 ∨ x.refilled = true → exec .schedRoundStart s = .next s) ∧
    (x.cyc % 256 = 0 → x.refilled = false → ∃ y : Sched, exec .schedRoundStart s = .next (s.setCore core ((s.core core).setSched e y)) ∧
      y.refilled = true ∧ y.cyc = x.cyc ∧ y.vp = x.vp ∧ y.sp = x.sp ∧
      let total := ((s.present core).map fun v => (s.vf v).weight).sum
      (∀ v, v ∈ s.present core → 0 < total → y.c.find? v = some ((256 * (s.vf v).weight / total : Nat) : Int)) ∧
      ∀ v, v ∉ s.present core → y.c.find? v = none)

/-- Heat tokens and the rounds of the scheduler. -/
def Obligations.TokensAndRounds : Prop := Claim.HeatTokens ∧ Claim.SchedulerRounds

/-! ## Partition, VF and region descriptors -/

/-- R344, R162, R173, R365: an accepted write of a partition descriptor is what the window then reads at that place, and no other partition changes; a
partition that is created has every postmark free, none live, and a pool of zeros. A write that a rule forbids is discarded. The model's
choices: the pool is zeroed as VALID is set (log entry 96), and when a cluster may leave (log entry 74). -/
def Claim.PartitionDescriptors : Prop :=
  ∀ (s : State), let ev := s.cur.ev
    let v := ev.val.toNat
    let old := s.part ev.part
    ((20 ≤ ev.part ∨ 32 ≤ ev.quad ∨ ¬ PartAccepts s ev.part ev.quad v) → exec .partitionDescWrite s = .next s) ∧
    (ev.part < 20 → ev.quad < 32 → PartAccepts s ev.part ev.quad v → ∃ t, exec .partitionDescWrite s = .next t ∧
      let p := t.part ev.part
      t.pfRead (0x10000 + 256 * ev.part + 8 * ev.quad) = v ∧ (∀ k, k ≠ ev.part → t.part k = s.part k) ∧ t.cores = s.cores ∧ t.vfs = s.vfs ∧
      (∀ c, c ∈ t.dev.removed ↔ c ∈ s.dev.removed ∧ ¬ (old.clusters.getLsbD (c / 16) = true ∧ p.clusters.getLsbD (c / 16) = false)) ∧
      (ev.quad = 11 → v = 1 → old.valid = false → p.tickno = 0 ∧ p.nextEdge = s.timebase + p.tickper ∧ p.pm = [] ∧ p.pmNext = 1 ∧
        p.cells = [] ∧ p.pmReqs = [] ∧ ∀ a, p.poolBase ≤ a → a < p.poolBase + 64 * p.poolLines → t.dram.read a = 0) ∧
      (¬ (ev.quad = 11 ∧ v = 1 ∧ old.valid = false) → t.dram = s.dram ∧ p.pm = old.pm ∧ p.tickno = old.tickno))

/-- R345, R360, R365: an accepted write of a VF descriptor is what the window then reads, but that RESET stays set until the reset is over; a write
that a rule forbids is discarded. -/
def Claim.VfDescriptors : Prop :=
  ∀ (s : State), let ev := s.cur.ev
    let v := ev.val.toNat
    ((96 ≤ ev.vf ∨ 32 ≤ ev.quad ∨ ¬ VfAccepts s ev.vf ev.quad v) → exec .vfDescWrite s = .next s) ∧
    (ev.vf < 96 → ev.quad < 32 → VfAccepts s ev.vf ev.quad v → ∃ x, exec .vfDescWrite s = .next (s.setVf ev.vf x) ∧
      (ev.quad ≠ 0 → (s.setVf ev.vf x).pfRead (0x20000 + 256 * ev.vf + 8 * ev.quad) = v) ∧
      (ev.quad = 0 → x.partition = v % 256 ∧ x.home = v / 2 ^ 8 % 256 ∧ x.weight = v / 2 ^ 16 % 256 ∧ x.valid = v.testBit 24 ∧
        x.reset = ((s.vf ev.vf).reset || v.testBit 25)) ∧
      x.queues = (s.vf ev.vf).queues ∧ x.qpage = (s.vf ev.vf).qpage)

/-- R304, R366: an accepted write of a region descriptor is what the window then reads (FLAGS and DIGEST stay as they were); a write that a rule
forbids is discarded, and so is one with a zero-field that is not zero (the model's choice: log entry 112). -/
def Claim.RegionDescriptors : Prop :=
  ∀ (s : State), let ev := s.cur.ev
    let v := ev.val.toNat
    let sl := s.slice ev.core
    ((1536 ≤ ev.core ∨ 16 ≤ ev.idx ∨ 16 ≤ ev.quad ∨ ¬ RegionAccepts sl ev.idx ev.quad v) → exec .regionDescWrite s = .next s) ∧
    (ev.core < 1536 → ev.idx < 16 → ev.quad < 16 → RegionAccepts sl ev.idx ev.quad v → ∃ r : Region,
      exec .regionDescWrite s = .next (s.setSlice ev.core { sl with regions := sl.regions.put ev.idx r }) ∧
      (ev.quad = 0 → r.base = v) ∧ (ev.quad = 1 → r.len = v) ∧ (ev.quad = 2 → r.vf = v % 256 ∧ r.key = v / 2 ^ 16 % 512) ∧
      (ev.quad ≠ 0 → r.base = (sl.regions.get ev.idx {}).base) ∧ (ev.quad ≠ 1 → r.len = (sl.regions.get ev.idx {}).len) ∧
      r.dirty = (sl.regions.get ev.idx {}).dirty ∧ r.digest = (sl.regions.get ev.idx {}).digest)

/-- Partition, VF and region descriptors. -/
def Obligations.Descriptors : Prop := Claim.PartitionDescriptors ∧ Claim.VfDescriptors ∧ Claim.RegionDescriptors

/-! ## Registers of the host's windows, queues and queue pages -/

/-- R364, R366, R367: writes of the PF window: the slot shares of a die, WLIM and TOKMAX of a core (which lowers TOKENS with it), the places
and sizes of the PF mailbox, and MBRD of a VF, which never passes MBWR; a write of another size is discarded. A VF's window reads its
mailbox's indices, QPAGE and the queue descriptors as they were written. The places of TOKMAX (0x400000 + 8c) and of the PF mailbox's
registers (from 0x500000), the rings that it may have and the discard of other sizes are the model's choices (log entry 15). -/
def Claim.WindowRegisters : Prop :=
  ∀ (s : State), let ev := s.cur.ev
    let v := ev.val.toNat
    (ev.quad ≠ 0 → ev.quad ≠ 8 → exec .pfWindowWrite s = .next s) ∧
    (∀ core, core < 1536 → ev.fromPf = true → ev.quad = 8 →
      (ev.idx = 0x330000 + 8 * core → 0 < v → v < 2 ^ 20 →
        exec .pfWindowWrite s = .next (s.setSlice core { s.slice core with wlim := v })) ∧
      (ev.idx = 0x400000 + 8 * core → 256 ≤ v → v ≤ 65536 → exec .pfWindowWrite s =
        .next (s.setCore core { s.core core with tokmax := v, tokens := Nat.min (s.core core).tokens v }))) ∧
    (∀ die, die < 8 → ev.fromPf = true → ev.quad = 8 → ev.idx = 0x200 + 8 * die → v < 2 ^ 32 →
      v % 256 + v / 2 ^ 8 % 256 + v / 2 ^ 16 % 256 + v / 2 ^ 24 ≤ 64 → ∃ t, exec .pfWindowWrite s = .next t ∧ t.pfRead ev.idx = v ∧
        (∀ d c, d ≠ die → c < 4 → t.dev.share d c = s.dev.share d c)) ∧
    (let box := s.dev.pfBox
     let writes (off : Nat) (m : Mailbox) : Prop := ev.fromPf = true → ev.quad = 8 → ev.idx = off →
      exec .pfWindowWrite s = .next { s with dev := { s.dev with pfBox := m } }
     (v % 32 = 0 → writes 0x500000 { box with base := v }) ∧
     ((∃ n, 4 ≤ n ∧ n ≤ 16 ∧ v = 2 ^ n) → writes 0x500008 { box with size := v }) ∧ (¬ (∃ n, 4 ≤ n ∧ n ≤ 16 ∧ v = 2 ^ n) → writes 0x500008 box) ∧
     writes 0x500018 (if v ≤ box.wr then { box with rd := v } else box) ∧
     s.pfRead 0x500000 = box.base ∧ s.pfRead 0x500008 = box.size ∧ s.pfRead 0x500010 = box.wr ∧ s.pfRead 0x500018 = box.rd ∧
     s.pfRead 0x500020 = box.drop) ∧
    (ev.fromPf = false → ev.quad = 8 → ev.idx = 0 → exec .pfWindowWrite s = .next (if v ≤ (s.vf ev.vf).mbox.wr then
      s.setVf ev.vf { s.vf ev.vf with mbox := { (s.vf ev.vf).mbox with rd := v } } else s)) ∧
    (∀ k, let x := s.vf k
      s.vfRead k 0 = x.mbox.rd ∧ s.vfRead k 8 = x.mbox.wr ∧ s.vfRead k 0x10 = x.mbox.drop ∧ s.vfRead k 0x20 = x.qpage ∧
        ∀ i, i < 64 → s.vfRead k (0x100 + 16 * i) = (x.queues.get i {}).word) ∧
    ∀ (w : Word) (pf : Bool) (q : SwQueue), queueOf w.toNat pf = some q → q.word = w.toNat

/-- R367 to R369: a queue descriptor of queues 0 to 63: it is written when the queue is off, or turns it off and takes it from its slot; QDOOR and
QDOORX move the write index of an enabled queue without WATCH, up to a full queue ahead of the read index; else they are discarded. -/
def Claim.QueueWindows : Prop :=
  ∀ (s : State), let ev := s.cur.ev
    let x := s.vf ev.vf
    let v := ev.val.toNat
    (∀ q, ev.idx < 64 → ev.vf < 96 → queueOf v ev.fromPf = some q → (x.queues.get ev.idx {}).en = false →
      (q.en = false ∨ s.enabled q.die < 4096) → exec .qdescWrite s = .next (s.setQ ev.vf ev.idx { q with waitSince := s.nextId })) ∧
    (∀ q o, ev.idx < 64 → ev.vf < 96 → queueOf v ev.fromPf = some q → x.queues.find? ev.idx = some o → o.en = true →
      (q.en = true ∨ o.alike q = false → exec .qdescWrite s = .next s) ∧
      (q.en = false → o.alike q = true → o.busy = false → ∃ t, exec .qdescWrite s = .next t ∧
        ((t.vf ev.vf).queues.find? ev.idx).map (·.en) = some false ∧
        ∀ h ∈ t.slots, h.2.reclaim = true ∨ h.2.vf ≠ ev.vf ∨ h.2.queue ≠ ev.idx)) ∧
    (64 ≤ ev.idx ∨ 96 ≤ ev.vf ∨ queueOf v ev.fromPf = none → exec .qdescWrite s = .next s) ∧
    (∀ q, x.queues.find? ev.idx = some q → ev.idx < 64 →
      let moved (w : Nat) : State := { s with nextId := s.nextId + 1 }.setQ ev.vf ev.idx
        { q with wr := w, waitSince := if q.wr ≤ q.rd then s.nextId else q.waitSince }
      exec .qdoorWrite s = .next (if q.en = true ∧ q.watch = false ∧ v ≤ q.rd + 2 ^ q.logsize then moved v else s)) ∧
    (∀ q, x.queues.find? (v / 2 ^ 32) = some q → 64 ≤ v / 2 ^ 32 → v / 2 ^ 32 < 4096 →
      let w := v % 2 ^ 32
      exec .qdoorxWrite s = .next (if q.en = true ∧ q.watch = false ∧ w ≤ q.rd + 2 ^ q.logsize then
        { s with nextId := s.nextId + 1 }.setQ ev.vf (v / 2 ^ 32)
          { q with wr := w, waitSince := if q.wr ≤ q.rd then s.nextId else q.waitSince } else s)) ∧
    (v / 2 ^ 44 ≠ 0 ∨ v / 2 ^ 32 < 64 → exec .qdoorxWrite s = .next s)

/-- R368: QPAGE of a page that is not aligned is discarded; the page 0 ends the chain, so that no queue from 64 on exists, but for one whose packet
is being dispatched, which closes; queues 0 to 63 stay. -/
def Claim.QueuePages : Prop :=
  ∀ (s : State), let ev := s.cur.ev
    (ev.val.toNat % 4096 ≠ 0 → exec .qpageWrite s = .next s) ∧
    (ev.val = 0 → ∃ t, exec .qpageWrite s = .next t ∧ (t.vf ev.vf).qpage = 0 ∧
      (∀ k q, (k, q) ∈ (t.vf ev.vf).queues → 64 ≤ k → q.busy = true ∧ q.closing = true) ∧
      (∀ k q, k < 64 → ((k, q) ∈ (t.vf ev.vf).queues ↔ (k, q) ∈ (s.vf ev.vf).queues)) ∧
      ∀ w, w ≠ ev.vf → t.vf w = s.vf w)

/-- Registers of the host's windows, queues and queue pages. -/
def Obligations.HostWindows : Prop := Claim.WindowRegisters ∧ Claim.QueueWindows ∧ Claim.QueuePages

/-! ## Packets are dispatched and launches placed -/

/-- R369, R372, R374: the dispatch of a packet: a NOP completes with status 0; one that is malformed with status 1; a LAUNCH whose record is
refused with status 2, and one whose record is accepted waits to be placed, its queue busy; a GRAPH whose table is accepted enters its
graph, its queue busy, and dispatches its nodes of counter 0 (R375). A slot without a packet does nothing. A completion word is written to
its address, with the VF's MSI-X vector 1 (R363); that it, or the reading of a packet or record, waits for the hypervisor's answer with a
report (R137) is the model's choice (log entry 118). -/
def Claim.PacketDispatch : Prop :=
  ∀ (s s1 : State) (vf k : Nat) (q : SwQueue) (l : List Byte),
    (HasPacket s vf k q l s1 →
      let part := (s1.vf vf).partition
      let info : JobInfo := { cmpl := fieldOf l 16 8, pktId := BitVec.ofNat 64 (fieldOf l 24 8), die := q.die, queue := k }
      let ends (t : State) (status : Nat) : State := (t.completionWord vf part info status).packetDone vf k
      (¬ PacketFine q l →
        (fieldOf l 0 1 = 0 ∨ 2 < fieldOf l 0 1 → exec .nopPacket s = .next (ends s1 1)) ∧
        (fieldOf l 0 1 = 1 → exec .launch s = .next (ends s1 1)) ∧ (fieldOf l 0 1 = 2 → exec .graph s = .next (ends s1 1))) ∧
      (PacketFine q l →
        (fieldOf l 0 1 = 0 → exec .nopPacket s = .next (ends s1 0)) ∧
        (∀ t e, fieldOf l 0 1 = 1 → s1.readRecord vf q.die (fieldOf l 8 8) q.pf q.cls = (.error e, t) →
          exec .launch s = .next (t.stopRead vf k e)) ∧
        (∀ t, fieldOf l 0 1 = 1 → s1.readRecord vf q.die (fieldOf l 8 8) q.pf q.cls = (.ok none, t) →
          exec .launch s = .next ((t.completionWord vf (t.vf vf).partition info 2).packetDone vf k)) ∧
        (∀ t r, fieldOf l 0 1 = 1 → s1.readRecord vf q.die (fieldOf l 8 8) q.pf q.cls = (.ok (some r), t) →
          let p : PendLaunch := { vf := vf, die := q.die, record := r, info := { info with deadTick := r.deadtick } }
          exec .launch s = .next ({ t with launches := t.launches ++ [p] }.setQ vf k { q with busy := true })) ∧
        (∀ t e, fieldOf l 0 1 = 2 → s1.readNodes part vf 256 (fieldOf l 8 8) = (.error e, t) →
          exec .graph s = .next (t.stopRead vf k e)) ∧
        (∀ t, fieldOf l 0 1 = 2 → s1.readNodes part vf 256 (fieldOf l 8 8) = (.ok none, t) →
          exec .graph s = .next ((t.completionWord vf part info 2).packetDone vf k)) ∧
        (∀ t n ns, fieldOf l 0 1 = 2 → s1.readNodes part vf 256 (fieldOf l 8 8) = (.ok (some (n :: ns)), t) →
          let g : Graph := { id := t.nextId, vf := vf, die := q.die, info := info, pf := q.pf, nodes := n :: ns }
          let u : State := { t with nextId := t.nextId + 1, graphs := t.graphs ++ [g] }.setQ vf k { q with busy := true }
          exec .graph s = .next (u.startNodes g.id) ∧
          ((∀ o ∈ t.graphs, o.id ≠ g.id) → (∀ x ∈ g.nodes, x.dep = 0 → x.launch = false) → ns.length < 256 →
            (u.startNodes g.id).graphs = t.graphs ++ [{ g with nodes := g.nodes.map fun x => { x with dispatched := x.dispatched || x.dep == 0 } }])))) ∧
    (s.head = (none, s1) → exec .nopPacket s = .next s1 ∧ exec .launch s = .next s1 ∧ exec .graph s = .next s1) ∧
    (∀ i status f t, i.cmpl ≠ 0 → s.stage2 k vf i.cmpl .write = (some f, t) → t.lineCond k i.cmpl f.pa f.key = .ok →
      s.completionWord vf k i status =
        (t.writeLoc (.mem k 0 i.cmpl f.pa f.key) (leBytes (status * 2 ^ 56 + i.pktId.toNat % 2 ^ 32) 8)).fireVf vf 1) ∧
    (∀ i status t, i.cmpl ≠ 0 → s.stage2 k vf i.cmpl .write = (none, t) → (s.completionWord vf k i status).dev.cmpl = t.dev.cmpl ++
      [{ vf := vf, part := k, gpa := i.cmpl, val := status * 2 ^ 56 + i.pktId.toNat % 2 ^ 32, s2stall := some t.dev.pfBox.seq }])

/-- R374, R376: a launch is placed, once its tick is reached, at the first seat that passes its checks and whose shadow is empty: the shadow is LOADING
and a launch that is no node of a graph has left its queue; with no seat that passes, it is refused with status 2; else it waits. -/
def Claim.LaunchPlacement : Prop :=
  ∀ (s : State) (l : PendLaunch), s.launches[s.cur.ev.idx]? = some l →
    let part := (s.vf l.vf).partition
    let ok := (s.candidates part l.die l.record).filter fun x => s.fitsSeat l.vf l.record x.1 x.2
    let open_ (x : Nat × Nat) : Bool := ((s.core x.1).seat x.2).shadow == .empty && !s.dev.resizing.contains x.1
    (l.target ≠ none ∨ (s.part part).tickno < l.record.reltick ∨ s.dev.fwState ≠ 2 → exec .launchPlace s = .next s) ∧
    (l.target = none → l.record.reltick ≤ (s.part part).tickno → s.dev.fwState = 2 →
      (ok = [] → l.info.graph = none → exec .launchPlace s = .next
        ((({ s with launches := s.launches.filter (· != l) } : State).completionWord l.vf part l.info 2).packetDone l.vf l.info.queue)) ∧
      (ok ≠ [] → (∀ x ∈ ok, open_ x = false) → exec .launchPlace s = .next s) ∧
      (∀ o x o', ok = o ++ x :: o' → (∀ z ∈ o, open_ z = false) → open_ x = true →
        let s1 := { s with launches := s.launches.set s.cur.ev.idx { l with target := some x } }.setShadow x.1 x.2 (.loading none)
        exec .launchPlace s = .next (if l.info.graph = none then s1.packetDone l.vf l.info.queue else s1)))

/-- Packets are dispatched and launches placed. -/
def Obligations.Launches : Prop := Claim.PacketDispatch ∧ Claim.LaunchPlacement

/-! ## A launched job starts, graphs proceed, queue slots rotate -/

/-- R14, R108, R373, R374: the bank of a placed launch, when its areas neither meet those of the live job nor refuse access: its rings are
written, in one action (the model's choice: log entry 77), its streams stand at word 0 of their rings (the model's reading: log entry 6),
started as the record says, with its level, compartments and root; in an empty seat it goes live, else it waits in the shadow. -/
def Claim.BankLoading : Prop :=
  ∀ (s : State) (l : PendLaunch) (c i : Nat), s.launches[s.cur.ev.idx]? = some l → l.target = some (c, i) →
    let r := l.record
    let ring (n : Nat) : Ring := (r.rings[n]?).getD ⟨0, 0⟩
    let clash := (s.bank c i).any r.clashes
    let refused := ∃ x ∈ r.areas, ∃ u, u < 96 ∧ (s.core c).scrubbing.getLsbD u = true ∧ 4096 * u < x.1 + x.2.1 ∧ x.1 < 4096 * (u + 1)
    (clash = true ∨ refused → exec .shadowLoaded s = .next s) ∧
    (clash = false → ¬ refused → ∃ t b, exec .shadowLoaded s = .next t ∧
      (s.bank c i = none → t.bank c i = some b) ∧ (s.bank c i ≠ none → ((t.core c).seat i).shadow = .loaded b ∧ t.bank c i = s.bank c i) ∧
      b.job = s.nextId ∧ b.vf = l.vf ∧ b.lvl = r.lvl ∧ b.root = r.root ∧ b.saveva = r.saveva ∧ b.spd = 0 ∧ b.older = [] ∧ b.sg = 0 ∧
      b.tagbits = 0 ∧ b.handler = false ∧ b.handling = false ∧ (b.cring, b.aring, b.vring, b.mring, b.dring, b.hring) =
        (ring 0, ring 1, ring 2, ring 3, ring 4, ring 5) ∧
      (∀ e, (b.ctl e).started = r.started.testBit e.idx ∧ (b.ctl e).mo = r.compart.testBit e.idx ∧ (b.ctl e).pc = (ring e.idx).base ∧
        (b.ctl e).done = false ∧ (b.ctl e).trapped = false) ∧
      b.cS.npc = (ring 0).next (ring 0).base ∧ t.launches = s.launches.eraseIdx s.cur.ev.idx ∧
      (∀ u, u < 96 → (t.core c).mo.getLsbD u = ((s.core c).mo.getLsbD u || r.mo.getLsbD u)) ∧ t.dram = s.dram)

/-- R192, R375: a transform that has been dispatched copies its bytes from VA to VA, piece by piece, each piece read and then written, and has
ended when all are written (pieces, context and stall are the model's choice: log entry 17); a launch whose reading stalled is tried again;
a node of a graph that has ended takes one from its successors' counters, and those that are then 0 are dispatched; the last node completes
the graph with status 0. -/
def Claim.GraphProgress : Prop :=
  ∀ (s : State) (g : Graph) (n : GraphNode), s.graphs[s.cur.ev.idx]? = some g → g.nodes[s.cur.ev.quad]? = some n →
    let nodes := (g.nodes.set s.cur.ev.quad { n with done := true }).mapIdx fun j (x : GraphNode) =>
      { x with dep := x.dep - (n.succ.filter (· == j)).length }
    let s1 : State := { s with graphs := s.graphs.map fun (x : Graph) => if x.id = g.id then { x with nodes := nodes } else x }
    let s2 : State := { s1 with graphs := s1.graphs.filter (·.id != g.id) }
    let c := s.cpCtx g.vf g.die
    let set (u : State) (z : GraphNode) : State :=
      { u with graphs := u.graphs.map fun (y : Graph) => if y.id = g.id then { y with nodes := y.nodes.set s.cur.ev.quad z } else y }
    let p := s.cur.ev.slot
    let size := if n.w1 % 8 = 0 ∧ n.w2 % 8 = 0 then 8 else 1
    let pieces := (n.w3 + size - 1) / size
    let dst := n.w1 + size * p
    ((n.launch = false ∨ n.dispatched = true) → (n.ended = true ∧ n.done = true ∨ n.ended = false ∧ (n.dispatched = false ∨ n.launch = true)) →
      exec .graphNodeComplete s = .next s) ∧
    (∀ t r, n.launch = true → n.dispatched = false → n.dep = 0 → g.s2stall = none → s.graphs.find? (·.id == g.id) = some g →
      s.readRecord g.vf g.die n.w1 g.pf ((((s.vf g.vf).queues.find? g.info.queue).map (·.cls)).getD 0) = (.ok (some r), t) →
      exec .graphNodeComplete s = .next (set { t with launches := t.launches ++ [{ vf := g.vf, die := g.die, record := r, info :=
        { g.info with cmpl := 0, deadTick := r.deadtick, graph := some (g.id, s.cur.ev.quad) } }] } { n with dispatched := true })) ∧
    (n.ended = false → n.dispatched = true → n.launch = false →
      (g.s2stall ≠ none → exec .graphNodeComplete s = .next s) ∧
      (∀ t s3, g.s2stall = none → p < pieces → n.written.testBit p = false → n.read.find? p = none →
        s.checkVa c (BitVec.ofNat 64 (n.w2 + size * p)) 1 0 { write := false, writes := false } = (.ok t, s3) →
        exec .graphNodeComplete s = .next (set s3 { n with read := n.read.put p (s3.viewAt 5 t.loc (Nat.min size (n.w3 - size * p))) })) ∧
      (∀ l t s3, g.s2stall = none → p < pieces → n.written.testBit p = false → n.read.find? p = some l →
        let whole := n.w1 ≤ dst / 64 * 64 ∧ dst / 64 * 64 + 64 ≤ n.w1 + n.w3
        s.checkVa c (BitVec.ofNat 64 dst) 1 0 { write := true, writes := true, fullLine := decide whole } = (.ok t, s3) →
        s3.lineTaken 0 .d t.loc = false →
        let z := { n with read := n.read.del p, written := n.written ||| 2 ^ p }
        let last := whole ∧ ∀ q, q < pieces → (n.w1 + size * q) / 64 = dst / 64 → z.written.testBit q = true
        let s4 := s3.writeLoc t.loc l
        ∃ u, (last → u = s4.wholeLine t.loc) ∧ (¬ last → u = s4) ∧
          exec .graphNodeComplete s = .next (set u { z with ended := decide (∀ q, q < pieces → z.written.testBit q = true) }))) ∧
    (n.ended = true → n.done = false → (n.launch = false ∨ n.dispatched = true) →
      (nodes.all (·.done) = true →
        exec .graphNodeComplete s = .next ((s2.completionWord g.vf (s.vf g.vf).partition g.info 0).packetDone g.vf g.info.queue)) ∧
      (nodes.all (·.done) = false → exec .graphNodeComplete s = .next (s1.startNodes g.id))) ∧
    (∀ m, (∀ z ∈ s.graphs, z.id = g.id → z.nodes.length ≤ 256) → (s.startNodes g.id).graphs.find? (·.id == g.id) = some m → m.s2stall = none →
      ∀ x ∈ m.nodes, x.launch = false → x.dep = 0 → x.dispatched = true)

/-- R370, R371: at a quantum boundary of a die whose firmware runs, a free slot goes to the longest-waiting queue of its class, if there is one,
else to one of the classes in turn; the queue is enabled, of the die and the class, in no slot of the die, of a VF in a partition, and has
packets. With the firmware not running nothing happens. -/
def Claim.SlotRotation : Prop :=
  ∀ (s : State), (s.dev.fwState ≠ 2 → exec .slotQuantum s = .next s) ∧
    (s.dev.fwState = 2 → ∃ t, exec .slotQuantum s = .next t ∧ t.cores = s.cores ∧ t.dram = s.dram ∧ t.parts = s.parts ∧
      (∀ n, n / 64 ≠ s.cur.ev.die → t.slots.find? n = s.slots.find? n) ∧
      ∀ n h, s.slots.find? n = some h → h.reclaim = true → t.slots.find? n = some h) ∧
    (∀ die i now vf k q, s.slots.find? (die * 64 + i) = none → s.dev.slotClass die i ≠ none →
      s.longest die ((s.dev.slotClass die i).getD 0) = some (vf, k, q) → q.watch = false → s.rotate die i now =
        { s with slots := s.slots.put (die * 64 + i) { vf := vf, part := (s.vf vf).partition, queue := k, since := s.nextId },
                 nextId := s.nextId + 1 }) ∧
    (∀ die i now c vf k q, s.slots.find? (die * 64 + i) = none → (∀ d, s.dev.slotClass die i = some d → s.longest die d = none) →
      s.spareClass die = some c → s.longest die c = some (vf, k, q) → q.watch = false → s.rotate die i now =
        { s with dev := { s.dev with spareTurn := (c + 1) % 4 },
                 slots := s.slots.put (die * 64 + i) { vf := vf, part := (s.vf vf).partition, queue := k, since := s.nextId },
                 nextId := s.nextId + 1 }) ∧
    (∀ die cls vf k q, s.longest die cls = some (vf, k, q) → q.en = true ∧ q.die = die ∧ q.cls = cls ∧
      (∀ n h, (n, h) ∈ s.slots → n / 64 = die → h.vf = vf → h.queue ≠ k) ∧ (q.watch = true ∨ q.rd < q.wr) ∧ (s.vf vf).partition < 20)

/-- A launched job starts, graphs proceed, queue slots rotate. -/
def Obligations.JobsAndGraphs : Prop := Claim.BankLoading ∧ Claim.GraphProgress ∧ Claim.SlotRotation

/-! ## Firmware, power and attestation -/

/-- R378, R379: FWCTL.GO of an idle complex that waits for an image, and UPDATE of a running one: a verified image goes on, one that is not fails; other
writes are discarded. A takeover changes only the roles of the complexes, and waits while a packet is partly expanded. That the image is
read and checked in one action as GO is written is the model's choice (log entry 79). -/
def Claim.FirmwareUpdates : Prop :=
  ∀ (s : State), let v := s.cur.ev.val.toNat
    let d := s.dev
    let len := v % 2 ^ 32
    let img := s.cur.ev.bytes.take len ++ List.replicate (len - s.cur.ev.bytes.length) 0
    (v / 2 ^ 32 = 1 → 0 < len → len ≤ 2 ^ 28 → d.busy = false → (d.fwState = 1 ∨ d.fwState = 3) →
      ∃ t : Device, exec .fwctlGo s = .next { s with dev := t } ∧ t.fwDigest = sha512 img ∧
        (Config.imageOk img = true → t.fwState = 1 ∧ t.fail = false ∧ t.checked = true) ∧
        (Config.imageOk img = false → t.fwState = 3 ∧ t.fail = true ∧ t.checked = d.checked)) ∧
    (d.busy = true ∨ (d.fwState ≠ 1 ∧ d.fwState ≠ 3) ∨ len = 0 ∨ 2 ^ 28 < len → exec .fwctlGo s = .next s) ∧
    (v / 2 ^ 32 = 2 → 0 < len → len ≤ 2 ^ 28 → d.busy = false → d.fwState = 2 →
      ∃ t : Device, exec .fwctlUpdate s = .next { s with dev := t } ∧
        (Config.imageOk img = true ∧ Config.acceptsTable img = true → t.updating = true ∧ t.fail = false ∧ t.image = img) ∧
        (¬ (Config.imageOk img = true ∧ Config.acceptsTable img = true) → t.fail = true ∧ t.updating = d.updating ∧ t.image = d.image)) ∧
    (d.busy = true ∨ d.fwState ≠ 2 → exec .fwctlUpdate s = .next s) ∧
    (d.updating = false ∨ (∃ l ∈ s.launches, l.target ≠ none) ∨ (∃ g ∈ s.graphs, g.partly = true) → exec .liveUpdateTakeover s = .next s) ∧
    (d.updating = true → (∀ l ∈ s.launches, l.target = none) → (∀ g ∈ s.graphs, g.partly = false) →
      exec .liveUpdateTakeover s = .next { s with dev :=
      { d with updating := false, busy := false, activeDie7 := !d.activeDie7, fwDigest := sha512 d.image } })

/-- R21, R302, R307, R380, R385, R390: POWER_LOSS leaves the weight tier (the VF field of a region comes up unassigned, WLIM at its default)
and the migration escrow, and nothing else of the package (what it keeps is the model's reading: log entry 79): no bank is live and no
register or byte keeps its value; POWER_UP sets TIMEBASE to 0 and lets the boot ROMs wait for an image; START_UP, after a verified image,
brings the firmware to state 2 and clears the lane maps. A package without power does nothing but power up. -/
def Claim.PowerAndStartUp : Prop :=
  ∀ (s : State),
    (∃ t, exec .powerLoss s = .next t ∧ t.dev.escrow = s.dev.escrow ∧ t.cores = [] ∧ t.dram = [] ∧ t.acc = [] ∧ t.copies = [] ∧
      t.parts = [] ∧ t.vfs = [] ∧ t.keys = State.reset.keys ∧ t.dev.powered = false ∧ t.dev.fwState = 0 ∧
      (∀ c, { t.slice c with regions := (s.slice c).regions, wlim := (s.slice c).wlim } = s.slice c ∧ (t.slice c).wlim = 1000000) ∧
      (∀ c i, (t.slice c).regions.get i {} = { (s.slice c).regions.get i {} with vf := 0xFF })) ∧
    (s.dev.powered = false → exec .powerUp s = .next
      { s with timebase := 0, dev := { s.dev with powered := true, fwState := 1, bootCount := s.dev.bootCount + 1 } }) ∧
    (s.dev.powered = true → exec .powerUp s = .next s) ∧
    (s.dev.checked = true → s.dev.fwState = 1 → ∃ t, exec .startUp s = .next t ∧ t.dev.fwState = 2 ∧ t.dev.busy = false ∧
      (∀ c, (t.core c).lanes = [] ∧ { t.core c with lanes := (s.core c).lanes } = s.core c) ∧
      t.timebase = (if s.cur.ev.fromPf = true then s.cur.ev.val.toNat else s.timebase) ∧ t.dram = s.dram ∧ t.tier = s.tier) ∧
    (s.dev.checked = false ∨ s.dev.fwState ≠ 1 → exec .startUp s = .next s) ∧
    (s.dev.powered = false → (∀ ev, s.agenda.head? ≠ some (.event .powerUp ev)) → s.agenda ≠ [] →
      step s = .next { s with ctr := s.ctr + 1, cur := {}, agenda := s.agenda.tail })

/-- R381, R391: GET_MEASUREMENTS answers with the measurement block that is asked for, or with all four, signed; the package key leaves the
firmware only to an authenticated session of a running firmware. Nothing else changes. -/
def Claim.Attestation : Prop :=
  ∀ (s : State),
    (let block (i : Nat) : List Byte := if i = 1 then leBytes Config.romDigest.toNat 64 else if i = 2 then leBytes s.dev.fwDigest.toNat 64
        else if i = 3 then leBytes (sha512 s.tables).toNat 64 else s.dev.manifest
     let i := s.cur.ev.idx
     let blocks := if 1 ≤ i ∧ i ≤ 4 then block i else block 1 ++ block 2 ++ block 3 ++ block 4
     exec .getMeasurements s = .next { s with dev := { s.dev with outbox := blocks ++ leBytes (Config.sign blocks).toNat 512 } }) ∧
    (s.cur.ev.fromPf = true → s.dev.fwState = 2 → exec .packageKeyExport s = .next
      { s with dev := { s.dev with outbox := Config.exportKey (Config.packageKey s.dev.bootCount) s.cur.ev.bytes } }) ∧
    (s.cur.ev.fromPf = false ∨ s.dev.fwState ≠ 2 → exec .packageKeyExport s = .next s)

/-- Firmware, power and attestation. -/
def Obligations.Firmware : Prop := Claim.FirmwareUpdates ∧ Claim.PowerAndStartUp ∧ Claim.Attestation

/-! ## Sanity: words written out from the spec decode to their instructions -/

/-- R24 to R46: words written out from the spec's encodings decode to the instructions they stand for, with their waits and signals. -/
def Claim.KnownWords : Prop :=
  let a : Ann := ⟨.none, .none⟩
  decode .c 0x4489184D30000005 = .ok (⟨.clr 4, .done 9⟩, .addi (.l 3) (.l 3) 5) ∧
  decode .c 0x00002A43FFFFFFFF = .ok (a, .bne (.l 0) .zr (-1)) ∧
  decode .c 0x0000404D45000008 = .ok (a, .ld ⟨.l 3, .l 4, .b4, true, 8⟩) ∧
  decode .c 0x0000504D45404E00 = .ok (a, .amoadd ⟨.l 3, .l 4, .l 5, .core, false, true, .b8⟩) ∧
  decode .a 0x0000214238004000 = .ok (a, .alds ⟨.am 0, 2, 3, .b4, .normal, 4, .stream, false, false⟩) ∧
  decode .v 0x0000041844368000 = .ok (a, .vfma 3 1 2 3 ⟨.fp32, .rne, false, false, false, false⟩) ∧
  decode .m 0x00000A1000140000 = .ok (a, .mma 0 (.q (.am 0)) 0 1 false) ∧
  decode .m 0x0000231140000000 = .ok (a, .steval 4 5) ∧
  decode .d 0x0000011231720000 = .ok (a, .dcopy ⟨1, 2, 3, 5, true, true, .seat, 0⟩) ∧
  decode .c 0x0000A10000000001 = .ok (a, .rte 1) ∧ decode .c 0x0000B00124C00000 = .ok (a, .gate (.l 2) (.l 3))

/-- Sanity: words written out from the spec decode to their instructions. -/
def Obligations.SanityWords : Prop := Claim.KnownWords

/-! ## Decoding the word of any well-formed instruction gives it back -/

/-- R24 to R46: every well-formed instruction of every engine, with every wait and signal, is what its word decodes to. -/
def Claim.DecodeOfEncode : Prop :=
  ∀ (e : Engine) (ann : Ann) (i : Instr), wf e i = true → decode e (encode e ann i) = .ok (ann, i)

/-- Decoding the word of any well-formed instruction gives it back. -/
def Obligations.DecodeInvertsEncode : Prop := Claim.DecodeOfEncode

/-! ## A word that decodes is the only word of its instruction; words that are rejected -/

/-- R24 to R46: a word that decodes has no other spelling: its instruction is well formed and is encoded by this word alone. -/
def Claim.WordsHaveOneMeaning : Prop :=
  ∀ (e : Engine) (w : Word) (ann : Ann) (i : Instr), decode e w = .ok (ann, i) → wf e i = true ∧ encode e ann i = w

/-- R24, R25 steps 1 to 3, R31: words that are no instruction: a signal of kind 11, a wait number under kind 00, a reserved register code, a
nonzero zero-field; and an opcode that the engine's map does not assign. -/
def Claim.RejectedWords : Prop :=
  (∀ (e : Engine) (n : Nat), n < 2 ^ 64 → n / 2 ^ 54 % 4 = 3 → ∃ x, decode e (BitVec.ofNat 64 n) = .error x) ∧
  (∀ (e : Engine) (n : Nat), n < 2 ^ 64 → n / 2 ^ 62 = 0 → n / 2 ^ 56 % 64 ≠ 0 → ∃ x, decode e (BitVec.ofNat 64 n) = .error x) ∧
  (∀ (d a b : Nat), d < 64 → a < 64 → b < 64 → 40 ≤ d → d < 63 →
    ∃ x, decode .c (BitVec.ofNat 64 (0x01 * 2 ^ 40 + d * 2 ^ 34 + a * 2 ^ 28 + b * 2 ^ 22)) = .error x) ∧
  (∀ o, 0 < o → o < 2 ^ 34 → ∃ x, decode .c (BitVec.ofNat 64 (0xAA * 2 ^ 40 + o)) = .error x) ∧
  (∀ (e : Engine) (op o : Nat), op < 256 → o < 2 ^ 40 → opAssigned e op = false → decode e (BitVec.ofNat 64 (op * 2 ^ 40 + o)) =
    .ok (⟨.none, .none⟩, .unassignedOpcode (BitVec.ofNat 8 op) (BitVec.ofNat 40 o)))

/-- A word that decodes is the only word of its instruction; words that are rejected. -/
def Obligations.OneMeaningPerWord : Prop := Claim.WordsHaveOneMeaning ∧ Claim.RejectedWords

/-! ## A step runs the instruction that the fetched word decodes to -/

/-- R25, R28, R29, R326: an attempt of a stream that may run: the word at its address in its ring, when it decodes to `i`, is executed as `i` for that
stream with that wait and signal; a word fetched ahead is issued in place of the ring's. With poison in the bank, what the instruction
has written is poisoned no more. A D stream one of whose copies waits for a second-stage answer (R137) issues nothing. -/
def Claim.AttemptRunsDecoded : Prop :=
  ∀ (s : State) (core seat : Nat) (e : Engine) (b : Bank) (w : Word) (ann : Ann) (i : Instr),
    s.bank core seat = some b → b.mayRun e = true → decode e w = .ok (ann, i) →
    ((b.ctl e).fetched.find? (b.ctl e).pc = some (.word w) ∨
      ((b.ctl e).fetched = [] ∧ s.fetchAt core (b.ctl e).pc = .word w)) →
    let s1 := { s with cur := { core := core, seat := seat, eng := e, ann := ann } }
    let held := e = .d ∧ ∃ r ∈ s.copies, r.job = b.job ∧ r.s2stall ≠ none
    (held → attempt s core seat e = .next { s with cur := { core := core, seat := seat, eng := e, blocked := true } }) ∧
    (¬ held → b.bad = [] → attempt s core seat e = exec i s1) ∧
    (¬ held → b.bad ≠ [] →
      let s2 := { s with cur := { core := core, seat := seat, eng := e, ann := ann, consumes := b.consumesBad e i } }
      ∀ t, exec i s2 = .next t → attempt s core seat e = .next (t.clearBad core seat e i))

/-- R25, R326: an instruction that reads a poisoned register, and that has its level, its compartment, its slot and its wait, raises UNCORR as it
issues, and its body does nothing; TRAPADDR is 0 by the model's choice (log entry 105). -/
def Claim.PoisonedOperands : Prop :=
  ∀ (s : State) (p : Pre) (body : State → Bank → Res State) (x y : Bank),
    Ready { s with cur := { s.cur with consumes := false } } p x y → s.cur.consumes = true →
    issue p body s = .next (s.stops y { cause := .uncorr, past := decide (s.cur.eng ≠ .c ∧ s.cur.eng ≠ .m),
                                        prog := if s.cur.eng = .m then (y.minst.map (·.prog)).getD 0 else 0 })

/-- R25, R129: a step that is an engine's turn, in a package with power, when the scheduler chooses a seat whose next word in its ring decodes to
`i`, is exec of `i` for that stream, in the state in which time has passed, the turn is taken and the issue is counted. -/
def Claim.StepRunsDecoded : Prop :=
  ∀ (s : State) (core v j : Nat) (e : Engine) (ts : List Turn) (b : Bank) (w : Word) (ann : Ann) (i : Instr),
    s.dev.powered = true → s.agenda = .engine core e :: ts → Chosen s core e v j →
    let s1 := s.scheduled core e v j
    s1.bank core j = some b → b.mayRun e = true → b.bad = [] → (e = .d → ∀ r ∈ s1.copies, r.job = b.job → r.s2stall = none) →
    (b.ctl e).fetched = [] → s1.fetchAt core (b.ctl e).pc = .word w → decode e w = .ok (ann, i) →
    step s = exec i { s1 with cur := { core := core, seat := j, eng := e, ann := ann } }

/-- A step runs the instruction that the fetched word decodes to. -/
def Obligations.StepIsExec : Prop := Claim.AttemptRunsDecoded ∧ Claim.PoisonedOperands ∧ Claim.StepRunsDecoded

/-! ## The scheduler's choice, and the traps of a fetch -/

/-- R128, R129: the scheduler idles only when no stream of the engine is ready; the seat it chooses is ready and holds a job of the VF it
chooses. -/
def Claim.SchedulerChoice : Prop :=
  ∀ (s : State) (core : Nat) (e : Engine) (refill : Bool),
    (s.choose core e refill = none ↔ ∀ i, i < 4 → ready s core i e = false) ∧
    (∀ v j, s.choose core e refill = some (v, j) → j < 4 ∧ ready s core j e = true ∧ ∃ b, s.bank core j = some b ∧ b.vf = v)

/-- R30, R325, R326: a word that a stream is to issue, with a part that is not valid, raises SPUNINIT with TRAPADDR = the part's address, and when
the word had failed as it was fetched ahead the failure is logged with SPEC = 0; an uncorrectable word raises UNCORR; a word that
does not decode ILLEGAL; an unassigned opcode ILLEGAL. In M they wait for passed products (the model's choice, assumption 97). -/
def Claim.FetchTraps : Prop :=
  ∀ (s : State) (core seat : Nat) (e : Engine) (b : Bank), s.bank core seat = some b → b.mayRun e = true →
    (e = .d → ∀ r ∈ s.copies, r.job = b.job → r.s2stall = none) → (∀ w, (b.ctl e).fetched.find? (b.ctl e).pc ≠ some (.word w)) →
    let s0 := { s with cur := { core := core, seat := seat, eng := e } }
    let c := s.core core
    let pc := (b.ctl e).pc
    let s1 := if pc ∈ (b.ctl e).failed then
        s0.log core seat ⟨5, false, e.idx, b.part * 128 + b.vf, 0, BitVec.ofNat 64 (if c.valid.getLsbD (pc / 4) = false then pc else pc + 4)⟩
      else s0
    let b1 := b.setCtl e { b.ctl e with failed := (b.ctl e).failed.filter (· != pc) }
    let clean := c.poison.getLsbD (pc / 4) = false ∧ c.poison.getLsbD (pc / 4 + 1) = false
    (b.unsettled e = true → (∀ w ann i, s.fetchAt core pc = .word w → decode e w ≠ .ok (ann, i)) →
      attempt s core seat e = .next s0.blockedAt) ∧
    (b.unsettled e = false →
      (clean → c.valid.getLsbD (pc / 4) = false →
        attempt s core seat e = .next (s1.trapped b1 (trapOf e .spuninit (BitVec.ofNat 64 pc)))) ∧
      (clean → c.valid.getLsbD (pc / 4) = true → c.valid.getLsbD (pc / 4 + 1) = false →
        attempt s core seat e = .next (s1.trapped b1 (trapOf e .spuninit (BitVec.ofNat 64 (pc + 4))))) ∧
      (¬ clean → ∃ (addr : Word) (t : State), attempt s core seat e = .next (t.trapped b (trapOf e .uncorr addr)) ∧ t.cur = s0.cur) ∧
      (∀ w x, s.fetchAt core pc = .word w → decode e w = .error x → attempt s core seat e = .next (s0.trapped b (trapOf e .illegal))) ∧
      ∀ op o, exec (.unassignedOpcode op o) s0 = .next (s0.trapped b (trapOf e .illegal)))

/-- The scheduler's choice, and the traps of a fetch. -/
def Obligations.ChoiceAndFetch : Prop := Claim.SchedulerChoice ∧ Claim.FetchTraps

/-! ## Forms whose completion is stated on its own -/

/-- R103, R105, R106, R109, R124, R195, R355: NOP, WSYNC, FENCE, MFS, SSTEP, ZSCRUB and RDV complete: the stream goes on to its next word,
or is done. -/
def Claim.PlainFormsComplete : Prop :=
  ∀ (s : State) (x y : Bank),
    let e := s.cur.eng
    (Ready s {} x y → Completes s y .nop fun t b => sameRegs b y ∧ ∀ l n, t.readLoc l n = s.readLoc l n) ∧
    (∀ scope kinds, Ready s {} x y → Completes s y (.fence scope kinds) fun t b => sameRegs b y ∧ ∀ l n, t.readLoc l n = s.readLoc l n) ∧
    (∀ d r, e = .c → Ready s { lvl := srReadLevel r, regs := [d] } x y → Completes s y (.mfs d r) fun _ b =>
      b.getC d = if d = .zr then 0 else s.special y r) ∧
    (e = .c → Ready s {} x y → (∀ a ∈ s.acc, a.job ≠ y.job) → Completes s y .wsync fun _ b => b.cS.fetched = [] ∧ sameRegs b y) ∧
    (e = .c → Ready s {} x y → y.ssPart = true → y.cS.stage = .second → y.job ∈ (s.part y.part).ssReleased →
      (s.waited y).acquireReady y.job .c = true → Completes s y .sstep fun t _ => y.job ∉ (t.part y.part).ssReleased) ∧
    (∀ a bytes s2 kind start n, e = .c → Ready s { lvl := .h, regs := [a] } x y → y.cS.stage = .fresh → (y.getC a).toNat % 32 = 0 →
      (s.waited y).readLines y 32 1 (y.getC a) = .ok (bytes, s2) → scrubRecord bytes = some (kind, start, n) → kind ≠ 2 →
      (∀ o ∈ s.acc, ∀ z ∈ o.elems, z.done = true) →
      Completes s y (.zscrub a) fun t _ => ∃ z ∈ t.scrubs, z.kind = kind ∧ z.start = start ∧ z.count = n ∧ z.complete = false) ∧
    (Ready s { ctl := true } x y → y.seam = none → s.streamBusy y e = false → (s.waited y).requestsOf s.cur.core y e = false →
      ∃ t b, exec .rdv s = .next t ∧ t.bank s.cur.core s.cur.seat = some b ∧ (b.ctl e).done = true)

/-- R264, R265, R271 to R277: the stitch instructions of the seat that owns the file complete, with their tokens there; STEVAL when it is past its last
rule. -/
def Claim.StitchFormsComplete : Prop :=
  ∀ (s s2 : State) (x y : Bank) (w : Word) (f : FmtWord) (rest : List QEntry), Ready s {} x y → OwnsFile s y → s.cur.eng = .m →
    let z := y.holding w rest
    let s0 := s.waited y
    let s1 := s.waited z
    (Pays s0 s.cur.core (s.mine y) 1 s2 → Completes s y .stclr fun _ b => b.stitch = {}) ∧
    (∀ a n, HasWord s y w f rest → f.af.isBlock = false →
      MFine s1 z (y.getH a) (n.val * vecBytes ((y.stitch.header.map (·.width)).getD 32768) f.af) 64 → Pays s1 s.cur.core (s.mine y) 1 s2 →
      Completes s y (.stin a n) fun _ b => b.stitch.batch = some ⟨y.getH a, n.val, f.af, f.asc⟩ ∧ b.queue .fq = rest) ∧
    (∀ r v h, WFine s0 s.cur.core y.vf (y.getH r) 64 64 → s0.portRead s.cur.core ((y.getH r).toNat % 2 ^ 27) 64 = .data v →
      headerOf (y.getH r) v = some h → WFine s0 s.cur.core y.vf (y.getH r) h.seglen 64 → y.stitch.batch = none →
      Pays s0 s.cur.core (s.mine y) 1 s2 → Completes s y (.sthdr r) fun _ b => b.stitch.header = some h ∧ b.stitch.file = []) ∧
    (∀ a r ev, y.stitch.eval = some ev → ev.last < ev.rule →
      Completes s y (.steval a r) fun _ b => b.stitch.eval = none ∧ b.stitch.file = y.stitch.file) ∧
    (∀ t tab h q, HasWord s y w f rest → y.tileBusy t = false → y.stitch.header = some h → y.stitch.batch = some q →
      (∀ j, j < h.tops → (y.stitch.file.find? (h.rules - h.tops + j)).isSome = true) → y.zk.getLsbD t = false → h.ocol + h.tops ≤ 64 →
      Pays s1 s.cur.core (s.mine y) 2 s2 →
      Completes s y (.stout t 0 tab) fun _ b => b.stitch.file = y.stitch.file ∧ b.queue .fq = rest ∧ ∀ u : Fin 4, u ≠ t → b.z[u] = y.z[u])

/-- R280, R285 to R299: each request of the copy engine that it accepts completes, as an instruction, when it is accepted: the stream goes on, and its
tag is not set. -/
def Claim.CopyFormsComplete : Prop :=
  ∀ i k, CopyForm i k → ∀ (s : State) (x y : Bank) (o : DcArgs), Ready s {} x y → s.cur.eng = .d →
    CopyAccepts (s.waited y) y k o → CopyRoom (s.waited y) y k o →
    Completes s y (i o) fun t b => b.tagbits.getLsbD o.tag.val = false ∧ ∃ r ∈ t.copies, r.id = s.nextId ∧ r.kind = k ∧ r.tag = o.tag

/-- R83, R84, R14, R355, R356: the events WINDOW_SPILL, WINDOW_SPILL_DONE, WINDOW_FILL, WINDOW_FILL_DONE, JOB_RETIRE, ZSCRUB_COMPLETE and BANKSCRUB take
place when their conditions hold. -/
def Claim.EventFormsComplete : Prop :=
  ∀ (s : State) (b : Bank), s.bank s.cur.core s.cur.seat = some b →
    let occurs (i : Instr) (P : State → Bank → Prop) : Prop := ∃ t c, exec i s = .next t ∧ t.bank s.cur.core s.cur.seat = some c ∧ P t c
    (8 ≤ b.rsd → b.spd < (b.spillLim - b.spillBase) / 192 → b.spill = none → b.frozen = none →
      occurs .windowSpill fun _ c => c.spill = some (.spill 0)) ∧
    (∀ n, b.spill = some (.spill n) → b.older ≠ [] → occurs .windowSpillDone fun _ c => c.spd = b.spd + 1 ∧ c.spill = none ∧ c.depth = b.depth) ∧
    (b.rsd ≤ 1 → 0 < b.spd → b.spill = none → b.frozen = none → b.fillTrap = none → occurs .windowFill fun _ c => c.spill = some .fill) ∧
    (b.spill = some .fill → 0 < b.spd → firstPart (s.core s.cur.core).poison true (b.spillBase + 192 * (b.spd - 1)) 192 = none →
      firstPart (s.core s.cur.core).valid false (b.spillBase + 192 * (b.spd - 1)) 192 = none →
      occurs .windowFillDone fun _ c => c.spd = b.spd - 1 ∧ c.spill = none ∧ c.depth = b.depth) ∧
    (s.mayRetire s.cur.core s.cur.seat b = true → ((s.core s.cur.core).seat s.cur.seat).shadow = .empty →
      ∃ t, exec .jobRetire s = .next t ∧ t.bank s.cur.core s.cur.seat = none) ∧
    (∀ z, s.scrubs = [z] → s.cur.ev.idx = 0 → z.complete = false → s.scrubWaits z = false →
      ∃ t, exec .zscrubComplete s = .next t ∧ t.scrubs = [{ z with complete := true }]) ∧
    (∀ st, s.cur.ev.idx = 0 → b.stopped = false → b.ended = false → b.hring.len ≠ 0 → b.handler = false → b.cS.scrub = some st → s.refuses st.target = true →
      occurs .bankscrub fun _ c => c.cS.trapped = true ∧ c.handling = true ∧
        (b.handling = false → c.trap.cause = 0x13 ∧ c.trap.addr = st.addr))

/-- Forms whose completion is stated on its own. -/
def Obligations.FormsComplete : Prop :=
  Claim.PlainFormsComplete ∧ Claim.StitchFormsComplete ∧ Claim.CopyFormsComplete ∧ Claim.EventFormsComplete

/-! ## No step stops the machine (the model's own), and the frame of a completed instruction -/

/-- The model's own: no step stops the machine: whatever its state, an instruction that cannot go on waits or takes a trap (R319), and an event
that cannot take place changes nothing. -/
def Claim.StepsNeverStop : Prop := ∀ s : State, StepSafe s

/-- The frame of every instruction that completes: but for what its statement names, nothing outside the bank of its seat changes but a marker
for a signal on its way, and in its bank nothing but the position of its stream, the signal it sets and the count of an open seam. -/
def Claim.CompletionFrame : Prop :=
  ∀ (s : State) (x : Bank) (g : Go) (late : Bool), SameElse s (s.done x g late) ∧
    ∃ b, (s.done x g late).bank s.cur.core s.cur.seat = some b ∧ b.restore x s.cur.eng = x ∧
      (∀ n : Fin 64, x.sg.getLsbD n = true → b.sg.getLsbD n = true) ∧
      (∀ n : Fin 64, b.sg.getLsbD n = true → x.sg.getLsbD n = true ∨ s.cur.ann.sig = .issue n ∨ s.cur.ann.sig = .done n)

/-- No step stops the machine (the model's own), and the frame of a completed instruction. -/
def Obligations.NothingStops : Prop := Claim.StepsNeverStop ∧ Claim.CompletionFrame

/-! ## The model's own: every step keeps the memories canonical and lists each core once -/

/-- The model's own: every step keeps the memories in canonical form and lists each core once. -/
def Claim.StepKeepsInv : Prop := ∀ s t : State, Inv s → step s = .next t → Inv t

/-- The model's own: every step keeps the memories canonical and lists each core once. -/
def Obligations.InvariantKept : Prop := Claim.StepKeepsInv

/-! ## What reset leaves, and that it meets the invariant (the invariant is the model's own) -/

/-- R21, R46, R151, R302, R344, R365, R378: after reset: no seat holds a bank, no part of scratchpad is valid and no unit is owned (no rule
gives these two a reset value; the model's choice: log entry 7), TOKENS and TOKMAX are 65536 and TOKRATE 1000, partitions have PMTAGS 4096
and TICKPER 33333333 and are not valid, WLIM is 1000000, the firmware waits for an image. -/
def Claim.ResetValues : Prop :=
  (∀ c i, State.reset.bank c i = none ∧ ((State.reset.core c).seat i).shadow = .empty) ∧
  (∀ c, (State.reset.core c).valid = 0 ∧ (State.reset.core c).owner = [] ∧ (State.reset.core c).tokens = 65536 ∧
    (State.reset.core c).tokmax = 65536 ∧ (State.reset.core c).tokrate = 1000 ∧ (State.reset.slice c).wlim = 1000000) ∧
  (∀ p, (State.reset.part p).valid = false ∧ (State.reset.part p).pmtags = 4096 ∧ (State.reset.part p).tickper = 33333333) ∧
  State.reset.dev.fwState = 1 ∧ State.reset.acc = [] ∧ State.reset.copies = []

/-- The model's own: the machine after reset meets the invariant. -/
def Claim.ResetInv : Prop := Inv State.reset

/-- What reset leaves, and that it meets the invariant (the invariant is the model's own). -/
def Obligations.AfterReset : Prop := Claim.ResetValues ∧ Claim.ResetInv
end

