-- ==== Sys2Proof/Laws/Memory.lean ====
section
/-! SUPPORT. Byte memory: every operation keeps the canonical form, a read gives what was last written at its address, and a number
comes back from its little-endian bytes. -/
namespace Sys2Proof.Machine

/-- An entry list that starts later is canonical from any earlier address. -/
theorem wfFrom_mono {m : Memory} {lo lo' : Nat} (h : m.wfFrom lo = true) (hl : lo' ≤ lo) : m.wfFrom lo' = true := by
  cases m with
  | nil => rfl
  | cons x m =>
    obtain ⟨k, v⟩ := x
    simp only [Memory.wfFrom, Bool.and_eq_true, decide_eq_true_eq] at h ⊢
    exact ⟨⟨by omega, h.1.2⟩, h.2⟩

/-- An address below every entry reads as an unlisted one. -/
theorem read_below {m : Memory} {lo a : Nat} (h : m.wfFrom lo = true) (ha : a < lo) : m.read a = Memory.unlisted := by
  induction m generalizing lo with
  | nil => rfl
  | cons x m ih =>
    obtain ⟨k, v⟩ := x
    simp only [Memory.wfFrom, Bool.and_eq_true, decide_eq_true_eq] at h
    have hk : k ≠ a := by omega
    simp only [Memory.read, hk, if_false]
    exact ih h.2 (by omega)

theorem erase_wfFrom {m : Memory} {lo : Nat} (a : Nat) (h : m.wfFrom lo = true) : (m.erase a).wfFrom lo = true := by
  induction m generalizing lo with
  | nil => rfl
  | cons x m ih =>
    obtain ⟨k, v⟩ := x
    simp only [Memory.wfFrom, Bool.and_eq_true, decide_eq_true_eq] at h
    unfold Memory.erase
    split
    · exact wfFrom_mono h.2 (by omega)
    · simp only [Memory.wfFrom, Bool.and_eq_true, decide_eq_true_eq]; exact ⟨h.1, ih h.2⟩

theorem insert_wfFrom {m : Memory} {lo a : Nat} {v : Byte} (h : m.wfFrom lo = true) (ha : lo ≤ a) (hv : v ≠ Memory.unlisted) :
    (m.insert a v).wfFrom lo = true := by
  induction m generalizing lo with
  | nil => simp [Memory.insert, Memory.wfFrom, ha, hv]
  | cons x m ih =>
    obtain ⟨k, w⟩ := x
    simp only [Memory.wfFrom, Bool.and_eq_true, decide_eq_true_eq] at h
    unfold Memory.insert
    split
    · simp only [Memory.wfFrom, Bool.and_eq_true, decide_eq_true_eq]; exact ⟨⟨ha, hv⟩, ⟨by omega, h.1.2⟩, h.2⟩
    · split
      · rename_i hk; subst hk
        simp only [Memory.wfFrom, Bool.and_eq_true, decide_eq_true_eq]; exact ⟨⟨ha, hv⟩, h.2⟩
      · simp only [Memory.wfFrom, Bool.and_eq_true, decide_eq_true_eq]; exact ⟨h.1, ih h.2 (by omega)⟩

/-- A write of one byte keeps the canonical form. -/
theorem write_wf {m : Memory} (a : Nat) (v : Byte) (h : m.wf = true) : (m.write a v).wf = true := by
  unfold Memory.write
  split
  · exact erase_wfFrom a h
  · rename_i hv; exact insert_wfFrom h (Nat.zero_le a) hv

/-- A write of bytes keeps the canonical form. -/
theorem writeBytes_wf {m : Memory} (a : Nat) (bs : List Byte) (h : m.wf = true) : (m.writeBytes a bs).wf = true := by
  induction bs generalizing m a with
  | nil => exact h
  | cons b bs ih => exact ih (a + 1) (write_wf a b h)

theorem read_insert (m : Memory) (a : Nat) (v : Byte) (b : Nat) : (m.insert a v).read b = if b = a then v else m.read b := by
  induction m with
  | nil => by_cases h : b = a <;> simp [Memory.insert, Memory.read, h, Ne.symm]
  | cons x m ih =>
    obtain ⟨k, w⟩ := x
    unfold Memory.insert
    split
    · simp only [Memory.read]
      by_cases h : a = b
      · simp [h]
      · simp [h, Ne.symm h]
    · split
      · rename_i hk; subst hk
        by_cases h : a = b <;> simp [Memory.read, h, Ne.symm]
      · rename_i hk
        simp only [Memory.read, ih]
        by_cases h : b = a
        · subst h; simp [Ne.symm hk]
        · simp [h]

theorem read_erase {m : Memory} {lo : Nat} (a b : Nat) (h : m.wfFrom lo = true) :
    (m.erase a).read b = if b = a then Memory.unlisted else m.read b := by
  induction m generalizing lo with
  | nil => simp [Memory.erase, Memory.read]
  | cons x m ih =>
    obtain ⟨k, w⟩ := x
    simp only [Memory.wfFrom, Bool.and_eq_true, decide_eq_true_eq] at h
    unfold Memory.erase
    split
    · rename_i hk; subst hk
      by_cases hb : b = k
      · subst hb; simp [read_below h.2 (Nat.lt_succ_self b)]
      · simp [Memory.read, hb, Ne.symm hb]
    · rename_i hk
      simp only [Memory.read, ih h.2]
      by_cases hb : b = a
      · subst hb; simp [hk]
      · simp [hb]

/-- A read after a write of one byte. -/
theorem read_write {m : Memory} (a b : Nat) (v : Byte) (h : m.wf = true) : (m.write a v).read b = if b = a then v else m.read b := by
  unfold Memory.write
  split
  · rename_i hv; rw [read_erase a b h, hv]
  · exact read_insert m a v b

/-- A read outside the bytes of a write gives what it gave before. -/
theorem read_writeBytes_out {m : Memory} {a b : Nat} (bs : List Byte) (h : m.wf = true) (hb : b < a ∨ a + bs.length ≤ b) :
    (m.writeBytes a bs).read b = m.read b := by
  induction bs generalizing m a with
  | nil => rfl
  | cons x bs ih =>
    simp only [List.length_cons] at hb
    rw [Memory.writeBytes, ih (write_wf a x h) (by omega), read_write a b x h]
    have : b ≠ a := by omega
    simp [this]

/-- The bytes of a write are read back. -/
theorem readBytes_writeBytes {m : Memory} (a : Nat) (bs : List Byte) (h : m.wf = true) :
    (m.writeBytes a bs).readBytes a bs.length = bs := by
  induction bs generalizing m a with
  | nil => rfl
  | cons x bs ih =>
    simp only [Memory.writeBytes, List.length_cons, Memory.readBytes]
    rw [ih (a + 1) (write_wf a x h), read_writeBytes_out bs (write_wf a x h) (by omega), read_write a a x h]
    simp

/-- A number comes back from its little-endian bytes, modulo their width. -/
theorem leNat_leBytes (x n : Nat) : leNat (leBytes x n) = x % 256 ^ n := by
  induction n generalizing x with
  | zero => simp [leBytes, leNat, Nat.mod_one]
  | succ n ih =>
    have hb : (BitVec.ofNat 8 x).toNat = x % 256 := rfl
    simp only [leBytes, leNat, ih, hb]
    rw [Nat.pow_succ, Nat.mul_comm (256 ^ n) 256, Nat.mod_mul]

theorem leBytes_length (x n : Nat) : (leBytes x n).length = n := by
  induction n generalizing x with
  | zero => rfl
  | succ n ih => simp [leBytes, ih]

/-- The memories of the machine after reset are in canonical form. -/
theorem reset_wf : State.reset.dram.wf = true ∧ State.reset.host.wf = true ∧ ∀ c, (State.reset.core c).sp.wf = true := by
  refine ⟨rfl, rfl, fun c => ?_⟩
  simp only [State.core, State.reset, Table.get, Table.find?]
  rfl

end Sys2Proof.Machine
end

