-- ==== Sys2Proof/Laws/State.lean ====
section
/-! SUPPORT. What the named updates of the state change, one lemma per field: every other field is as before; and reading back what a
named write has written. -/
namespace Sys2Proof.Machine

/-! ## Tables -/

theorem Table.find?_put_self {α : Type} (t : Table α) (a : Nat) (v : α) : Table.find? (Table.put t a v) a = some v := by
  induction t with
  | nil => simp [Table.put, Table.find?]
  | cons x t ih =>
    obtain ⟨k, w⟩ := x
    unfold Table.put
    split
    · simp [Table.find?]
    · split
      · simp [Table.find?]
      · rename_i h; simp [Table.find?, ih, Ne.symm h]

theorem Table.find?_put_ne {α : Type} (t : Table α) {a b : Nat} (v : α) (h : a ≠ b) :
    Table.find? (Table.put t a v) b = Table.find? t b := by
  induction t with
  | nil => simp [Table.put, Table.find?, h]
  | cons x t ih =>
    obtain ⟨k, w⟩ := x
    unfold Table.put
    split
    · simp [Table.find?, h]
    · split
      · rename_i hk; subst hk; simp [Table.find?, h]
      · simp [Table.find?, ih]

theorem Table.put_put {α : Type} (t : Table α) (a : Nat) (v w : α) : Table.put (Table.put t a v) a w = Table.put t a w := by
  induction t with
  | nil => simp [Table.put]
  | cons x t ih =>
    obtain ⟨k, u⟩ := x
    by_cases h : a < k
    · simp [Table.put, h]
    · by_cases h' : a = k
      · simp [Table.put, h']
      · simp [Table.put, h, h', ih]

@[simp] theorem Table.get_put_self {α : Type} (t : Table α) (a : Nat) (v d : α) : Table.get (Table.put t a v) a d = v := by
  simp [Table.get, Table.find?_put_self]
theorem Table.get_put_ne {α : Type} (t : Table α) {a b : Nat} (v d : α) (h : a ≠ b) :
    Table.get (Table.put t a v) b d = Table.get t b d := by
  simp [Table.get, Table.find?_put_ne t v h]

/-! ## Cores, seats and banks -/

@[simp] theorem State.core_setCore (s : State) (n : Nat) (c : Core) : (s.setCore n c).core n = c := by
  simp [State.core, State.setCore]
theorem State.core_setCore_ne (s : State) {n m : Nat} (c : Core) (h : n ≠ m) : (s.setCore n c).core m = s.core m := by
  simp [State.core, State.setCore, Table.get_put_ne _ _ _ h]
@[simp] theorem State.setCore_setCore (s : State) (n : Nat) (c c' : Core) : (s.setCore n c).setCore n c' = s.setCore n c' := by
  simp [State.setCore, Table.put_put]
@[simp] theorem Core.seat_setSeat (c : Core) (i : Nat) (t : Seat) : (c.setSeat i t).seat i = t := by
  simp [Core.seat, Core.setSeat]
@[simp] theorem Core.setSeat_setSeat (c : Core) (i : Nat) (t u : Seat) : (c.setSeat i t).setSeat i u = c.setSeat i u := by
  simp [Core.setSeat]
@[simp] theorem State.bank_setLive (s : State) (c i : Nat) (b : Option Bank) : (s.setLive c i b).bank c i = b := by
  simp [State.bank, State.setLive]
@[simp] theorem State.bank_setBank (s : State) (c i : Nat) (b : Bank) : (s.setBank c i b).bank c i = some b := by
  simp [State.setBank]
@[simp] theorem State.setLive_setLive (s : State) (c i : Nat) (b b' : Option Bank) :
    (s.setLive c i b).setLive c i b' = s.setLive c i b' := by
  simp [State.setLive]
@[simp] theorem State.setBank_setBank (s : State) (c i : Nat) (b b' : Bank) : (s.setBank c i b).setBank c i b' = s.setBank c i b' := by
  simp [State.setBank]
theorem State.bank_setBank_core (s : State) {c c' i i' : Nat} (b : Bank) (h : c ≠ c') : (s.setBank c i b).bank c' i' = s.bank c' i' := by
  simp [State.bank, State.setBank, State.setLive, State.core_setCore_ne _ _ h]
theorem State.bank_setBank_seat (s : State) {c i i' : Nat} (b : Bank) (h : Fin.ofNat 4 i ≠ Fin.ofNat 4 i') :
    (s.setBank c i b).bank c i' = s.bank c i' := by
  have h' : (Fin.ofNat 4 i).val ≠ (Fin.ofNat 4 i').val := fun e => h (Fin.ext e)
  simp only [State.bank, State.setBank, State.setLive, State.core_setCore, Core.seat, Core.setSeat]
  have h'' : i % 4 ≠ i' % 4 := by simpa using h'
  simp [h'']


/-! ## The fields of `State.setCore` -/

@[simp] theorem State.setCore_tier (s : State) (n : Nat) (c : Core) : (s.setCore n c).tier = s.tier := rfl
@[simp] theorem State.setCore_dram (s : State) (n : Nat) (c : Core) : (s.setCore n c).dram = s.dram := rfl
@[simp] theorem State.setCore_host (s : State) (n : Nat) (c : Core) : (s.setCore n c).host = s.host := rfl
@[simp] theorem State.setCore_metas (s : State) (n : Nat) (c : Core) : (s.setCore n c).metas = s.metas := rfl
@[simp] theorem State.setCore_unsealed (s : State) (n : Nat) (c : Core) : (s.setCore n c).unsealed = s.unsealed := rfl
@[simp] theorem State.setCore_resealed (s : State) (n : Nat) (c : Core) : (s.setCore n c).resealed = s.resealed := rfl
@[simp] theorem State.setCore_scrubs (s : State) (n : Nat) (c : Core) : (s.setCore n c).scrubs = s.scrubs := rfl
@[simp] theorem State.setCore_llc (s : State) (n : Nat) (c : Core) : (s.setCore n c).llc = s.llc := rfl
@[simp] theorem State.setCore_tlb (s : State) (n : Nat) (c : Core) : (s.setCore n c).tlb = s.tlb := rfl
@[simp] theorem State.setCore_acc (s : State) (n : Nat) (c : Core) : (s.setCore n c).acc = s.acc := rfl
@[simp] theorem State.setCore_copies (s : State) (n : Nat) (c : Core) : (s.setCore n c).copies = s.copies := rfl
@[simp] theorem State.setCore_sigs (s : State) (n : Nat) (c : Core) : (s.setCore n c).sigs = s.sigs := rfl
@[simp] theorem State.setCore_images (s : State) (n : Nat) (c : Core) : (s.setCore n c).images = s.images := rfl
@[simp] theorem State.setCore_bankOps (s : State) (n : Nat) (c : Core) : (s.setCore n c).bankOps = s.bankOps := rfl
@[simp] theorem State.setCore_keys (s : State) (n : Nat) (c : Core) : (s.setCore n c).keys = s.keys := rfl
@[simp] theorem State.setCore_keyGen (s : State) (n : Nat) (c : Core) : (s.setCore n c).keyGen = s.keyGen := rfl
@[simp] theorem State.setCore_parts (s : State) (n : Nat) (c : Core) : (s.setCore n c).parts = s.parts := rfl
@[simp] theorem State.setCore_vfs (s : State) (n : Nat) (c : Core) : (s.setCore n c).vfs = s.vfs := rfl
@[simp] theorem State.setCore_slots (s : State) (n : Nat) (c : Core) : (s.setCore n c).slots = s.slots := rfl
@[simp] theorem State.setCore_launches (s : State) (n : Nat) (c : Core) : (s.setCore n c).launches = s.launches := rfl
@[simp] theorem State.setCore_graphs (s : State) (n : Nat) (c : Core) : (s.setCore n c).graphs = s.graphs := rfl
@[simp] theorem State.setCore_integ (s : State) (n : Nat) (c : Core) : (s.setCore n c).integ = s.integ := rfl
@[simp] theorem State.setCore_dev (s : State) (n : Nat) (c : Core) : (s.setCore n c).dev = s.dev := rfl
@[simp] theorem State.setCore_timebase (s : State) (n : Nat) (c : Core) : (s.setCore n c).timebase = s.timebase := rfl
@[simp] theorem State.setCore_nextId (s : State) (n : Nat) (c : Core) : (s.setCore n c).nextId = s.nextId := rfl
@[simp] theorem State.setCore_ctr (s : State) (n : Nat) (c : Core) : (s.setCore n c).ctr = s.ctr := rfl
@[simp] theorem State.setCore_agenda (s : State) (n : Nat) (c : Core) : (s.setCore n c).agenda = s.agenda := rfl
@[simp] theorem State.setCore_cur (s : State) (n : Nat) (c : Core) : (s.setCore n c).cur = s.cur := rfl

/-! ## The fields of `State.setLive` -/

@[simp] theorem State.setLive_tier (s : State) (c i : Nat) (b : Option Bank) : (s.setLive c i b).tier = s.tier := rfl
@[simp] theorem State.setLive_dram (s : State) (c i : Nat) (b : Option Bank) : (s.setLive c i b).dram = s.dram := rfl
@[simp] theorem State.setLive_host (s : State) (c i : Nat) (b : Option Bank) : (s.setLive c i b).host = s.host := rfl
@[simp] theorem State.setLive_metas (s : State) (c i : Nat) (b : Option Bank) : (s.setLive c i b).metas = s.metas := rfl
@[simp] theorem State.setLive_unsealed (s : State) (c i : Nat) (b : Option Bank) : (s.setLive c i b).unsealed = s.unsealed := rfl
@[simp] theorem State.setLive_resealed (s : State) (c i : Nat) (b : Option Bank) : (s.setLive c i b).resealed = s.resealed := rfl
@[simp] theorem State.setLive_scrubs (s : State) (c i : Nat) (b : Option Bank) : (s.setLive c i b).scrubs = s.scrubs := rfl
@[simp] theorem State.setLive_llc (s : State) (c i : Nat) (b : Option Bank) : (s.setLive c i b).llc = s.llc := rfl
@[simp] theorem State.setLive_tlb (s : State) (c i : Nat) (b : Option Bank) : (s.setLive c i b).tlb = s.tlb := rfl
@[simp] theorem State.setLive_acc (s : State) (c i : Nat) (b : Option Bank) : (s.setLive c i b).acc = s.acc := rfl
@[simp] theorem State.setLive_copies (s : State) (c i : Nat) (b : Option Bank) : (s.setLive c i b).copies = s.copies := rfl
@[simp] theorem State.setLive_sigs (s : State) (c i : Nat) (b : Option Bank) : (s.setLive c i b).sigs = s.sigs := rfl
@[simp] theorem State.setLive_images (s : State) (c i : Nat) (b : Option Bank) : (s.setLive c i b).images = s.images := rfl
@[simp] theorem State.setLive_bankOps (s : State) (c i : Nat) (b : Option Bank) : (s.setLive c i b).bankOps = s.bankOps := rfl
@[simp] theorem State.setLive_keys (s : State) (c i : Nat) (b : Option Bank) : (s.setLive c i b).keys = s.keys := rfl
@[simp] theorem State.setLive_keyGen (s : State) (c i : Nat) (b : Option Bank) : (s.setLive c i b).keyGen = s.keyGen := rfl
@[simp] theorem State.setLive_parts (s : State) (c i : Nat) (b : Option Bank) : (s.setLive c i b).parts = s.parts := rfl
@[simp] theorem State.setLive_vfs (s : State) (c i : Nat) (b : Option Bank) : (s.setLive c i b).vfs = s.vfs := rfl
@[simp] theorem State.setLive_slots (s : State) (c i : Nat) (b : Option Bank) : (s.setLive c i b).slots = s.slots := rfl
@[simp] theorem State.setLive_launches (s : State) (c i : Nat) (b : Option Bank) : (s.setLive c i b).launches = s.launches := rfl
@[simp] theorem State.setLive_graphs (s : State) (c i : Nat) (b : Option Bank) : (s.setLive c i b).graphs = s.graphs := rfl
@[simp] theorem State.setLive_integ (s : State) (c i : Nat) (b : Option Bank) : (s.setLive c i b).integ = s.integ := rfl
@[simp] theorem State.setLive_dev (s : State) (c i : Nat) (b : Option Bank) : (s.setLive c i b).dev = s.dev := rfl
@[simp] theorem State.setLive_timebase (s : State) (c i : Nat) (b : Option Bank) : (s.setLive c i b).timebase = s.timebase := rfl
@[simp] theorem State.setLive_nextId (s : State) (c i : Nat) (b : Option Bank) : (s.setLive c i b).nextId = s.nextId := rfl
@[simp] theorem State.setLive_ctr (s : State) (c i : Nat) (b : Option Bank) : (s.setLive c i b).ctr = s.ctr := rfl
@[simp] theorem State.setLive_agenda (s : State) (c i : Nat) (b : Option Bank) : (s.setLive c i b).agenda = s.agenda := rfl
@[simp] theorem State.setLive_cur (s : State) (c i : Nat) (b : Option Bank) : (s.setLive c i b).cur = s.cur := rfl

/-! ## The fields of `State.setBank` -/

@[simp] theorem State.setBank_tier (s : State) (c i : Nat) (b : Bank) : (s.setBank c i b).tier = s.tier := rfl
@[simp] theorem State.setBank_dram (s : State) (c i : Nat) (b : Bank) : (s.setBank c i b).dram = s.dram := rfl
@[simp] theorem State.setBank_host (s : State) (c i : Nat) (b : Bank) : (s.setBank c i b).host = s.host := rfl
@[simp] theorem State.setBank_metas (s : State) (c i : Nat) (b : Bank) : (s.setBank c i b).metas = s.metas := rfl
@[simp] theorem State.setBank_unsealed (s : State) (c i : Nat) (b : Bank) : (s.setBank c i b).unsealed = s.unsealed := rfl
@[simp] theorem State.setBank_resealed (s : State) (c i : Nat) (b : Bank) : (s.setBank c i b).resealed = s.resealed := rfl
@[simp] theorem State.setBank_scrubs (s : State) (c i : Nat) (b : Bank) : (s.setBank c i b).scrubs = s.scrubs := rfl
@[simp] theorem State.setBank_llc (s : State) (c i : Nat) (b : Bank) : (s.setBank c i b).llc = s.llc := rfl
@[simp] theorem State.setBank_tlb (s : State) (c i : Nat) (b : Bank) : (s.setBank c i b).tlb = s.tlb := rfl
@[simp] theorem State.setBank_acc (s : State) (c i : Nat) (b : Bank) : (s.setBank c i b).acc = s.acc := rfl
@[simp] theorem State.setBank_copies (s : State) (c i : Nat) (b : Bank) : (s.setBank c i b).copies = s.copies := rfl
@[simp] theorem State.setBank_sigs (s : State) (c i : Nat) (b : Bank) : (s.setBank c i b).sigs = s.sigs := rfl
@[simp] theorem State.setBank_images (s : State) (c i : Nat) (b : Bank) : (s.setBank c i b).images = s.images := rfl
@[simp] theorem State.setBank_bankOps (s : State) (c i : Nat) (b : Bank) : (s.setBank c i b).bankOps = s.bankOps := rfl
@[simp] theorem State.setBank_keys (s : State) (c i : Nat) (b : Bank) : (s.setBank c i b).keys = s.keys := rfl
@[simp] theorem State.setBank_keyGen (s : State) (c i : Nat) (b : Bank) : (s.setBank c i b).keyGen = s.keyGen := rfl
@[simp] theorem State.setBank_parts (s : State) (c i : Nat) (b : Bank) : (s.setBank c i b).parts = s.parts := rfl
@[simp] theorem State.setBank_vfs (s : State) (c i : Nat) (b : Bank) : (s.setBank c i b).vfs = s.vfs := rfl
@[simp] theorem State.setBank_slots (s : State) (c i : Nat) (b : Bank) : (s.setBank c i b).slots = s.slots := rfl
@[simp] theorem State.setBank_launches (s : State) (c i : Nat) (b : Bank) : (s.setBank c i b).launches = s.launches := rfl
@[simp] theorem State.setBank_graphs (s : State) (c i : Nat) (b : Bank) : (s.setBank c i b).graphs = s.graphs := rfl
@[simp] theorem State.setBank_integ (s : State) (c i : Nat) (b : Bank) : (s.setBank c i b).integ = s.integ := rfl
@[simp] theorem State.setBank_dev (s : State) (c i : Nat) (b : Bank) : (s.setBank c i b).dev = s.dev := rfl
@[simp] theorem State.setBank_timebase (s : State) (c i : Nat) (b : Bank) : (s.setBank c i b).timebase = s.timebase := rfl
@[simp] theorem State.setBank_nextId (s : State) (c i : Nat) (b : Bank) : (s.setBank c i b).nextId = s.nextId := rfl
@[simp] theorem State.setBank_ctr (s : State) (c i : Nat) (b : Bank) : (s.setBank c i b).ctr = s.ctr := rfl
@[simp] theorem State.setBank_agenda (s : State) (c i : Nat) (b : Bank) : (s.setBank c i b).agenda = s.agenda := rfl
@[simp] theorem State.setBank_cur (s : State) (c i : Nat) (b : Bank) : (s.setBank c i b).cur = s.cur := rfl

/-! ## The fields of `State.setShadow` -/

@[simp] theorem State.setShadow_tier (s : State) (c i : Nat) (t : Shadow) : (s.setShadow c i t).tier = s.tier := rfl
@[simp] theorem State.setShadow_dram (s : State) (c i : Nat) (t : Shadow) : (s.setShadow c i t).dram = s.dram := rfl
@[simp] theorem State.setShadow_host (s : State) (c i : Nat) (t : Shadow) : (s.setShadow c i t).host = s.host := rfl
@[simp] theorem State.setShadow_metas (s : State) (c i : Nat) (t : Shadow) : (s.setShadow c i t).metas = s.metas := rfl
@[simp] theorem State.setShadow_unsealed (s : State) (c i : Nat) (t : Shadow) : (s.setShadow c i t).unsealed = s.unsealed := rfl
@[simp] theorem State.setShadow_resealed (s : State) (c i : Nat) (t : Shadow) : (s.setShadow c i t).resealed = s.resealed := rfl
@[simp] theorem State.setShadow_scrubs (s : State) (c i : Nat) (t : Shadow) : (s.setShadow c i t).scrubs = s.scrubs := rfl
@[simp] theorem State.setShadow_llc (s : State) (c i : Nat) (t : Shadow) : (s.setShadow c i t).llc = s.llc := rfl
@[simp] theorem State.setShadow_tlb (s : State) (c i : Nat) (t : Shadow) : (s.setShadow c i t).tlb = s.tlb := rfl
@[simp] theorem State.setShadow_acc (s : State) (c i : Nat) (t : Shadow) : (s.setShadow c i t).acc = s.acc := rfl
@[simp] theorem State.setShadow_copies (s : State) (c i : Nat) (t : Shadow) : (s.setShadow c i t).copies = s.copies := rfl
@[simp] theorem State.setShadow_sigs (s : State) (c i : Nat) (t : Shadow) : (s.setShadow c i t).sigs = s.sigs := rfl
@[simp] theorem State.setShadow_images (s : State) (c i : Nat) (t : Shadow) : (s.setShadow c i t).images = s.images := rfl
@[simp] theorem State.setShadow_bankOps (s : State) (c i : Nat) (t : Shadow) : (s.setShadow c i t).bankOps = s.bankOps := rfl
@[simp] theorem State.setShadow_keys (s : State) (c i : Nat) (t : Shadow) : (s.setShadow c i t).keys = s.keys := rfl
@[simp] theorem State.setShadow_keyGen (s : State) (c i : Nat) (t : Shadow) : (s.setShadow c i t).keyGen = s.keyGen := rfl
@[simp] theorem State.setShadow_parts (s : State) (c i : Nat) (t : Shadow) : (s.setShadow c i t).parts = s.parts := rfl
@[simp] theorem State.setShadow_vfs (s : State) (c i : Nat) (t : Shadow) : (s.setShadow c i t).vfs = s.vfs := rfl
@[simp] theorem State.setShadow_slots (s : State) (c i : Nat) (t : Shadow) : (s.setShadow c i t).slots = s.slots := rfl
@[simp] theorem State.setShadow_launches (s : State) (c i : Nat) (t : Shadow) : (s.setShadow c i t).launches = s.launches := rfl
@[simp] theorem State.setShadow_graphs (s : State) (c i : Nat) (t : Shadow) : (s.setShadow c i t).graphs = s.graphs := rfl
@[simp] theorem State.setShadow_integ (s : State) (c i : Nat) (t : Shadow) : (s.setShadow c i t).integ = s.integ := rfl
@[simp] theorem State.setShadow_dev (s : State) (c i : Nat) (t : Shadow) : (s.setShadow c i t).dev = s.dev := rfl
@[simp] theorem State.setShadow_timebase (s : State) (c i : Nat) (t : Shadow) : (s.setShadow c i t).timebase = s.timebase := rfl
@[simp] theorem State.setShadow_nextId (s : State) (c i : Nat) (t : Shadow) : (s.setShadow c i t).nextId = s.nextId := rfl
@[simp] theorem State.setShadow_ctr (s : State) (c i : Nat) (t : Shadow) : (s.setShadow c i t).ctr = s.ctr := rfl
@[simp] theorem State.setShadow_agenda (s : State) (c i : Nat) (t : Shadow) : (s.setShadow c i t).agenda = s.agenda := rfl
@[simp] theorem State.setShadow_cur (s : State) (c i : Nat) (t : Shadow) : (s.setShadow c i t).cur = s.cur := rfl

/-! ## The fields of `State.setPart` -/

@[simp] theorem State.setPart_cores (s : State) (p : Nat) (x : Partition) : (s.setPart p x).cores = s.cores := rfl
@[simp] theorem State.setPart_tier (s : State) (p : Nat) (x : Partition) : (s.setPart p x).tier = s.tier := rfl
@[simp] theorem State.setPart_dram (s : State) (p : Nat) (x : Partition) : (s.setPart p x).dram = s.dram := rfl
@[simp] theorem State.setPart_host (s : State) (p : Nat) (x : Partition) : (s.setPart p x).host = s.host := rfl
@[simp] theorem State.setPart_metas (s : State) (p : Nat) (x : Partition) : (s.setPart p x).metas = s.metas := rfl
@[simp] theorem State.setPart_unsealed (s : State) (p : Nat) (x : Partition) : (s.setPart p x).unsealed = s.unsealed := rfl
@[simp] theorem State.setPart_resealed (s : State) (p : Nat) (x : Partition) : (s.setPart p x).resealed = s.resealed := rfl
@[simp] theorem State.setPart_scrubs (s : State) (p : Nat) (x : Partition) : (s.setPart p x).scrubs = s.scrubs := rfl
@[simp] theorem State.setPart_llc (s : State) (p : Nat) (x : Partition) : (s.setPart p x).llc = s.llc := rfl
@[simp] theorem State.setPart_tlb (s : State) (p : Nat) (x : Partition) : (s.setPart p x).tlb = s.tlb := rfl
@[simp] theorem State.setPart_acc (s : State) (p : Nat) (x : Partition) : (s.setPart p x).acc = s.acc := rfl
@[simp] theorem State.setPart_copies (s : State) (p : Nat) (x : Partition) : (s.setPart p x).copies = s.copies := rfl
@[simp] theorem State.setPart_sigs (s : State) (p : Nat) (x : Partition) : (s.setPart p x).sigs = s.sigs := rfl
@[simp] theorem State.setPart_images (s : State) (p : Nat) (x : Partition) : (s.setPart p x).images = s.images := rfl
@[simp] theorem State.setPart_bankOps (s : State) (p : Nat) (x : Partition) : (s.setPart p x).bankOps = s.bankOps := rfl
@[simp] theorem State.setPart_keys (s : State) (p : Nat) (x : Partition) : (s.setPart p x).keys = s.keys := rfl
@[simp] theorem State.setPart_keyGen (s : State) (p : Nat) (x : Partition) : (s.setPart p x).keyGen = s.keyGen := rfl
@[simp] theorem State.setPart_vfs (s : State) (p : Nat) (x : Partition) : (s.setPart p x).vfs = s.vfs := rfl
@[simp] theorem State.setPart_slots (s : State) (p : Nat) (x : Partition) : (s.setPart p x).slots = s.slots := rfl
@[simp] theorem State.setPart_launches (s : State) (p : Nat) (x : Partition) : (s.setPart p x).launches = s.launches := rfl
@[simp] theorem State.setPart_graphs (s : State) (p : Nat) (x : Partition) : (s.setPart p x).graphs = s.graphs := rfl
@[simp] theorem State.setPart_integ (s : State) (p : Nat) (x : Partition) : (s.setPart p x).integ = s.integ := rfl
@[simp] theorem State.setPart_dev (s : State) (p : Nat) (x : Partition) : (s.setPart p x).dev = s.dev := rfl
@[simp] theorem State.setPart_timebase (s : State) (p : Nat) (x : Partition) : (s.setPart p x).timebase = s.timebase := rfl
@[simp] theorem State.setPart_nextId (s : State) (p : Nat) (x : Partition) : (s.setPart p x).nextId = s.nextId := rfl
@[simp] theorem State.setPart_ctr (s : State) (p : Nat) (x : Partition) : (s.setPart p x).ctr = s.ctr := rfl
@[simp] theorem State.setPart_agenda (s : State) (p : Nat) (x : Partition) : (s.setPart p x).agenda = s.agenda := rfl
@[simp] theorem State.setPart_cur (s : State) (p : Nat) (x : Partition) : (s.setPart p x).cur = s.cur := rfl

/-! ## The fields of `State.setVf` -/

@[simp] theorem State.setVf_cores (s : State) (v : Nat) (x : Vf) : (s.setVf v x).cores = s.cores := rfl
@[simp] theorem State.setVf_tier (s : State) (v : Nat) (x : Vf) : (s.setVf v x).tier = s.tier := rfl
@[simp] theorem State.setVf_dram (s : State) (v : Nat) (x : Vf) : (s.setVf v x).dram = s.dram := rfl
@[simp] theorem State.setVf_host (s : State) (v : Nat) (x : Vf) : (s.setVf v x).host = s.host := rfl
@[simp] theorem State.setVf_metas (s : State) (v : Nat) (x : Vf) : (s.setVf v x).metas = s.metas := rfl
@[simp] theorem State.setVf_unsealed (s : State) (v : Nat) (x : Vf) : (s.setVf v x).unsealed = s.unsealed := rfl
@[simp] theorem State.setVf_resealed (s : State) (v : Nat) (x : Vf) : (s.setVf v x).resealed = s.resealed := rfl
@[simp] theorem State.setVf_scrubs (s : State) (v : Nat) (x : Vf) : (s.setVf v x).scrubs = s.scrubs := rfl
@[simp] theorem State.setVf_llc (s : State) (v : Nat) (x : Vf) : (s.setVf v x).llc = s.llc := rfl
@[simp] theorem State.setVf_tlb (s : State) (v : Nat) (x : Vf) : (s.setVf v x).tlb = s.tlb := rfl
@[simp] theorem State.setVf_acc (s : State) (v : Nat) (x : Vf) : (s.setVf v x).acc = s.acc := rfl
@[simp] theorem State.setVf_copies (s : State) (v : Nat) (x : Vf) : (s.setVf v x).copies = s.copies := rfl
@[simp] theorem State.setVf_sigs (s : State) (v : Nat) (x : Vf) : (s.setVf v x).sigs = s.sigs := rfl
@[simp] theorem State.setVf_images (s : State) (v : Nat) (x : Vf) : (s.setVf v x).images = s.images := rfl
@[simp] theorem State.setVf_bankOps (s : State) (v : Nat) (x : Vf) : (s.setVf v x).bankOps = s.bankOps := rfl
@[simp] theorem State.setVf_keys (s : State) (v : Nat) (x : Vf) : (s.setVf v x).keys = s.keys := rfl
@[simp] theorem State.setVf_keyGen (s : State) (v : Nat) (x : Vf) : (s.setVf v x).keyGen = s.keyGen := rfl
@[simp] theorem State.setVf_parts (s : State) (v : Nat) (x : Vf) : (s.setVf v x).parts = s.parts := rfl
@[simp] theorem State.setVf_slots (s : State) (v : Nat) (x : Vf) : (s.setVf v x).slots = s.slots := rfl
@[simp] theorem State.setVf_launches (s : State) (v : Nat) (x : Vf) : (s.setVf v x).launches = s.launches := rfl
@[simp] theorem State.setVf_graphs (s : State) (v : Nat) (x : Vf) : (s.setVf v x).graphs = s.graphs := rfl
@[simp] theorem State.setVf_integ (s : State) (v : Nat) (x : Vf) : (s.setVf v x).integ = s.integ := rfl
@[simp] theorem State.setVf_dev (s : State) (v : Nat) (x : Vf) : (s.setVf v x).dev = s.dev := rfl
@[simp] theorem State.setVf_timebase (s : State) (v : Nat) (x : Vf) : (s.setVf v x).timebase = s.timebase := rfl
@[simp] theorem State.setVf_nextId (s : State) (v : Nat) (x : Vf) : (s.setVf v x).nextId = s.nextId := rfl
@[simp] theorem State.setVf_ctr (s : State) (v : Nat) (x : Vf) : (s.setVf v x).ctr = s.ctr := rfl
@[simp] theorem State.setVf_agenda (s : State) (v : Nat) (x : Vf) : (s.setVf v x).agenda = s.agenda := rfl
@[simp] theorem State.setVf_cur (s : State) (v : Nat) (x : Vf) : (s.setVf v x).cur = s.cur := rfl

/-! ## The fields of `State.setSlice` -/

@[simp] theorem State.setSlice_cores (s : State) (c : Nat) (x : Slice) : (s.setSlice c x).cores = s.cores := rfl
@[simp] theorem State.setSlice_dram (s : State) (c : Nat) (x : Slice) : (s.setSlice c x).dram = s.dram := rfl
@[simp] theorem State.setSlice_host (s : State) (c : Nat) (x : Slice) : (s.setSlice c x).host = s.host := rfl
@[simp] theorem State.setSlice_metas (s : State) (c : Nat) (x : Slice) : (s.setSlice c x).metas = s.metas := rfl
@[simp] theorem State.setSlice_unsealed (s : State) (c : Nat) (x : Slice) : (s.setSlice c x).unsealed = s.unsealed := rfl
@[simp] theorem State.setSlice_resealed (s : State) (c : Nat) (x : Slice) : (s.setSlice c x).resealed = s.resealed := rfl
@[simp] theorem State.setSlice_scrubs (s : State) (c : Nat) (x : Slice) : (s.setSlice c x).scrubs = s.scrubs := rfl
@[simp] theorem State.setSlice_llc (s : State) (c : Nat) (x : Slice) : (s.setSlice c x).llc = s.llc := rfl
@[simp] theorem State.setSlice_tlb (s : State) (c : Nat) (x : Slice) : (s.setSlice c x).tlb = s.tlb := rfl
@[simp] theorem State.setSlice_acc (s : State) (c : Nat) (x : Slice) : (s.setSlice c x).acc = s.acc := rfl
@[simp] theorem State.setSlice_copies (s : State) (c : Nat) (x : Slice) : (s.setSlice c x).copies = s.copies := rfl
@[simp] theorem State.setSlice_sigs (s : State) (c : Nat) (x : Slice) : (s.setSlice c x).sigs = s.sigs := rfl
@[simp] theorem State.setSlice_images (s : State) (c : Nat) (x : Slice) : (s.setSlice c x).images = s.images := rfl
@[simp] theorem State.setSlice_bankOps (s : State) (c : Nat) (x : Slice) : (s.setSlice c x).bankOps = s.bankOps := rfl
@[simp] theorem State.setSlice_keys (s : State) (c : Nat) (x : Slice) : (s.setSlice c x).keys = s.keys := rfl
@[simp] theorem State.setSlice_keyGen (s : State) (c : Nat) (x : Slice) : (s.setSlice c x).keyGen = s.keyGen := rfl
@[simp] theorem State.setSlice_parts (s : State) (c : Nat) (x : Slice) : (s.setSlice c x).parts = s.parts := rfl
@[simp] theorem State.setSlice_vfs (s : State) (c : Nat) (x : Slice) : (s.setSlice c x).vfs = s.vfs := rfl
@[simp] theorem State.setSlice_slots (s : State) (c : Nat) (x : Slice) : (s.setSlice c x).slots = s.slots := rfl
@[simp] theorem State.setSlice_launches (s : State) (c : Nat) (x : Slice) : (s.setSlice c x).launches = s.launches := rfl
@[simp] theorem State.setSlice_graphs (s : State) (c : Nat) (x : Slice) : (s.setSlice c x).graphs = s.graphs := rfl
@[simp] theorem State.setSlice_integ (s : State) (c : Nat) (x : Slice) : (s.setSlice c x).integ = s.integ := rfl
@[simp] theorem State.setSlice_dev (s : State) (c : Nat) (x : Slice) : (s.setSlice c x).dev = s.dev := rfl
@[simp] theorem State.setSlice_timebase (s : State) (c : Nat) (x : Slice) : (s.setSlice c x).timebase = s.timebase := rfl
@[simp] theorem State.setSlice_nextId (s : State) (c : Nat) (x : Slice) : (s.setSlice c x).nextId = s.nextId := rfl
@[simp] theorem State.setSlice_ctr (s : State) (c : Nat) (x : Slice) : (s.setSlice c x).ctr = s.ctr := rfl
@[simp] theorem State.setSlice_agenda (s : State) (c : Nat) (x : Slice) : (s.setSlice c x).agenda = s.agenda := rfl
@[simp] theorem State.setSlice_cur (s : State) (c : Nat) (x : Slice) : (s.setSlice c x).cur = s.cur := rfl

/-! ## The fields of `State.mapJob` -/

@[simp] theorem State.mapJob_tier (s : State) (j : Nat) (f : Bank → Bank) : (s.mapJob j f).tier = s.tier := rfl
@[simp] theorem State.mapJob_dram (s : State) (j : Nat) (f : Bank → Bank) : (s.mapJob j f).dram = s.dram := rfl
@[simp] theorem State.mapJob_host (s : State) (j : Nat) (f : Bank → Bank) : (s.mapJob j f).host = s.host := rfl
@[simp] theorem State.mapJob_metas (s : State) (j : Nat) (f : Bank → Bank) : (s.mapJob j f).metas = s.metas := rfl
@[simp] theorem State.mapJob_unsealed (s : State) (j : Nat) (f : Bank → Bank) : (s.mapJob j f).unsealed = s.unsealed := rfl
@[simp] theorem State.mapJob_resealed (s : State) (j : Nat) (f : Bank → Bank) : (s.mapJob j f).resealed = s.resealed := rfl
@[simp] theorem State.mapJob_scrubs (s : State) (j : Nat) (f : Bank → Bank) : (s.mapJob j f).scrubs = s.scrubs := rfl
@[simp] theorem State.mapJob_llc (s : State) (j : Nat) (f : Bank → Bank) : (s.mapJob j f).llc = s.llc := rfl
@[simp] theorem State.mapJob_tlb (s : State) (j : Nat) (f : Bank → Bank) : (s.mapJob j f).tlb = s.tlb := rfl
@[simp] theorem State.mapJob_acc (s : State) (j : Nat) (f : Bank → Bank) : (s.mapJob j f).acc = s.acc := rfl
@[simp] theorem State.mapJob_copies (s : State) (j : Nat) (f : Bank → Bank) : (s.mapJob j f).copies = s.copies := rfl
@[simp] theorem State.mapJob_sigs (s : State) (j : Nat) (f : Bank → Bank) : (s.mapJob j f).sigs = s.sigs := rfl
@[simp] theorem State.mapJob_bankOps (s : State) (j : Nat) (f : Bank → Bank) : (s.mapJob j f).bankOps = s.bankOps := rfl
@[simp] theorem State.mapJob_keys (s : State) (j : Nat) (f : Bank → Bank) : (s.mapJob j f).keys = s.keys := rfl
@[simp] theorem State.mapJob_keyGen (s : State) (j : Nat) (f : Bank → Bank) : (s.mapJob j f).keyGen = s.keyGen := rfl
@[simp] theorem State.mapJob_parts (s : State) (j : Nat) (f : Bank → Bank) : (s.mapJob j f).parts = s.parts := rfl
@[simp] theorem State.mapJob_vfs (s : State) (j : Nat) (f : Bank → Bank) : (s.mapJob j f).vfs = s.vfs := rfl
@[simp] theorem State.mapJob_slots (s : State) (j : Nat) (f : Bank → Bank) : (s.mapJob j f).slots = s.slots := rfl
@[simp] theorem State.mapJob_launches (s : State) (j : Nat) (f : Bank → Bank) : (s.mapJob j f).launches = s.launches := rfl
@[simp] theorem State.mapJob_graphs (s : State) (j : Nat) (f : Bank → Bank) : (s.mapJob j f).graphs = s.graphs := rfl
@[simp] theorem State.mapJob_integ (s : State) (j : Nat) (f : Bank → Bank) : (s.mapJob j f).integ = s.integ := rfl
@[simp] theorem State.mapJob_dev (s : State) (j : Nat) (f : Bank → Bank) : (s.mapJob j f).dev = s.dev := rfl
@[simp] theorem State.mapJob_timebase (s : State) (j : Nat) (f : Bank → Bank) : (s.mapJob j f).timebase = s.timebase := rfl
@[simp] theorem State.mapJob_nextId (s : State) (j : Nat) (f : Bank → Bank) : (s.mapJob j f).nextId = s.nextId := rfl
@[simp] theorem State.mapJob_ctr (s : State) (j : Nat) (f : Bank → Bank) : (s.mapJob j f).ctr = s.ctr := rfl
@[simp] theorem State.mapJob_agenda (s : State) (j : Nat) (f : Bank → Bank) : (s.mapJob j f).agenda = s.agenda := rfl
@[simp] theorem State.mapJob_cur (s : State) (j : Nat) (f : Bank → Bank) : (s.mapJob j f).cur = s.cur := rfl

/-! ## The fields of `State.blockedAt` -/

@[simp] theorem State.blockedAt_cores (s : State)  : (s.blockedAt).cores = s.cores := rfl
@[simp] theorem State.blockedAt_tier (s : State)  : (s.blockedAt).tier = s.tier := rfl
@[simp] theorem State.blockedAt_dram (s : State)  : (s.blockedAt).dram = s.dram := rfl
@[simp] theorem State.blockedAt_host (s : State)  : (s.blockedAt).host = s.host := rfl
@[simp] theorem State.blockedAt_metas (s : State)  : (s.blockedAt).metas = s.metas := rfl
@[simp] theorem State.blockedAt_unsealed (s : State)  : (s.blockedAt).unsealed = s.unsealed := rfl
@[simp] theorem State.blockedAt_resealed (s : State)  : (s.blockedAt).resealed = s.resealed := rfl
@[simp] theorem State.blockedAt_scrubs (s : State)  : (s.blockedAt).scrubs = s.scrubs := rfl
@[simp] theorem State.blockedAt_llc (s : State)  : (s.blockedAt).llc = s.llc := rfl
@[simp] theorem State.blockedAt_tlb (s : State)  : (s.blockedAt).tlb = s.tlb := rfl
@[simp] theorem State.blockedAt_acc (s : State)  : (s.blockedAt).acc = s.acc := rfl
@[simp] theorem State.blockedAt_copies (s : State)  : (s.blockedAt).copies = s.copies := rfl
@[simp] theorem State.blockedAt_sigs (s : State)  : (s.blockedAt).sigs = s.sigs := rfl
@[simp] theorem State.blockedAt_images (s : State)  : (s.blockedAt).images = s.images := rfl
@[simp] theorem State.blockedAt_bankOps (s : State)  : (s.blockedAt).bankOps = s.bankOps := rfl
@[simp] theorem State.blockedAt_keys (s : State)  : (s.blockedAt).keys = s.keys := rfl
@[simp] theorem State.blockedAt_keyGen (s : State)  : (s.blockedAt).keyGen = s.keyGen := rfl
@[simp] theorem State.blockedAt_parts (s : State)  : (s.blockedAt).parts = s.parts := rfl
@[simp] theorem State.blockedAt_vfs (s : State)  : (s.blockedAt).vfs = s.vfs := rfl
@[simp] theorem State.blockedAt_slots (s : State)  : (s.blockedAt).slots = s.slots := rfl
@[simp] theorem State.blockedAt_launches (s : State)  : (s.blockedAt).launches = s.launches := rfl
@[simp] theorem State.blockedAt_graphs (s : State)  : (s.blockedAt).graphs = s.graphs := rfl
@[simp] theorem State.blockedAt_integ (s : State)  : (s.blockedAt).integ = s.integ := rfl
@[simp] theorem State.blockedAt_dev (s : State)  : (s.blockedAt).dev = s.dev := rfl
@[simp] theorem State.blockedAt_timebase (s : State)  : (s.blockedAt).timebase = s.timebase := rfl
@[simp] theorem State.blockedAt_nextId (s : State)  : (s.blockedAt).nextId = s.nextId := rfl
@[simp] theorem State.blockedAt_ctr (s : State)  : (s.blockedAt).ctr = s.ctr := rfl
@[simp] theorem State.blockedAt_agenda (s : State)  : (s.blockedAt).agenda = s.agenda := rfl

/-! ## What a bank update leaves of the rest of its core -/

@[simp] theorem State.setBank_core_sp (s : State) (c i : Nat) (b : Bank) : ((s.setBank c i b).core c).sp = (s.core c).sp := by
  simp [State.setBank, State.setLive, Core.setSeat]
@[simp] theorem State.setBank_core_valid (s : State) (c i : Nat) (b : Bank) : ((s.setBank c i b).core c).valid = (s.core c).valid := by
  simp [State.setBank, State.setLive, Core.setSeat]
@[simp] theorem State.setBank_core_poison (s : State) (c i : Nat) (b : Bank) : ((s.setBank c i b).core c).poison = (s.core c).poison := by
  simp [State.setBank, State.setLive, Core.setSeat]
@[simp] theorem State.setBank_core_owner (s : State) (c i : Nat) (b : Bank) : ((s.setBank c i b).core c).owner = (s.core c).owner := by
  simp [State.setBank, State.setLive, Core.setSeat]
@[simp] theorem State.setBank_core_mo (s : State) (c i : Nat) (b : Bank) : ((s.setBank c i b).core c).mo = (s.core c).mo := by
  simp [State.setBank, State.setLive, Core.setSeat]
@[simp] theorem State.setBank_core_scrubbing (s : State) (c i : Nat) (b : Bank) : ((s.setBank c i b).core c).scrubbing = (s.core c).scrubbing := by
  simp [State.setBank, State.setLive, Core.setSeat]
@[simp] theorem State.setBank_core_schedC (s : State) (c i : Nat) (b : Bank) : ((s.setBank c i b).core c).schedC = (s.core c).schedC := by
  simp [State.setBank, State.setLive, Core.setSeat]
@[simp] theorem State.setBank_core_schedA (s : State) (c i : Nat) (b : Bank) : ((s.setBank c i b).core c).schedA = (s.core c).schedA := by
  simp [State.setBank, State.setLive, Core.setSeat]
@[simp] theorem State.setBank_core_schedV (s : State) (c i : Nat) (b : Bank) : ((s.setBank c i b).core c).schedV = (s.core c).schedV := by
  simp [State.setBank, State.setLive, Core.setSeat]
@[simp] theorem State.setBank_core_schedM (s : State) (c i : Nat) (b : Bank) : ((s.setBank c i b).core c).schedM = (s.core c).schedM := by
  simp [State.setBank, State.setLive, Core.setSeat]
@[simp] theorem State.setBank_core_schedD (s : State) (c i : Nat) (b : Bank) : ((s.setBank c i b).core c).schedD = (s.core c).schedD := by
  simp [State.setBank, State.setLive, Core.setSeat]
@[simp] theorem State.setBank_core_tokens (s : State) (c i : Nat) (b : Bank) : ((s.setBank c i b).core c).tokens = (s.core c).tokens := by
  simp [State.setBank, State.setLive, Core.setSeat]
@[simp] theorem State.setBank_core_tokmax (s : State) (c i : Nat) (b : Bank) : ((s.setBank c i b).core c).tokmax = (s.core c).tokmax := by
  simp [State.setBank, State.setLive, Core.setSeat]
@[simp] theorem State.setBank_core_tokrate (s : State) (c i : Nat) (b : Bank) : ((s.setBank c i b).core c).tokrate = (s.core c).tokrate := by
  simp [State.setBank, State.setLive, Core.setSeat]
@[simp] theorem State.setBank_core_tokWait (s : State) (c i : Nat) (b : Bank) : ((s.setBank c i b).core c).tokWait = (s.core c).tokWait := by
  simp [State.setBank, State.setLive, Core.setSeat]
@[simp] theorem State.setBank_core_stOwner (s : State) (c i : Nat) (b : Bank) : ((s.setBank c i b).core c).stOwner = (s.core c).stOwner := by
  simp [State.setBank, State.setLive, Core.setSeat]
@[simp] theorem State.setBank_core_stWait (s : State) (c i : Nat) (b : Bank) : ((s.setBank c i b).core c).stWait = (s.core c).stWait := by
  simp [State.setBank, State.setLive, Core.setSeat]
@[simp] theorem State.setBank_core_log (s : State) (c i : Nat) (b : Bank) : ((s.setBank c i b).core c).log = (s.core c).log := by
  simp [State.setBank, State.setLive, Core.setSeat]
@[simp] theorem State.setBank_core_wreqs (s : State) (c i : Nat) (b : Bank) : ((s.setBank c i b).core c).wreqs = (s.core c).wreqs := by
  simp [State.setBank, State.setLive, Core.setSeat]
@[simp] theorem State.setBank_core_seals (s : State) (c i : Nat) (b : Bank) : ((s.setBank c i b).core c).seals = (s.core c).seals := by
  simp [State.setBank, State.setLive, Core.setSeat]
@[simp] theorem State.setBank_core_lanes (s : State) (c i : Nat) (b : Bank) : ((s.setBank c i b).core c).lanes = (s.core c).lanes := by
  simp [State.setBank, State.setLive, Core.setSeat]

/-! ## Registers of a bank -/

@[simp] theorem Bank.getC_zr (b : Bank) : b.getC .zr = 0 := rfl
@[simp] theorem Bank.setC_zr (b : Bank) (w : Word) : b.setC .zr w = b := rfl
theorem Bank.getC_setC_self (b : Bank) (r : CReg) (w : Word) (h : r ≠ .zr) : (b.setC r w).getC r = w := by
  cases r <;> simp_all [Bank.getC, Bank.setC]
theorem Bank.getC_setC_ne (b : Bank) {r q : CReg} (w : Word) (h : r ≠ q) : (b.setC r w).getC q = b.getC q := by
  cases r <;> cases q <;> simp_all [Bank.getC, Bank.setC, Vector.getElem_set] <;> omega
@[simp] theorem Bank.getX_setX (b : Bank) (r : Fin 16) (w : Word) : (b.setX r w).getX r = w := by simp [Bank.getX, Bank.setX]
@[simp] theorem Bank.getV_setV (b : Bank) (r : Fin 32) (w : Vec) : (b.setV r w).getV r = w := by simp [Bank.getV, Bank.setV]
@[simp] theorem Bank.getE_setE (b : Bank) (r : Fin 16) (w : Word) : (b.setE r w).getE r = w := by simp [Bank.getE, Bank.setE]
@[simp] theorem Bank.getH_setH (b : Bank) (r : Fin 16) (w : Word) : (b.setH r w).getH r = w := by simp [Bank.getH, Bank.setH]
@[simp] theorem Bank.getD_setD (b : Bank) (r : Fin 16) (w : Word) : (b.setD r w).getD r = w := by simp [Bank.getD, Bank.setD]
@[simp] theorem Bank.ctl_setCtl (b : Bank) (e : Engine) (c : Ctl) : (b.setCtl e c).ctl e = c := by cases e <;> rfl
theorem Bank.ctl_setCtl_ne (b : Bank) {e f : Engine} (c : Ctl) (h : e ≠ f) : (b.setCtl e c).ctl f = b.ctl f := by
  cases e <;> cases f <;> first | rfl | exact absurd rfl h
@[simp] theorem Bank.setCtl_setCtl (b : Bank) (e : Engine) (c c' : Ctl) : (b.setCtl e c).setCtl e c' = b.setCtl e c' := by cases e <;> rfl

@[simp] theorem Bank.setCtl_job (b : Bank) (e : Engine) (c : Ctl) : (b.setCtl e c).job = b.job := by cases e <;> rfl
@[simp] theorem Bank.setCtl_vf (b : Bank) (e : Engine) (c : Ctl) : (b.setCtl e c).vf = b.vf := by cases e <;> rfl
@[simp] theorem Bank.setCtl_part (b : Bank) (e : Engine) (c : Ctl) : (b.setCtl e c).part = b.part := by cases e <;> rfl
@[simp] theorem Bank.setCtl_lvl (b : Bank) (e : Engine) (c : Ctl) : (b.setCtl e c).lvl = b.lvl := by cases e <;> rfl
@[simp] theorem Bank.setCtl_handler (b : Bank) (e : Engine) (c : Ctl) : (b.setCtl e c).handler = b.handler := by cases e <;> rfl
@[simp] theorem Bank.setCtl_hring (b : Bank) (e : Engine) (c : Ctl) : (b.setCtl e c).hring = b.hring := by cases e <;> rfl
@[simp] theorem Bank.setCtl_sg (b : Bank) (e : Engine) (c : Ctl) : (b.setCtl e c).sg = b.sg := by cases e <;> rfl
@[simp] theorem Bank.setCtl_tagbits (b : Bank) (e : Engine) (c : Ctl) : (b.setCtl e c).tagbits = b.tagbits := by cases e <;> rfl
@[simp] theorem Bank.setCtl_queues (b : Bank) (e : Engine) (c : Ctl) : (b.setCtl e c).queues = b.queues := by cases e <;> rfl
@[simp] theorem Bank.setCtl_win (b : Bank) (e : Engine) (c : Ctl) : (b.setCtl e c).win = b.win := by cases e <;> rfl
@[simp] theorem Bank.setCtl_k (b : Bank) (e : Engine) (c : Ctl) : (b.setCtl e c).k = b.k := by cases e <;> rfl
@[simp] theorem Bank.setCtl_q (b : Bank) (e : Engine) (c : Ctl) : (b.setCtl e c).q = b.q := by cases e <;> rfl
@[simp] theorem Bank.setCtl_x (b : Bank) (e : Engine) (c : Ctl) : (b.setCtl e c).x = b.x := by cases e <;> rfl
@[simp] theorem Bank.setCtl_v (b : Bank) (e : Engine) (c : Ctl) : (b.setCtl e c).v = b.v := by cases e <;> rfl
@[simp] theorem Bank.setCtl_e (b : Bank) (e : Engine) (c : Ctl) : (b.setCtl e c).e = b.e := by cases e <;> rfl
@[simp] theorem Bank.setCtl_h (b : Bank) (e : Engine) (c : Ctl) : (b.setCtl e c).h = b.h := by cases e <;> rfl
@[simp] theorem Bank.setCtl_d (b : Bank) (e : Engine) (c : Ctl) : (b.setCtl e c).d = b.d := by cases e <;> rfl
@[simp] theorem Bank.setCtl_trap (b : Bank) (e : Engine) (c : Ctl) : (b.setCtl e c).trap = b.trap := by cases e <;> rfl
@[simp] theorem Bank.setCtl_handling (b : Bank) (e : Engine) (c : Ctl) : (b.setCtl e c).handling = b.handling := by cases e <;> rfl
@[simp] theorem Bank.setCtl_waiting (b : Bank) (e : Engine) (c : Ctl) : (b.setCtl e c).waiting = b.waiting := by cases e <;> rfl
@[simp] theorem Bank.setCtl_stopped (b : Bank) (e : Engine) (c : Ctl) : (b.setCtl e c).stopped = b.stopped := by cases e <;> rfl
@[simp] theorem Bank.setC_job (b : Bank) (r : CReg) (w : Word) : (b.setC r w).job = b.job := by cases r <;> rfl
@[simp] theorem Bank.setC_vf (b : Bank) (r : CReg) (w : Word) : (b.setC r w).vf = b.vf := by cases r <;> rfl
@[simp] theorem Bank.setC_part (b : Bank) (r : CReg) (w : Word) : (b.setC r w).part = b.part := by cases r <;> rfl
@[simp] theorem Bank.setC_lvl (b : Bank) (r : CReg) (w : Word) : (b.setC r w).lvl = b.lvl := by cases r <;> rfl
@[simp] theorem Bank.setC_handler (b : Bank) (r : CReg) (w : Word) : (b.setC r w).handler = b.handler := by cases r <;> rfl
@[simp] theorem Bank.setC_hring (b : Bank) (r : CReg) (w : Word) : (b.setC r w).hring = b.hring := by cases r <;> rfl
@[simp] theorem Bank.setC_sg (b : Bank) (r : CReg) (w : Word) : (b.setC r w).sg = b.sg := by cases r <;> rfl
@[simp] theorem Bank.setC_tagbits (b : Bank) (r : CReg) (w : Word) : (b.setC r w).tagbits = b.tagbits := by cases r <;> rfl
@[simp] theorem Bank.setC_queues (b : Bank) (r : CReg) (w : Word) : (b.setC r w).queues = b.queues := by cases r <;> rfl
@[simp] theorem Bank.setC_x (b : Bank) (r : CReg) (w : Word) : (b.setC r w).x = b.x := by cases r <;> rfl
@[simp] theorem Bank.setC_v (b : Bank) (r : CReg) (w : Word) : (b.setC r w).v = b.v := by cases r <;> rfl
@[simp] theorem Bank.setC_e (b : Bank) (r : CReg) (w : Word) : (b.setC r w).e = b.e := by cases r <;> rfl
@[simp] theorem Bank.setC_h (b : Bank) (r : CReg) (w : Word) : (b.setC r w).h = b.h := by cases r <;> rfl
@[simp] theorem Bank.setC_d (b : Bank) (r : CReg) (w : Word) : (b.setC r w).d = b.d := by cases r <;> rfl
@[simp] theorem Bank.setC_trap (b : Bank) (r : CReg) (w : Word) : (b.setC r w).trap = b.trap := by cases r <;> rfl
@[simp] theorem Bank.setC_handling (b : Bank) (r : CReg) (w : Word) : (b.setC r w).handling = b.handling := by cases r <;> rfl
@[simp] theorem Bank.setC_waiting (b : Bank) (r : CReg) (w : Word) : (b.setC r w).waiting = b.waiting := by cases r <;> rfl
@[simp] theorem Bank.setC_stopped (b : Bank) (r : CReg) (w : Word) : (b.setC r w).stopped = b.stopped := by cases r <;> rfl
@[simp] theorem Bank.setC_ctl (b : Bank) (r : CReg) (w : Word) (e : Engine) : (b.setC r w).ctl e = b.ctl e := by cases r <;> cases e <;> rfl
@[simp] theorem Bank.setC_ring (b : Bank) (r : CReg) (w : Word) (e : Engine) : (b.setC r w).ring e = b.ring e := by cases r <;> cases e <;> rfl
@[simp] theorem Bank.setCtl_ring (b : Bank) (e : Engine) (c : Ctl) (f : Engine) : (b.setCtl e c).ring f = b.ring f := by cases e <;> cases f <;> rfl
@[simp] theorem Bank.setCtl_older (b : Bank) (e : Engine) (c : Ctl) : (b.setCtl e c).older = b.older := by cases e <;> rfl
@[simp] theorem Bank.setCtl_spd (b : Bank) (e : Engine) (c : Ctl) : (b.setCtl e c).spd = b.spd := by cases e <;> rfl
@[simp] theorem Bank.setCtl_spill (b : Bank) (e : Engine) (c : Ctl) : (b.setCtl e c).spill = b.spill := by cases e <;> rfl
@[simp] theorem Bank.setCtl_spillBase (b : Bank) (e : Engine) (c : Ctl) : (b.setCtl e c).spillBase = b.spillBase := by cases e <;> rfl
@[simp] theorem Bank.setCtl_spillLim (b : Bank) (e : Engine) (c : Ctl) : (b.setCtl e c).spillLim = b.spillLim := by cases e <;> rfl
@[simp] theorem Bank.setCtl_fillTrap (b : Bank) (e : Engine) (c : Ctl) : (b.setCtl e c).fillTrap = b.fillTrap := by cases e <;> rfl
@[simp] theorem Bank.setCtl_mask (b : Bank) (e : Engine) (c : Ctl) : (b.setCtl e c).mask = b.mask := by cases e <;> rfl
@[simp] theorem Bank.setCtl_vmz (b : Bank) (e : Engine) (c : Ctl) : (b.setCtl e c).vmz = b.vmz := by cases e <;> rfl
@[simp] theorem Bank.setCtl_vtrapIbc (b : Bank) (e : Engine) (c : Ctl) : (b.setCtl e c).vtrapIbc = b.vtrapIbc := by cases e <;> rfl
@[simp] theorem Bank.setCtl_vflags (b : Bank) (e : Engine) (c : Ctl) : (b.setCtl e c).vflags = b.vflags := by cases e <;> rfl
@[simp] theorem Bank.setCtl_z (b : Bank) (e : Engine) (c : Ctl) : (b.setCtl e c).z = b.z := by cases e <;> rfl
@[simp] theorem Bank.setCtl_zk (b : Bank) (e : Engine) (c : Ctl) : (b.setCtl e c).zk = b.zk := by cases e <;> rfl
@[simp] theorem Bank.setCtl_slots (b : Bank) (e : Engine) (c : Ctl) : (b.setCtl e c).slots = b.slots := by cases e <;> rfl
@[simp] theorem Bank.setCtl_reqs (b : Bank) (e : Engine) (c : Ctl) : (b.setCtl e c).reqs = b.reqs := by cases e <;> rfl
@[simp] theorem Bank.setCtl_prods (b : Bank) (e : Engine) (c : Ctl) : (b.setCtl e c).prods = b.prods := by cases e <;> rfl
@[simp] theorem Bank.setCtl_staging (b : Bank) (e : Engine) (c : Ctl) : (b.setCtl e c).staging = b.staging := by cases e <;> rfl
@[simp] theorem Bank.setCtl_staging1 (b : Bank) (e : Engine) (c : Ctl) : (b.setCtl e c).staging1 = b.staging1 := by cases e <;> rfl
@[simp] theorem Bank.setCtl_mbuf (b : Bank) (e : Engine) (c : Ctl) : (b.setCtl e c).mbuf = b.mbuf := by cases e <;> rfl
@[simp] theorem Bank.setCtl_mwpf (b : Bank) (e : Engine) (c : Ctl) : (b.setCtl e c).mwpf = b.mwpf := by cases e <;> rfl
@[simp] theorem Bank.setCtl_seamHome (b : Bank) (e : Engine) (c : Ctl) : (b.setCtl e c).seamHome = b.seamHome := by cases e <;> rfl
@[simp] theorem Bank.setCtl_minst (b : Bank) (e : Engine) (c : Ctl) : (b.setCtl e c).minst = b.minst := by cases e <;> rfl
@[simp] theorem Bank.setCtl_seam (b : Bank) (e : Engine) (c : Ctl) : (b.setCtl e c).seam = b.seam := by cases e <;> rfl
@[simp] theorem Bank.setCtl_bubbles (b : Bank) (e : Engine) (c : Ctl) : (b.setCtl e c).bubbles = b.bubbles := by cases e <;> rfl
@[simp] theorem Bank.setCtl_ibc (b : Bank) (e : Engine) (c : Ctl) : (b.setCtl e c).ibc = b.ibc := by cases e <;> rfl
@[simp] theorem Bank.setCtl_elastic0 (b : Bank) (e : Engine) (c : Ctl) : (b.setCtl e c).elastic0 = b.elastic0 := by cases e <;> rfl
@[simp] theorem Bank.setCtl_elastic1 (b : Bank) (e : Engine) (c : Ctl) : (b.setCtl e c).elastic1 = b.elastic1 := by cases e <;> rfl
@[simp] theorem Bank.setCtl_stitch (b : Bank) (e : Engine) (c : Ctl) : (b.setCtl e c).stitch = b.stitch := by cases e <;> rfl
@[simp] theorem Bank.setCtl_pmC (b : Bank) (e : Engine) (c : Ctl) : (b.setCtl e c).pmC = b.pmC := by cases e <;> rfl
@[simp] theorem Bank.setCtl_pmA (b : Bank) (e : Engine) (c : Ctl) : (b.setCtl e c).pmA = b.pmA := by cases e <;> rfl
@[simp] theorem Bank.setCtl_pmD (b : Bank) (e : Engine) (c : Ctl) : (b.setCtl e c).pmD = b.pmD := by cases e <;> rfl
@[simp] theorem Bank.setCtl_pmWaitLim (b : Bank) (e : Engine) (c : Ctl) : (b.setCtl e c).pmWaitLim = b.pmWaitLim := by cases e <;> rfl
@[simp] theorem Bank.setCtl_ut (b : Bank) (e : Engine) (c : Ctl) : (b.setCtl e c).ut = b.ut := by cases e <;> rfl
@[simp] theorem Bank.setCtl_cring (b : Bank) (e : Engine) (c : Ctl) : (b.setCtl e c).cring = b.cring := by cases e <;> rfl
@[simp] theorem Bank.setCtl_aring (b : Bank) (e : Engine) (c : Ctl) : (b.setCtl e c).aring = b.aring := by cases e <;> rfl
@[simp] theorem Bank.setCtl_vring (b : Bank) (e : Engine) (c : Ctl) : (b.setCtl e c).vring = b.vring := by cases e <;> rfl
@[simp] theorem Bank.setCtl_mring (b : Bank) (e : Engine) (c : Ctl) : (b.setCtl e c).mring = b.mring := by cases e <;> rfl
@[simp] theorem Bank.setCtl_dring (b : Bank) (e : Engine) (c : Ctl) : (b.setCtl e c).dring = b.dring := by cases e <;> rfl
@[simp] theorem Bank.setCtl_rlo (b : Bank) (e : Engine) (c : Ctl) : (b.setCtl e c).rlo = b.rlo := by cases e <;> rfl
@[simp] theorem Bank.setCtl_rhi (b : Bank) (e : Engine) (c : Ctl) : (b.setCtl e c).rhi = b.rhi := by cases e <;> rfl
@[simp] theorem Bank.setCtl_blst (b : Bank) (e : Engine) (c : Ctl) : (b.setCtl e c).blst = b.blst := by cases e <;> rfl
@[simp] theorem Bank.setCtl_saveva (b : Bank) (e : Engine) (c : Ctl) : (b.setCtl e c).saveva = b.saveva := by cases e <;> rfl
@[simp] theorem Bank.setCtl_root (b : Bank) (e : Engine) (c : Ctl) : (b.setCtl e c).root = b.root := by cases e <;> rfl
@[simp] theorem Bank.setCtl_status (b : Bank) (e : Engine) (c : Ctl) : (b.setCtl e c).status = b.status := by cases e <;> rfl
@[simp] theorem Bank.setCtl_qhead (b : Bank) (e : Engine) (c : Ctl) : (b.setCtl e c).qhead = b.qhead := by cases e <;> rfl
@[simp] theorem Bank.setCtl_fqClosed (b : Bank) (e : Engine) (c : Ctl) : (b.setCtl e c).fqClosed = b.fqClosed := by cases e <;> rfl
@[simp] theorem Bank.setCtl_bad (b : Bank) (e : Engine) (c : Ctl) : (b.setCtl e c).bad = b.bad := by cases e <;> rfl
@[simp] theorem Bank.setCtl_ainst (b : Bank) (e : Engine) (c : Ctl) : (b.setCtl e c).ainst = b.ainst := by cases e <;> rfl
@[simp] theorem Bank.setCtl_hints (b : Bank) (e : Engine) (c : Ctl) : (b.setCtl e c).hints = b.hints := by cases e <;> rfl
@[simp] theorem Bank.setCtl_wpstat (b : Bank) (e : Engine) (c : Ctl) : (b.setCtl e c).wpstat = b.wpstat := by cases e <;> rfl
@[simp] theorem Bank.setCtl_wbuf (b : Bank) (e : Engine) (c : Ctl) : (b.setCtl e c).wbuf = b.wbuf := by cases e <;> rfl
@[simp] theorem Bank.setCtl_wfe (b : Bank) (e : Engine) (c : Ctl) : (b.setCtl e c).wfe = b.wfe := by cases e <;> rfl
@[simp] theorem Bank.setCtl_kept (b : Bank) (e : Engine) (c : Ctl) : (b.setCtl e c).kept = b.kept := by cases e <;> rfl
@[simp] theorem Bank.setCtl_ended (b : Bank) (e : Engine) (c : Ctl) : (b.setCtl e c).ended = b.ended := by cases e <;> rfl
@[simp] theorem Bank.setCtl_gates (b : Bank) (e : Engine) (c : Ctl) : (b.setCtl e c).gates = b.gates := by cases e <;> rfl
@[simp] theorem Bank.setCtl_ssPart (b : Bank) (e : Engine) (c : Ctl) : (b.setCtl e c).ssPart = b.ssPart := by cases e <;> rfl
@[simp] theorem Bank.setCtl_sslot (b : Bank) (e : Engine) (c : Ctl) : (b.setCtl e c).sslot = b.sslot := by cases e <;> rfl
@[simp] theorem Bank.setCtl_t0 (b : Bank) (e : Engine) (c : Ctl) : (b.setCtl e c).t0 = b.t0 := by cases e <;> rfl
@[simp] theorem Bank.setCtl_info (b : Bank) (e : Engine) (c : Ctl) : (b.setCtl e c).info = b.info := by cases e <;> rfl
@[simp] theorem Bank.setCtl_steals (b : Bank) (e : Engine) (c : Ctl) : (b.setCtl e c).steals = b.steals := by cases e <;> rfl
@[simp] theorem Bank.setCtl_saving (b : Bank) (e : Engine) (c : Ctl) : (b.setCtl e c).saving = b.saving := by cases e <;> rfl
@[simp] theorem Bank.setCtl_saved (b : Bank) (e : Engine) (c : Ctl) : (b.setCtl e c).saved = b.saved := by cases e <;> rfl
@[simp] theorem Bank.setCtl_saveStall (b : Bank) (e : Engine) (c : Ctl) : (b.setCtl e c).saveStall = b.saveStall := by cases e <;> rfl
@[simp] theorem Bank.setCtl_saveProg (b : Bank) (e : Engine) (c : Ctl) : (b.setCtl e c).saveProg = b.saveProg := by cases e <;> rfl
@[simp] theorem Bank.setCtl_saveLine (b : Bank) (e : Engine) (c : Ctl) : (b.setCtl e c).saveLine = b.saveLine := by cases e <;> rfl
@[simp] theorem Bank.setCtl_saveN (b : Bank) (e : Engine) (c : Ctl) : (b.setCtl e c).saveN = b.saveN := by cases e <;> rfl
@[simp] theorem Bank.setCtl_evict (b : Bank) (e : Engine) (c : Ctl) : (b.setCtl e c).evict = b.evict := by cases e <;> rfl
@[simp] theorem Bank.setCtl_swapping (b : Bank) (e : Engine) (c : Ctl) : (b.setCtl e c).swapping = b.swapping := by cases e <;> rfl
@[simp] theorem Bank.setCtl_frozen (b : Bank) (e : Engine) (c : Ctl) : (b.setCtl e c).frozen = b.frozen := by cases e <;> rfl
@[simp] theorem Bank.setC_cS (b : Bank) (r : CReg) (w : Word) : (b.setC r w).cS = b.cS := by cases r <;> rfl
@[simp] theorem Bank.setC_aS (b : Bank) (r : CReg) (w : Word) : (b.setC r w).aS = b.aS := by cases r <;> rfl
@[simp] theorem Bank.setC_vS (b : Bank) (r : CReg) (w : Word) : (b.setC r w).vS = b.vS := by cases r <;> rfl
@[simp] theorem Bank.setC_mS (b : Bank) (r : CReg) (w : Word) : (b.setC r w).mS = b.mS := by cases r <;> rfl
@[simp] theorem Bank.setC_dS (b : Bank) (r : CReg) (w : Word) : (b.setC r w).dS = b.dS := by cases r <;> rfl
@[simp] theorem Bank.setC_older (b : Bank) (r : CReg) (w : Word) : (b.setC r w).older = b.older := by cases r <;> rfl
@[simp] theorem Bank.setC_spd (b : Bank) (r : CReg) (w : Word) : (b.setC r w).spd = b.spd := by cases r <;> rfl
@[simp] theorem Bank.setC_spill (b : Bank) (r : CReg) (w : Word) : (b.setC r w).spill = b.spill := by cases r <;> rfl
@[simp] theorem Bank.setC_spillBase (b : Bank) (r : CReg) (w : Word) : (b.setC r w).spillBase = b.spillBase := by cases r <;> rfl
@[simp] theorem Bank.setC_spillLim (b : Bank) (r : CReg) (w : Word) : (b.setC r w).spillLim = b.spillLim := by cases r <;> rfl
@[simp] theorem Bank.setC_fillTrap (b : Bank) (r : CReg) (w : Word) : (b.setC r w).fillTrap = b.fillTrap := by cases r <;> rfl
@[simp] theorem Bank.setC_mask (b : Bank) (r : CReg) (w : Word) : (b.setC r w).mask = b.mask := by cases r <;> rfl
@[simp] theorem Bank.setC_vmz (b : Bank) (r : CReg) (w : Word) : (b.setC r w).vmz = b.vmz := by cases r <;> rfl
@[simp] theorem Bank.setC_vtrapIbc (b : Bank) (r : CReg) (w : Word) : (b.setC r w).vtrapIbc = b.vtrapIbc := by cases r <;> rfl
@[simp] theorem Bank.setC_vflags (b : Bank) (r : CReg) (w : Word) : (b.setC r w).vflags = b.vflags := by cases r <;> rfl
@[simp] theorem Bank.setC_z (b : Bank) (r : CReg) (w : Word) : (b.setC r w).z = b.z := by cases r <;> rfl
@[simp] theorem Bank.setC_zk (b : Bank) (r : CReg) (w : Word) : (b.setC r w).zk = b.zk := by cases r <;> rfl
@[simp] theorem Bank.setC_slots (b : Bank) (r : CReg) (w : Word) : (b.setC r w).slots = b.slots := by cases r <;> rfl
@[simp] theorem Bank.setC_reqs (b : Bank) (r : CReg) (w : Word) : (b.setC r w).reqs = b.reqs := by cases r <;> rfl
@[simp] theorem Bank.setC_prods (b : Bank) (r : CReg) (w : Word) : (b.setC r w).prods = b.prods := by cases r <;> rfl
@[simp] theorem Bank.setC_staging (b : Bank) (r : CReg) (w : Word) : (b.setC r w).staging = b.staging := by cases r <;> rfl
@[simp] theorem Bank.setC_staging1 (b : Bank) (r : CReg) (w : Word) : (b.setC r w).staging1 = b.staging1 := by cases r <;> rfl
@[simp] theorem Bank.setC_mbuf (b : Bank) (r : CReg) (w : Word) : (b.setC r w).mbuf = b.mbuf := by cases r <;> rfl
@[simp] theorem Bank.setC_mwpf (b : Bank) (r : CReg) (w : Word) : (b.setC r w).mwpf = b.mwpf := by cases r <;> rfl
@[simp] theorem Bank.setC_seamHome (b : Bank) (r : CReg) (w : Word) : (b.setC r w).seamHome = b.seamHome := by cases r <;> rfl
@[simp] theorem Bank.setC_minst (b : Bank) (r : CReg) (w : Word) : (b.setC r w).minst = b.minst := by cases r <;> rfl
@[simp] theorem Bank.setC_seam (b : Bank) (r : CReg) (w : Word) : (b.setC r w).seam = b.seam := by cases r <;> rfl
@[simp] theorem Bank.setC_bubbles (b : Bank) (r : CReg) (w : Word) : (b.setC r w).bubbles = b.bubbles := by cases r <;> rfl
@[simp] theorem Bank.setC_ibc (b : Bank) (r : CReg) (w : Word) : (b.setC r w).ibc = b.ibc := by cases r <;> rfl
@[simp] theorem Bank.setC_elastic0 (b : Bank) (r : CReg) (w : Word) : (b.setC r w).elastic0 = b.elastic0 := by cases r <;> rfl
@[simp] theorem Bank.setC_elastic1 (b : Bank) (r : CReg) (w : Word) : (b.setC r w).elastic1 = b.elastic1 := by cases r <;> rfl
@[simp] theorem Bank.setC_stitch (b : Bank) (r : CReg) (w : Word) : (b.setC r w).stitch = b.stitch := by cases r <;> rfl
@[simp] theorem Bank.setC_pmC (b : Bank) (r : CReg) (w : Word) : (b.setC r w).pmC = b.pmC := by cases r <;> rfl
@[simp] theorem Bank.setC_pmA (b : Bank) (r : CReg) (w : Word) : (b.setC r w).pmA = b.pmA := by cases r <;> rfl
@[simp] theorem Bank.setC_pmD (b : Bank) (r : CReg) (w : Word) : (b.setC r w).pmD = b.pmD := by cases r <;> rfl
@[simp] theorem Bank.setC_pmWaitLim (b : Bank) (r : CReg) (w : Word) : (b.setC r w).pmWaitLim = b.pmWaitLim := by cases r <;> rfl
@[simp] theorem Bank.setC_ut (b : Bank) (r : CReg) (w : Word) : (b.setC r w).ut = b.ut := by cases r <;> rfl
@[simp] theorem Bank.setC_cring (b : Bank) (r : CReg) (w : Word) : (b.setC r w).cring = b.cring := by cases r <;> rfl
@[simp] theorem Bank.setC_aring (b : Bank) (r : CReg) (w : Word) : (b.setC r w).aring = b.aring := by cases r <;> rfl
@[simp] theorem Bank.setC_vring (b : Bank) (r : CReg) (w : Word) : (b.setC r w).vring = b.vring := by cases r <;> rfl
@[simp] theorem Bank.setC_mring (b : Bank) (r : CReg) (w : Word) : (b.setC r w).mring = b.mring := by cases r <;> rfl
@[simp] theorem Bank.setC_dring (b : Bank) (r : CReg) (w : Word) : (b.setC r w).dring = b.dring := by cases r <;> rfl
@[simp] theorem Bank.setC_rlo (b : Bank) (r : CReg) (w : Word) : (b.setC r w).rlo = b.rlo := by cases r <;> rfl
@[simp] theorem Bank.setC_rhi (b : Bank) (r : CReg) (w : Word) : (b.setC r w).rhi = b.rhi := by cases r <;> rfl
@[simp] theorem Bank.setC_blst (b : Bank) (r : CReg) (w : Word) : (b.setC r w).blst = b.blst := by cases r <;> rfl
@[simp] theorem Bank.setC_saveva (b : Bank) (r : CReg) (w : Word) : (b.setC r w).saveva = b.saveva := by cases r <;> rfl
@[simp] theorem Bank.setC_root (b : Bank) (r : CReg) (w : Word) : (b.setC r w).root = b.root := by cases r <;> rfl
@[simp] theorem Bank.setC_status (b : Bank) (r : CReg) (w : Word) : (b.setC r w).status = b.status := by cases r <;> rfl
@[simp] theorem Bank.setC_qhead (b : Bank) (r : CReg) (w : Word) : (b.setC r w).qhead = b.qhead := by cases r <;> rfl
@[simp] theorem Bank.setC_fqClosed (b : Bank) (r : CReg) (w : Word) : (b.setC r w).fqClosed = b.fqClosed := by cases r <;> rfl
@[simp] theorem Bank.setC_bad (b : Bank) (r : CReg) (w : Word) : (b.setC r w).bad = b.bad := by cases r <;> rfl
@[simp] theorem Bank.setC_ainst (b : Bank) (r : CReg) (w : Word) : (b.setC r w).ainst = b.ainst := by cases r <;> rfl
@[simp] theorem Bank.setC_hints (b : Bank) (r : CReg) (w : Word) : (b.setC r w).hints = b.hints := by cases r <;> rfl
@[simp] theorem Bank.setC_wpstat (b : Bank) (r : CReg) (w : Word) : (b.setC r w).wpstat = b.wpstat := by cases r <;> rfl
@[simp] theorem Bank.setC_wbuf (b : Bank) (r : CReg) (w : Word) : (b.setC r w).wbuf = b.wbuf := by cases r <;> rfl
@[simp] theorem Bank.setC_wfe (b : Bank) (r : CReg) (w : Word) : (b.setC r w).wfe = b.wfe := by cases r <;> rfl
@[simp] theorem Bank.setC_kept (b : Bank) (r : CReg) (w : Word) : (b.setC r w).kept = b.kept := by cases r <;> rfl
@[simp] theorem Bank.setC_ended (b : Bank) (r : CReg) (w : Word) : (b.setC r w).ended = b.ended := by cases r <;> rfl
@[simp] theorem Bank.setC_gates (b : Bank) (r : CReg) (w : Word) : (b.setC r w).gates = b.gates := by cases r <;> rfl
@[simp] theorem Bank.setC_ssPart (b : Bank) (r : CReg) (w : Word) : (b.setC r w).ssPart = b.ssPart := by cases r <;> rfl
@[simp] theorem Bank.setC_sslot (b : Bank) (r : CReg) (w : Word) : (b.setC r w).sslot = b.sslot := by cases r <;> rfl
@[simp] theorem Bank.setC_t0 (b : Bank) (r : CReg) (w : Word) : (b.setC r w).t0 = b.t0 := by cases r <;> rfl
@[simp] theorem Bank.setC_info (b : Bank) (r : CReg) (w : Word) : (b.setC r w).info = b.info := by cases r <;> rfl
@[simp] theorem Bank.setC_steals (b : Bank) (r : CReg) (w : Word) : (b.setC r w).steals = b.steals := by cases r <;> rfl
@[simp] theorem Bank.setC_saving (b : Bank) (r : CReg) (w : Word) : (b.setC r w).saving = b.saving := by cases r <;> rfl
@[simp] theorem Bank.setC_saved (b : Bank) (r : CReg) (w : Word) : (b.setC r w).saved = b.saved := by cases r <;> rfl
@[simp] theorem Bank.setC_saveStall (b : Bank) (r : CReg) (w : Word) : (b.setC r w).saveStall = b.saveStall := by cases r <;> rfl
@[simp] theorem Bank.setC_saveProg (b : Bank) (r : CReg) (w : Word) : (b.setC r w).saveProg = b.saveProg := by cases r <;> rfl
@[simp] theorem Bank.setC_saveLine (b : Bank) (r : CReg) (w : Word) : (b.setC r w).saveLine = b.saveLine := by cases r <;> rfl
@[simp] theorem Bank.setC_saveN (b : Bank) (r : CReg) (w : Word) : (b.setC r w).saveN = b.saveN := by cases r <;> rfl
@[simp] theorem Bank.setC_evict (b : Bank) (r : CReg) (w : Word) : (b.setC r w).evict = b.evict := by cases r <;> rfl
@[simp] theorem Bank.setC_swapping (b : Bank) (r : CReg) (w : Word) : (b.setC r w).swapping = b.swapping := by cases r <;> rfl
@[simp] theorem Bank.setC_frozen (b : Bank) (r : CReg) (w : Word) : (b.setC r w).frozen = b.frozen := by cases r <;> rfl

/-! ## Queues of a bank -/

@[simp] theorem Bank.queue_setQueue (b : Bank) (q : Queue) (l : List QEntry) : (b.setQueue q l).queue q = l := by
  simp [Bank.queue, Bank.setQueue]
@[simp] theorem Bank.queue_popTo (b : Bank) (q : Queue) (l : List QEntry) : (b.popTo q l).queue q = l := by
  simp [Bank.queue, Bank.popTo, Bank.setQueue]
@[simp] theorem Bank.head_popTo (b : Bank) (q : Queue) (l : List QEntry) : (b.popTo q l).head q = (b.head q + 1) % q.depth := by
  simp [Bank.head, Bank.popTo]
@[simp] theorem Bank.queue_push (b : Bank) (q : Queue) (x : QEntry) : (b.push q x).queue q = b.queue q ++ [x] := by simp [Bank.push]
@[simp] theorem Bank.head_push (b : Bank) (q : Queue) (x : QEntry) : (b.push q x).head q = b.head q := rfl
@[simp] theorem Bank.popTo_job (b : Bank) (q : Queue) (l : List QEntry) : (b.popTo q l).job = b.job := rfl
@[simp] theorem Bank.push_job (b : Bank) (q : Queue) (x : QEntry) : (b.push q x).job = b.job := rfl
@[simp] theorem Bank.setSig_job (b : Bank) (n : Fin 64) : (b.setSig n).job = b.job := rfl
@[simp] theorem State.issueSignal_job (s : State) (b : Bank) : (s.issueSignal b).job = b.job := by
  unfold State.issueSignal; split <;> rfl

end Sys2Proof.Machine
end

