-- ==== Sys2Proof/Laws/Access.lean ====
section
/-! SUPPORT. What translation and the writes of locations can do to the machine: a translation makes TLB and LLC entries and nothing else,
and a write of a location changes no bank and keeps the memories in canonical form. -/
namespace Sys2Proof.Machine

theorem Looked.refl (s : State) : Looked s s := rfl
theorem Looked.trans {s t u : State} (h : Looked s t) (h' : Looked t u) : Looked s u := by
  unfold Looked at *; rw [← h'] at h; exact h

theorem ite_looked {α : Type} {s : State} {c : Prop} [Decidable c] {a b : α × State} (ha : Looked s a.2) (hb : Looked s b.2) :
    Looked s (if c then a else b).2 := by split <;> assumption

theorem stage2_looked (s : State) (part vf gpa : Nat) (u : S2Use) : Looked s (s.stage2 part vf gpa u).2 := by
  unfold State.stage2
  dsimp only
  generalize s.llc.find? _ = o
  cases o with
  | some l => dsimp only; generalize u.allowed l.r l.w = p; cases p <;> rfl
  | none =>
    dsimp only
    generalize s.walkStop part gpa = w
    cases w with
    | some a => rfl
    | none =>
      dsimp only
      generalize walk2 _ _ _ = o
      cases o with
      | none => rfl
      | some f => dsimp only; generalize (_ || _) = p; cases p <;> rfl

theorem readEntry_looked (s : State) (part vf gpa : Nat) : Looked s (s.readEntry part vf gpa).2 := by
  have h := stage2_looked s part vf gpa .read
  unfold State.readEntry
  cases hs : s.stage2 part vf gpa .read with
  | mk o t =>
    rw [hs] at h
    cases o with
    | none => exact h
    | some f => dsimp only; split <;> exact h

theorem walkFrom_looked (part vf va fuel lvl node : Nat) (s : State) : Looked s (walkFrom part vf va fuel lvl node s).2 := by
  induction fuel generalizing lvl node s with
  | zero => rfl
  | succ n ih =>
    unfold walkFrom
    dsimp only
    generalize node + 8 * _ = g
    have h := readEntry_looked s part vf g
    cases hr : s.readEntry part vf g with
    | mk o t =>
      rw [hr] at h
      cases o with
      | error w => exact h
      | ok e =>
        dsimp only
        repeat' split
        all_goals first | exact h | exact h.trans (ih _ _ _)

theorem leafOf_looked (s : State) (c : VaCtx) (va : Word) : Looked s (s.leafOf c va).2 := by
  unfold State.leafOf
  split
  · rfl
  · have h := walkFrom_looked c.part c.vf va.toNat 3 1 c.root s
    unfold State.walk1
    generalize walkFrom c.part c.vf va.toNat 3 1 c.root s = r at h
    obtain ⟨w, t⟩ := r
    cases w <;> exact h

/-- The checks of an access make TLB and LLC entries, and change nothing else, whatever they answer (R132, R136, R140). -/
theorem checkVa_looked (s : State) (c : VaCtx) (va : Word) (size m : Nat) (u : Use) : Looked s (s.checkVa c va size m u).2 := by
  unfold State.checkVa
  refine ite_looked rfl (ite_looked rfl (ite_looked rfl ?_))
  have h := leafOf_looked s c va
  generalize s.leafOf c va = r at h
  obtain ⟨w, t⟩ := r
  cases w with
  | fault k => exact h
  | stage2 g => exact h
  | line k => cases k <;> exact h
  | leaf e big =>
    dsimp only at h ⊢
    refine ite_looked h (ite_looked h (ite_looked h (ite_looked (ite_looked h (ite_looked h (ite_looked h h)))
      (ite_looked h (ite_looked h ?_)))))
    generalize (if e.getLsbD 6 = true then m else 0) = pm
    refine ite_looked h ?_
    generalize (if u.atomic = true then S2Use.both else if u.write = true then .write else .read) = use
    have h2 := stage2_looked t c.part c.vf (leafAddr e big va) use
    generalize t.stage2 c.part c.vf (leafAddr e big va) use = r2 at h2
    obtain ⟨o, t2⟩ := r2
    have h3 := h.trans h2
    cases o with
    | none => exact h3
    | some f =>
      dsimp only at h3 ⊢
      split <;> exact h3

/-- The LLC holds a cell's line: nothing but the LLC changes (R161). -/
theorem holdCell_looked (s : State) (part m gpa : Nat) : Looked s (s.holdCell part m gpa) := by
  unfold State.holdCell
  dsimp only
  split
  · rfl
  · split <;> rfl
theorem Looked.cores {s t : State} (h : Looked s t) : t.cores = s.cores := by
  have := congrArg State.cores h; exact this
theorem Looked.dram {s t : State} (h : Looked s t) : t.dram = s.dram := by
  have := congrArg State.dram h; exact this
@[simp] theorem holdCell_cores (s : State) (part m gpa : Nat) : (s.holdCell part m gpa).cores = s.cores := (holdCell_looked s part m gpa).cores
@[simp] theorem holdCell_dram (s : State) (part m gpa : Nat) : (s.holdCell part m gpa).dram = s.dram := (holdCell_looked s part m gpa).dram

/-- A cell that is made changes no core. -/
@[simp] theorem materialise_cores (s : State) (part m gpa pa key : Nat) : (s.materialise part m gpa pa key).cores = s.cores := by
  unfold State.materialise
  dsimp only
  split
  · rfl
  · split
    · simp [State.setLineMeta, State.setPart]
    · rfl

/-- A cell that is made keeps the memory canonical. -/
theorem materialise_wf {s : State} (part m gpa pa key : Nat) (h : s.dram.wf = true) : (s.materialise part m gpa pa key).dram.wf = true := by
  unfold State.materialise
  dsimp only
  split
  · exact h
  · split
    · simp only [State.setLineMeta, holdCell_dram, State.setPart]; exact writeBytes_wf _ _ h
    · exact h

/-- A write of a location changes no bank. -/
theorem writeLoc_bank (s : State) (l : Loc) (bs : List Byte) (c i : Nat) : (s.writeLoc l bs).bank c i = s.bank c i := by
  cases l with
  | sp core off =>
    simp only [State.writeLoc, State.bank, State.core, State.setCore, Table.get]
    by_cases hc : core = c
    · subst hc; rw [Table.find?_put_self]; rfl
    · rw [Table.find?_put_ne _ _ hc]
  | mem part m gpa pa key =>
    simp [State.writeLoc, State.bank, State.core, State.setLineMeta]
  | wt _ _ => rfl

/-- A write of a location keeps base memory canonical. -/
theorem writeLoc_dram_wf {s : State} (l : Loc) (bs : List Byte) (h : s.dram.wf = true) : (s.writeLoc l bs).dram.wf = true := by
  cases l with
  | sp core off => exact h
  | mem part m gpa pa key =>
    simp only [State.writeLoc, State.setLineMeta, holdCell_dram]; exact writeBytes_wf _ _ (materialise_wf part m gpa pa key h)
  | wt _ _ => exact h

/-- A write of a location keeps every scratchpad canonical. -/
theorem writeLoc_sp_wf {s : State} (l : Loc) (bs : List Byte) (h : ∀ c, (s.core c).sp.wf = true) (c : Nat) :
    ((s.writeLoc l bs).core c).sp.wf = true := by
  cases l with
  | sp core off =>
    simp only [State.writeLoc, State.core, State.setCore, Table.get]
    by_cases hc : core = c
    · subst hc
      simp only [Table.find?_put_self, Option.getD_some]
      split
      · exact h core
      · have hf : ∀ (sp : Memory) (p : Nat), sp.wf = true →
            (if (s.core core).valid.getLsbD p then sp else sp.writeBytes (4 * p) [0, 0, 0, 0]).wf = true := by
          intro sp p hs; split
          · exact hs
          · exact writeBytes_wf _ _ hs
        exact writeBytes_wf _ _ (hf _ _ (hf _ _ (h core)))
    · rw [Table.find?_put_ne _ _ hc]; exact h c
  | mem part m gpa pa key =>
    simp only [State.writeLoc, State.core, State.setLineMeta, holdCell_cores, materialise_cores]; exact h c
  | wt _ _ => exact h c

end Sys2Proof.Machine
end

