-- ==== Sys2Proof/Laws/Issue.lean ====
section
/-! SUPPORT. What the shared operation `issue` does in each of its cases: an instruction that may issue does what its meaning does; one
that may not waits or traps; in every case the step goes on. -/
namespace Sys2Proof.Machine

/-- A bank written just before an instruction ends is written over by its end. -/
theorem finish_setBank (s : State) (c i : Nat) (x b : Bank) (e : Engine) (a : Ann) (g : Go) (l : Bool) :
    (s.setBank c i x).finish c i b e a g l = s.finish c i b e a g l := by
  have hb : ∀ y : Bank, (s.setBank c i y).blockedAt = s.blockedAt.setBank c i y := fun _ => rfl
  unfold State.finish
  cases a.sig with
  | none => by_cases h : g = .passed <;> simp [h, hb]
  | issue n => by_cases h : g = .passed <;> simp [h, hb]
  | done n => by_cases h : g = .passed <;> simp [h, hb, State.streamBusy, State.hasPending]

/-- Marking an attempt as blocked changes no bank. -/
@[simp] theorem State.bank_blockedAt (s : State) (c i : Nat) : s.blockedAt.bank c i = s.bank c i := rfl
@[simp] theorem waited_cur (s : State) (b : Bank) : (s.waited b).cur = s.cur := rfl
@[simp] theorem waited_bank (s : State) (b : Bank) : (s.waited b).bank s.cur.core s.cur.seat = some b := by simp [State.waited]

/-- The guards of `issue` in the form its definition tests them. -/
theorem Ready.guards {s : State} {p : Pre} {b b1 : Bank} (h : Ready s p b b1) :
    (!(p.lvl.le (b.level s.cur.eng)) || (p.mo && !(b.ctl s.cur.eng).mo)) = false ∧
    (p.ctl && s.cur.eng == .c && b.cS.ds) = false ∧
    (s.regPending b.job p.regs || (s.cur.eng == .m && !p.seamOk && b.deferred)) = false := by
  obtain ⟨_, hl, ho, hs, _, hr, hd, _⟩ := h
  refine ⟨?_, ?_, ?_⟩
  · rw [hl]; cases hm : p.mo <;> simp_all
  · cases hc : p.ctl <;> cases he : s.cur.eng <;> simp_all
  · rw [hr]; cases he : s.cur.eng <;> cases hk : p.seamOk <;> simp_all

/-- A ready instruction does what its meaning says of the state and bank that have had the wait. -/
theorem issue_ready {s : State} {p : Pre} {b b1 : Bank} (h : Ready s p b b1) (body : State → Bank → Res State) :
    issue p body s =
      match body (s.waited b1) b1 with
      | .wait => .next (s.waited b1).blockedAt
      | .hold s2 => .next s2.blockedAt
      | .begun s2 => .next s2
      | .trap t s2 =>
        if b1.unsettled s.cur.eng then .next (s.waited b1).blockedAt
        else match s2.bank s.cur.core s.cur.seat with
        | none => .next s2
        | some b2 => s2.trapHere b2 t
      | .ok s2 g late =>
        match s2.bank s.cur.core s.cur.seat with
        | none => .next s2
        | some b2 => .next (s2.finish s.cur.core s.cur.seat b2 s.cur.eng s.cur.ann g late) := by
  obtain ⟨g1, g2, g3⟩ := h.guards
  unfold issue
  simp only [h.live, g1, g2, h.wait, g3, h.clean, State.waited, Bool.false_eq_true, if_false]
  all_goals cases body (s.setBank s.cur.core s.cur.seat b1) b1 <;> rfl

/-- A ready instruction whose meaning ends: the bank is written with the stream moved on and the signal set. -/
theorem issue_ok {s : State} {p : Pre} {b b1 b2 : Bank} {body : State → Bank → Res State} {s2 : State} {g : Go} {late : Bool}
    (h : Ready s p b b1) (hb : body (s.waited b1) b1 = .ok s2 g late) (h2 : s2.bank s.cur.core s.cur.seat = some b2) (hc : s2.cur = s.cur) :
    issue p body s = .next (s2.done b2 g late) := by
  rw [issue_ready h]
  simp [hb, h2, State.done, hc]

/-- A ready instruction that changes only its own bank. -/
theorem issueB_ok {s : State} {p : Pre} {b b1 b2 : Bank} {f : Bank → Res Bank} {g : Go} {late : Bool}
    (h : Ready s p b b1) (hb : f b1 = .ok b2 g late) : issueB p f s = .next (s.done b2 g late) := by
  unfold issueB
  rw [issue_ready h]
  simp [onBank, hb, State.waited, finish_setBank, State.done]

/-- A ready plain register instruction. -/
theorem issueR_ok {s : State} {p : Pre} {b b1 : Bank} (h : Ready s p b b1) (f : Bank → Bank) :
    issueR p f s = .next (s.done (f b1) .next false) := issueB_ok h rfl

/-- A ready instruction that issues now and completes in a later attempt. -/
theorem issue_begun {s : State} {p : Pre} {b b1 : Bank} {body : State → Bank → Res State} {s2 : State}
    (h : Ready s p b b1) (hb : body (s.waited b1) b1 = .begun s2) : issue p body s = .next s2 := by
  rw [issue_ready h]; simp [hb]
/-- A ready instruction whose meaning waits: it has had its wait and takes no slot (R128). -/
theorem issue_wait {s : State} {p : Pre} {b b1 : Bank} {body : State → Bank → Res State}
    (h : Ready s p b b1) (hb : body (s.waited b1) b1 = .wait) : issue p body s = .next (s.waited b1).blockedAt := by
  rw [issue_ready h]; simp [hb]

/-- A ready instruction whose meaning raises a trap; in M, no product that it follows has k-steps to apply (R227, R258). -/
theorem issue_trap {s : State} {p : Pre} {b b1 b2 : Bank} {body : State → Bank → Res State} {s2 : State} {t : Trap}
    (h : Ready s p b b1) (hs : b1.unsettled s.cur.eng = false) (hb : body (s.waited b1) b1 = .trap t s2) (h2 : s2.bank s.cur.core s.cur.seat = some b2) (hc : s2.cur = s.cur) :
    issue p body s = .next (s2.trapped b2 t) := by
  rw [issue_ready h]
  simp [hb, h2, State.trapHere, State.trapped, hc, hs]

/-- Every instruction that goes through `issue` goes on, when its seat holds a bank. -/
theorem issue_next {s : State} {b : Bank} (p : Pre) (body : State → Bank → Res State) (h : s.bank s.cur.core s.cur.seat = some b) :
    ∃ t, issue p body s = .next t := by
  unfold issue
  simp only [h, State.trapHere]
  repeat' split
  all_goals exact ⟨_, rfl⟩
theorem issueB_next {s : State} {b : Bank} (p : Pre) (f : Bank → Res Bank) (h : s.bank s.cur.core s.cur.seat = some b) :
    ∃ t, issueB p f s = .next t := issue_next p _ h
theorem issueR_next {s : State} {b : Bank} (p : Pre) (f : Bank → Bank) (h : s.bank s.cur.core s.cur.seat = some b) :
    ∃ t, issueR p f s = .next t := issueB_next p _ h

/-- A level or compartment that is not enough: PRIV, before anything else of the instruction (R25 step 4). -/
theorem issue_priv {s : State} {p : Pre} {b : Bank} (body : State → Bank → Res State) (h : s.bank s.cur.core s.cur.seat = some b)
    (hs : b.unsettled s.cur.eng = false)
    (hl : p.lvl.le (b.level s.cur.eng) = false ∨ (p.mo = true ∧ (b.ctl s.cur.eng).mo = false)) :
    issue p body s = .next (s.trapped b { cause := .priv }) := by
  have g : (!(p.lvl.le (b.level s.cur.eng)) || (p.mo && !(b.ctl s.cur.eng).mo)) = true := by
    rcases hl with h | ⟨h, h'⟩ <;> simp [*]
  unfold issue
  simp only [h, g, hs, if_true, Bool.false_eq_true, if_false, State.trapHere, State.trapped]

end Sys2Proof.Machine
end

