-- ==== Sys2Proof/Tests/Slice0.lean ====
section
/-! SUPPORT. Tests on small states: words of the spec's encodings, ill-formed terms that WellFormed refuses, single steps with results
worked out from the spec's rules, and for the statements with hypotheses a state and operands that meet them together. -/
namespace Sys2Proof.Tests
open Sys2Proof.Machine
set_option Elab.async false

/-! ## Small states -/

/-- A job of VF 3 in partition 1 at level S, whose streams stand at word 1 of a ring of 8 words at 0x100 and are started. -/
def run : Ctl := { started := true, pc := 0x108, npc := 0x110 }
def b0 : Bank := { Bank.blank 7 3 1 with
  lvl := .s, cS := run, aS := run, vS := run, mS := run, dS := run, cring := ⟨0x100, 8⟩, aring := ⟨0x100, 8⟩, vring := ⟨0x100, 8⟩,
  mring := ⟨0x100, 8⟩, dring := ⟨0x100, 8⟩, hring := ⟨0x1000, 16⟩ }
/-- The bank live in seat 1 of core 5, at an instruction of engine `e`. -/
def st (e : Engine) (b : Bank) : State := { State.reset.setBank 5 1 b with cur := { core := 5, seat := 1, eng := e } }
/-- The same with the core changed by `f`. -/
def stc (e : Engine) (b : Bank) (f : Core → Core) : State := (st e b).setCore 5 (f ((st e b).core 5))
/-- The bank that a next state holds there. -/
def bankOf (o : Host.Outcome State Fault Refusal) : Option Bank :=
  match o with | .next t => t.bank 5 1 | _ => none
/-- A property of the next state of an outcome. -/
def after (o : Host.Outcome State Fault Refusal) (p : State → Bool) : Bool :=
  match o with | .next t => p t | _ => false
/-- A property of the bank after an outcome. -/
def holds (o : Host.Outcome State Fault Refusal) (p : Bank → Bool) : Bool :=
  match bankOf o with | some b => p b | none => false

/-- An instruction without a wait is ready in a small state that has its level and compartment. -/
theorem ready_st {e : Engine} {b : Bank} {p : Pre} (hl : p.lvl.le (b.level e) = true) (ho : p.mo = true → (b.ctl e).mo = true)
    (hs : p.ctl = true → e = .c → b.cS.ds = false) (hd : e = .m → p.seamOk = false → b.deferred = false) : Ready (st e b) p b b where
  live := rfl
  level := hl
  owner := ho
  slot := hs
  wait := by unfold State.doWait; exact ite_self _
  regs := rfl
  order := hd
  clean := rfl

/-! ## Words and terms -/

def noAnn : Ann := ⟨.none, .none⟩
/-- A word is that of the instruction: it decodes to it, it is its encoding, and the instruction is well formed. -/
def wordIs (e : Engine) (w : Word) (a : Ann) (i : Instr) : Bool :=
  (match decode e w with | .ok (b, j) => decide (b = a) && decide (j = i) | .error _ => false) && decide (encode e a i = w) && wf e i

theorem test_words_arithmetic :
    wordIs .c 0x4489184D30000005 ⟨.clr 4, .done 9⟩ (.addi (.l 3) (.l 3) 5) = true ∧
    wordIs .c 0x00002A43FFFFFFFF noAnn (.bne (.l 0) .zr (-1)) = true ∧
    wordIs .c 0x0000208000000003 noAnn (.ldi (.q 0) 3) = true ∧ wordIs .c 0x0000310000000004 noAnn (.call 4) = true ∧
    wordIs .c 0x00001827F0000004 noAnn (.addi (.p 1) .zr 4) = true ∧ wordIs .c 0x000001420FC00000 noAnn (.add (.l 0) (.q 0) .zr) = true := by
  decide
theorem test_words_shared :
    wordIs .v 0x0000C2000000000C noAnn (.sigwait 12) = true ∧ wordIs .a 0x0000C50300000000 noAnn (.join (.x 3)) = true ∧
    wordIs .c 0x0000C90120000000 noAnn (.bqput (.c (.l 2))) = true ∧ wordIs .a 0x0000CA00FFFFFFFE noAnn (.bqbr (-2)) = true ∧
    wordIs .c 0x0000C8000000004D noAnn (.fence .package 9) = true ∧ wordIs .c 0x0000D24D20000000 noAnn (.tffr (.c (.l 3)) (.c (.l 2))) = true := by
  decide
theorem test_words_memory :
    wordIs .c 0x0000404D45000008 noAnn (.ld ⟨.l 3, .l 4, .b4, true, 8⟩) = true ∧
    wordIs .c 0x0000494D46600000 noAnn (.lda ⟨.l 3, .l 4, .b8, false, .cluster, 0⟩) = true ∧
    wordIs .c 0x00004A5546A00000 noAnn (.stl ⟨.l 5, .l 4, .b8, false, .package, 0⟩) = true ∧
    wordIs .c 0x0000504D45404E00 noAnn (.amoadd ⟨.l 3, .l 4, .l 5, .core, false, true, .b8⟩) = true ∧
    wordIs .c 0x0000610150000003 noAnn (.pmret (.l 5) .cluster) = true ∧
    wordIs .c 0x0000624524C00000 noAnn (.pmldx (.l 1) (.l 2) (.l 3)) = true := by decide
theorem test_words_streams :
    wordIs .a 0x0000214238004000 noAnn (.alds ⟨.am 0, 2, 3, .b4, .normal, 4, .stream, false, false⟩) = true ∧
    wordIs .a 0x0000274258004000 noAnn (.apmld ⟨.am 0, 2, 5, .b4, .normal, 4, .stream, false, false⟩) = true ∧
    wordIs .a 0x0000281800000000 noAnn (.qget 1 .ca0) = true ∧ wordIs .c 0x0000710100000008 noAnn (.qput (.l 0) .ca0) = true := by decide
theorem test_words_vector :
    wordIs .v 0x0000041844368000 noAnn (.vfma 3 1 2 3 ⟨.fp32, .rne, false, false, false, false⟩) = true ∧
    wordIs .v 0x000018004E268000 noAnn (.vcmp 1 7 .lt .fp32 false false) = true ∧ wordIs .v 0x0000430000000002 noAnn (.bmskip 2) = true ∧
    wordIs .v 0x00002129020B0000 noAnn (.vtacc 5 4 1 false false) = true ∧ wordIs .v 0x0000202000088000 noAnn (.vunpk3 4 0 false) = true ∧
    wordIs .v 0x00003B106CFFFFCC noAnn (.vslide 2 1 .i8 false (-52)) = true ∧ wordIs .v 0x00003C1480000000 noAnn (.vqget 2 .cv0) = true := by
  decide
theorem test_words_matrix :
    wordIs .m 0x00000800C0400000 noAnn (.mldw 3 0 4) = true ∧ wordIs .m 0x00000A1000140000 noAnn (.mma 0 (.q (.am 0)) 0 1 false) = true ∧
    wordIs .m 0x00000D1400000000 noAnn (.mstz 0 5 false) = true ∧ wordIs .m 0x00000E0000000000 noAnn (.mstq 0) = true ∧
    wordIs .m 0x0000210800200000 noAnn (.stin 2 2) = true ∧ wordIs .m 0x00002200C0000000 noAnn (.sthdr 3) = true ∧
    wordIs .m 0x0000231140000000 noAnn (.steval 4 5) = true ∧ wordIs .m 0x0000240018100000 noAnn (.stout 0 1 6) = true := by decide
theorem test_words_copies_and_system :
    wordIs .d 0x0000011231720000 noAnn (.dcopy ⟨1, 2, 3, 5, true, true, .seat, 0⟩) = true ∧ wordIs .d 0x0000222B00000000 noAnn (.dqget 2 .cd0) = true ∧
    wordIs .d 0x0000211100001000 noAnn (.daddi 1 1 4096) = true ∧ wordIs .c 0x0000900124C70000 noAnn (.wprog (.l 2) (.l 3) 7) = true ∧
    wordIs .c 0x0000A10000000001 noAnn (.rte 1) = true ∧ wordIs .c 0x0000A85800000000 noAnn (.errpop (.l 6)) = true ∧
    wordIs .c 0x0000A60144800000 noAnn (.bankld (.l 4) (.l 2)) = true ∧ wordIs .c 0x0000B00124C00000 noAnn (.gate (.l 2) (.l 3)) = true ∧
    wordIs .c 0x0000A00000000012 noAnn (.trap 0x12) = true ∧ wordIs .v 0x0000FE0000000007 noAnn (.brk 7) = true := by decide

/-- The reason a word is refused. -/
def whyNot (e : Engine) (w : Word) : Option DecodeError := match decode e w with | .error x => some x | .ok _ => none
/-- Words that are refused, each by name: a signal of kind 11, a wait number under kind 00, a reserved register code, a nonzero zero-field,
size 8 with sign extension, an unknown special register; and a word of an opcode that is not assigned. -/
theorem test_words_refused :
    whyNot .c 0x00C0010000000000 = some .waitSignal ∧ whyNot .c 0x0100010000000000 = some .waitSignal ∧
    whyNot .c 0x000001A000000000 = some .register ∧ whyNot .c 0x0000AA0000000001 = some .zeroField ∧
    whyNot .c 0x0000404D47000008 = some .code ∧ whyNot .c 0x0000390004010000 = some .specialReg ∧ whyNot .c 0x0000FF0000000001 = none := by decide
/-- An ill-formed term for each check of `wf`: an instruction of another engine, and operands out of their form. -/
theorem test_wf_refuses :
    wf .a (.add (.l 0) (.l 0) (.l 0)) = false ∧ wf .c (.join (.x 3)) = false ∧ wf .c .tickEdge = false ∧
    wf .c (.unassignedOpcode 0x01 0) = false ∧ wf .c (.fence .seat 0) = false ∧ wf .a (.bqbr (2 ^ 31)) = false ∧ wf .c (.bqbr 0) = false ∧
    wf .c (.mts .coreid (.l 0)) = false ∧ wf .c (.errpop (.l 5)) = false := by decide
theorem test_wf_refuses_memory :
    wf .c (.ld ⟨.l 0, .l 0, .b8, true, 0⟩) = false ∧ wf .c (.st ⟨.l 0, .l 0, .b4, true, 0⟩) = false ∧
    wf .c (.lda ⟨.l 0, .l 0, .b8, true, .cluster, 0⟩) = false ∧ wf .c (.stl ⟨.l 0, .l 0, .b4, true, .cluster, 0⟩) = false ∧
    wf .c (.amoadd ⟨.l 0, .l 1, .l 2, .core, true, false, .b2⟩) = false ∧ wf .c (.amoadd ⟨.l 0, .l 1, .l 2, .core, false, false, .b8⟩) = false ∧
    wf .c (.afadd ⟨.l 0, .l 1, .l 2, .core, true, false, .b8⟩) = false ∧
    wf .a (.ald ⟨.am 0, 2, 3, .b4, .normal, 4, .stream, false, false⟩) = false ∧
    wf .a (.alds ⟨.am 0, 2, 3, .b4, .normal, 4, .seat, false, false⟩) = false ∧
    wf .d (.dpfa ⟨1, 2, 3, 5, true, false, .seat, 0⟩) = false ∧ wf .d (.dbtfree ⟨1, 2, 3, 5, false, false, .stream, 0⟩) = false := by decide
theorem test_wf_refuses_vector_and_matrix :
    wf .v (.vadd 3 1 2 ⟨.e4, .rne, false, false, false, false⟩) = false ∧ wf .v (.vrcp 3 1 ⟨.i32, .rne, false, false, false, false⟩) = false ∧
    wf .v (.vshl 3 1 2 .fp32 false) = false ∧ wf .v (.vcmp 1 2 .uo .i32 false false) = false ∧
    wf .v (.vcvt 1 2 .bin ⟨.fp32, .rne, false, false, false, false⟩) = false ∧ wf .v (.vdot4 1 2 3 .i16 false false) = false ∧
    wf .v (.vperm 1 2 3 .i4 false) = false ∧ wf .v (.vqget 16 .cv0) = false ∧ wf .m (.mldw 3 0 0) = false ∧ wf .m (.stin 2 9) = false ∧
    wf .m (.stout 1 1 6) = false := by decide

/-! ## Control: registers, branches, windows -/

/-- The bank with l0 to l3 set. -/
def bl (v0 v1 v2 v3 : Word) : Bank := (((b0.setC (.l 0) v0).setC (.l 1) v1).setC (.l 2) v2).setC (.l 3) v3
/-- A resident window whose l0 is `w`. -/
def winOf (w : Word) : Win := ⟨Vector.replicate 8 0, (Vector.replicate 16 0).set 0 w⟩

theorem test_div_results :
    holds (exec (.div (.l 0) (.l 1) (.l 2)) (st .c (bl 0 (-7) 2 0))) (fun b => b.getC (.l 0) == -3 && b.cS.pc == 0x110 && b.cS.npc == 0x118) = true ∧
    holds (exec (.rem (.l 0) (.l 1) (.l 2)) (st .c (bl 0 (-7) 2 0))) (fun b => b.getC (.l 0) == -1) = true ∧
    holds (exec (.div (.l 0) (.l 1) (.l 2)) (st .c (bl 0 (-7) 0 0))) (fun b => b.getC (.l 0) == -1) = true ∧
    holds (exec (.remn (.l 0) (.l 1) (.l 2)) (st .c (bl 0 (-7) 0 0))) (fun b => b.getC (.l 0) == -7) = true := by decide
theorem test_shifts_and_counts :
    holds (exec (.shl (.l 0) (.l 1) (.l 2)) (st .c (bl 0 3 65 0))) (fun b => b.getC (.l 0) == 6) = true ∧
    holds (exec (.sra (.l 0) (.l 1) (.l 2)) (st .c (bl 0 (-8) 1 0))) (fun b => b.getC (.l 0) == -4) = true ∧
    holds (exec (.mulh (.l 0) (.l 1) (.l 2)) (st .c (bl 0 (-1) 2 0))) (fun b => b.getC (.l 0) == -1) = true ∧
    holds (exec (.clz (.l 0) (.l 1)) (st .c (bl 0 1 0 0))) (fun b => b.getC (.l 0) == 63) = true ∧
    holds (exec (.popc (.l 0) (.l 1)) (st .c (bl 0 0xF1 0 0))) (fun b => b.getC (.l 0) == 5) = true ∧
    holds (exec (.ldih (.l 0) 0x12345678) (st .c (bl 0xFFFFFFFF 0 0 0))) (fun b => b.getC (.l 0) == 0x12345678FFFFFFFF) = true := by decide
theorem test_write_of_zr : holds (exec (.addi .zr (.l 1) 5) (st .c (bl 0 1 0 0))) (fun b => b.getC .zr == 0 && b.getC (.l 0) == 0) = true := by
  decide
theorem test_branch_has_a_slot :
    holds (exec (.beq (.l 0) (.l 1) (-2)) (st .c b0)) (fun b => b.cS.pc == 0x110 && b.cS.npc == 0x138 && b.cS.ds) = true ∧
    holds (exec (.bne (.l 0) (.l 1) (-2)) (st .c b0)) (fun b => b.cS.pc == 0x110 && b.cS.npc == 0x118 && b.cS.ds) = true := by decide
theorem test_call_moves_the_window :
    holds (exec (.call 3) (st .c (b0.setC (.q 2) 9)))
      (fun b => b.getC (.p 2) == 9 && b.getC (.p 7) == 0x118 && b.depth == 1 && b.rsd == 1 && b.cS.npc == 0x120) = true := by decide

theorem witness_ControlArithmetic :
    Ready (st .c (bl 0 (-7) 2 0)) { regs := [.l 0, .l 1, .l 2] } (bl 0 (-7) 2 0) (bl 0 (-7) 2 0) ∧
    Ready (st .c b0) { regs := [.zr, .l 1, .l 2, .l 3] } b0 b0 ∧ Ready (st .c b0) { regs := [.l 0, .l 0] } b0 b0 ∧
    Ready (st .c b0) { regs := [.l 0] } b0 b0 ∧ CrOp .add (fun x y => BitVec.ofInt 64 (x.toInt + y.toInt)) ∧
    CiOp (.shli · · 63) (fun x => BitVec.ofNat 64 (x.toNat * 2 ^ 63)) :=
  ⟨ready_st rfl nofun nofun nofun, ready_st rfl nofun nofun nofun, ready_st rfl nofun nofun nofun, ready_st rfl nofun nofun nofun, .add, .shli 63⟩
/-- The last word of a ring of 8 words. -/
theorem witness_ProgramOrder :
    0 < b0.cring.len ∧ b0.cring.base ≤ 0x138 ∧ 0x138 < b0.cring.base + 8 * b0.cring.len ∧ (0x138 - b0.cring.base) % 8 = 0 ∧ Go.next ≠ Go.set := by
  decide
/-- JR to the first and the last word of the ring, and to the address after it; a branch; a transfer in a slot at level S. -/
theorem witness_ControlTransfers :
    Ready (st .c (bl 0x100 0 0 0)) { ctl := true, regs := [.l 0] } (bl 0x100 0 0 0) (bl 0x100 0 0 0) ∧
    Ready (st .c (bl 0x138 0 0 0)) { ctl := true, regs := [.l 0] } (bl 0x138 0 0 0) (bl 0x138 0 0 0) ∧
    Ready (st .c (bl 0x140 0 0 0)) { ctl := true, regs := [.l 0] } (bl 0x140 0 0 0) (bl 0x140 0 0 0) ∧
    (b0.ring .c).holds 0x100 = true ∧ (b0.ring .c).holds 0x138 = true ∧ (b0.ring .c).holds 0x140 = false ∧
    Ready (st .c b0) { ctl := true, regs := [.l 0, .l 1] } b0 b0 ∧ Ready (st .c b0) { ctl := true, regs := [.zr, .zr] } b0 b0 ∧
    (let b := { b0 with cS := { run with ds := true } }
     (st .c b).bank 5 1 = some b ∧ b.cS.ds = true ∧ b.level .c ≠ .u) :=
  ⟨ready_st rfl nofun (fun _ _ => rfl) nofun, ready_st rfl nofun (fun _ _ => rfl) nofun, ready_st rfl nofun (fun _ _ => rfl) nofun, by decide, by decide,
    by decide, ready_st rfl nofun (fun _ _ => rfl) nofun, ready_st rfl nofun (fun _ _ => rfl) nofun, rfl, rfl, by decide⟩
/-- The bank with n older resident windows, p7 = 0x100. -/
def calls (n : Nat) : Bank := { b0 with older := List.replicate n (winOf 5), win := ⟨(Vector.replicate 8 0).set 7 0x100, Vector.replicate 16 0⟩ }
/-- CALL with eight resident windows, the most that leave one free; CALLR; RET with a caller, at DEPTH 0 and with p7 outside the ring. -/
theorem witness_CallsAndReturns :
    Ready (st .c (calls 8)) { ctl := true, regs := [] ++ windowRegs } (calls 8) (calls 8) ∧ (calls 8).rsd = 8 ∧
    Ready (st .c (bl 0x100 0 0 0)) { ctl := true, regs := [.l 0] ++ windowRegs } (bl 0x100 0 0 0) (bl 0x100 0 0 0) ∧
    ((bl 0x100 0 0 0).ring .c).holds ((bl 0x100 0 0 0).getC (.l 0)) = true ∧ (bl 0x100 0 0 0).rsd < 9 ∧
    Ready (st .c (calls 1)) { ctl := true, regs := windowRegs } (calls 1) (calls 1) ∧ (calls 1).older = [winOf 5] ∧ (calls 1).spillsLast = false ∧
    (let b := { calls 1 with spill := some (.spill 0) }
     Ready (st .c b) { ctl := true, regs := windowRegs } b b ∧ b.older = [winOf 5] ∧ (b.ring .c).holds (b.getC (.p 7)) = true ∧ b.spillsLast = true) ∧
    ((calls 1).ring .c).holds ((calls 1).getC (.p 7)) = true ∧
    Ready (st .c b0) { ctl := true, regs := windowRegs } b0 b0 ∧ b0.depth = 0 ∧ (b0.ring .c).holds (b0.getC (.p 7)) = false :=
  ⟨ready_st rfl nofun (fun _ _ => rfl) nofun, by decide, ready_st rfl nofun (fun _ _ => rfl) nofun, by decide, by decide,
    ready_st rfl nofun (fun _ _ => rfl) nofun, rfl, rfl, ⟨ready_st rfl nofun (fun _ _ => rfl) nofun, rfl, by decide, rfl⟩, by decide,
    ready_st rfl nofun (fun _ _ => rfl) nofun, by decide, by decide⟩
/-- A spill area of one window at 0x2000, with eight windows, and with one window that is spilled there. -/
def spilling : Bank := { calls 8 with spillBase := 0x2000, spillLim := 0x2000 + 192 }
def spilled : Bank := { b0 with spillBase := 0x2000, spillLim := 0x2000 + 192, spd := 1 }
theorem sp_wf_st (c : Nat) : ((st .c spilling).core c).sp.wf = true := by
  by_cases h : c = 5
  · subst h; rfl
  · have : (st .c spilling).core c = Core.reset := by
      unfold State.core Table.get; show ((Table.find? [(5, _)] c).getD Core.reset) = _; simp [Table.find?, Ne.symm h]
    rw [this]; rfl
theorem witness_SpillEngine :
    (st .c spilling).bank 5 1 = some spilling ∧ (∀ c, ((st .c spilling).core c).sp.wf = true) ∧ spilling.spillBase + 192 * spilling.spd + 192 ≤ 0x60000 ∧ 8 ≤ spilling.rsd ∧ spilling.spd < (spilling.spillLim - spilling.spillBase) / 192 ∧
    spilling.spill = none ∧ spilling.frozen = none ∧
    (let b := { spilling with spill := some (.spill 0) }
     (st .c b).bank 5 1 = some b ∧ b.older.getLast? = some (winOf 5)) ∧
    spilled.rsd ≤ 1 ∧ 0 < spilled.spd ∧ spilled.spill = none ∧ spilled.fillTrap = none ∧
    (let b := { spilled with spill := some .fill }
     let s := stc .c b fun c => { c with valid := BitVec.ofNat 98304 ((2 ^ 48 - 1) * 2 ^ 2048) }
     s.bank 5 1 = some b ∧ firstPart (s.core 5).poison true 0x2000 192 = none ∧ firstPart (s.core 5).valid false 0x2000 192 = none) := by
  refine ⟨rfl, sp_wf_st, by decide, by decide, by decide, rfl, rfl, ⟨rfl, rfl⟩, by decide, by decide, rfl, rfl, rfl, by decide +kernel, by decide +kernel⟩

/-! ## Special registers, privilege, plain instructions -/

theorem test_mts_mfs :
    holds (exec (.mts .trapfl (.l 0)) (st .c (bl 0x300000F03 0 0 0))) (fun b => (st .c b).special b .trapfl == 0x300000F03) = true ∧
    holds (exec (.mts .trapfl (.l 0)) (st .c (bl 0x8 0 0 0))) (fun b => b.handling && b.trap.cause == 1 && b.trap.fl == 0) = true ∧
    holds (exec (.mfs (.l 0) .coreid) (st .c b0)) (fun b => b.getC (.l 0) == 5) = true := by decide
theorem test_privilege :
    holds (exec .tlbia (st .c { b0 with lvl := .u })) (fun b => b.handling && b.trap.cause == 0x02 && b.trap.c == 0x108 && b.cS.trapped && b.cS.pc == 0x108) = true := by
  decide
theorem test_tokmax_lowers_tokens :
    after (exec (.tokmaxWrite (.l 0)) (st .c { bl 300 0 0 0 with lvl := .h })) (fun t => (t.core 5).tokens == 300 && (t.core 5).tokmax == 300) = true := by
  decide

theorem witness_SpecialReads :
    Ready (st .c b0) { lvl := srReadLevel .trapc, regs := [.l 0] } b0 b0 ∧ (st .c b0).cur.core < 1536 ∧ (st .c b0).cur.seat < 4 ∧ b0.vf < 128 ∧
    b0.cring.base < 2 ^ 19 ∧ b0.cring.len < 2 ^ 16 ∧ b0.rsd ≤ 9 ∧ b0.depth < 65536 :=
  ⟨ready_st rfl nofun nofun nofun, by decide⟩
/-- The greatest value that each register of limited width accepts, and the next one, which it refuses. -/
theorem witness_SpecialWrites :
    (Ready (st .c (bl 0x7FFFF 0 0 0)) { lvl := srWriteLevel .trapc, regs := [.l 0] } (bl 0x7FFFF 0 0 0) (bl 0x7FFFF 0 0 0) ∧
      MtsForm (.mts .trapc (.l 0)) .trapc (.l 0) ∧ MtsForm (.tokmaxWrite (.l 0)) .tokmax (.l 0)) ∧
    (MtsAccepts b0 .trapc 0x7FFFF ∧ ¬ MtsAccepts b0 .trapc 0x80000) ∧ (MtsAccepts b0 .trapcause 0xFF ∧ ¬ MtsAccepts b0 .trapcause 0x100) ∧
    (MtsAccepts b0 .trapstrm 4 ∧ ¬ MtsAccepts b0 .trapstrm 5) ∧ (MtsAccepts b0 .trapfl 0xFFFFFFFF00000F07 ∧ ¬ MtsAccepts b0 .trapfl 8) ∧
    (MtsAccepts b0 .pm 65535 ∧ ¬ MtsAccepts b0 .pm 65536) ∧ (MtsAccepts b0 .pmwaitlim (2 ^ 32 - 1) ∧ ¬ MtsAccepts b0 .pmwaitlim (2 ^ 32)) ∧
    (MtsAccepts b0 .spmode 1 ∧ ¬ MtsAccepts b0 .spmode 2) ∧ (MtsAccepts b0 .vctl 3 ∧ ¬ MtsAccepts b0 .vctl 4) ∧
    (MtsAccepts spilling .winptr 0x100010000 ∧ spilling.spill = none ∧ ¬ MtsAccepts spilling .winptr 0x200020000) ∧
    (MtsAccepts b0 .spillbase 0 ∧ ¬ MtsAccepts b0 .spillbase 0x60040) ∧ (MtsAccepts b0 .spilllim 0x60000 ∧ ¬ MtsAccepts b0 .spilllim 0x60040) ∧
    (MtsAccepts b0 .vstat 0x7F ∧ ¬ MtsAccepts b0 .vstat 0x80) ∧ (MtsAccepts b0 .mstat 1 ∧ ¬ MtsAccepts b0 .mstat 2) ∧
    (MtsAccepts b0 .blst 0xFFFF0F77 ∧ ¬ MtsAccepts b0 .blst 8) ∧ (MtsAccepts b0 .tokmax 256 ∧ ¬ MtsAccepts b0 .tokmax 65537) ∧
    (MtsAccepts b0 .tickper 1 ∧ ¬ MtsAccepts b0 .tickper 0) := by
  refine ⟨⟨ready_st rfl nofun nofun nofun, .mts _ _, .tokmax _⟩, ?_⟩
  simp [MtsAccepts, b0, Bank.blank, spilling, calls]
/-- MFS of TRAPC, TLBIA and KEYZAP below their levels. -/
theorem witness_PrivilegeChecks :
    (st .c { b0 with lvl := .u }).bank 5 1 = some { b0 with lvl := .u } ∧ (∀ e, ({ b0 with lvl := .u } : Bank).unsettled e = false) ∧ srPrivileged .trapc = true ∧ ({ b0 with lvl := .u } : Bank).level .c = .u ∧
    (srWriteLevel .tickper).le (b0.level .c) = false ∧ b0.level .c ≠ .h := ⟨rfl, fun _ => by simp [Bank.unsettled, b0, Bank.blank], rfl, rfl, rfl, by decide⟩

/-- A store of C to scratchpad that is not performed, and the state with it. -/
def pending : Access := { id := 1, job := 7, core := 5, seat := 1, eng := .c, vf := 3, part := 1, kind := .store,
                          elems := [plainElem (.sp 5 0x2000) 4 .sp true [1, 2, 3, 4]] }
def busy (e : Engine) (b : Bank) : State := { st e b with acc := [{ pending with eng := e }], nextId := 2 }
/-- An instruction that reads no register of a pending load is ready beside a pending store. -/
theorem ready_busy {e : Engine} {b : Bank} {p : Pre} (hl : p.lvl.le (b.level e) = true) (ho : p.mo = true → (b.ctl e).mo = true)
    (hs : p.ctl = true → e = .c → b.cS.ds = false) (hd : e = .m → p.seamOk = false → b.deferred = false) : Ready (busy e b) p b b where
  live := rfl
  level := hl
  owner := ho
  slot := hs
  wait := by unfold State.doWait; exact ite_self _
  regs := by simp [State.regPending, State.pendingRegs, busy, pending]
  order := hd
  clean := rfl
theorem test_wsync_waits : after (exec .wsync (busy .c b0)) (fun t => t.cur.blocked && t.acc == [pending]) = true := by decide +kernel
theorem witness_PlainInstructions :
    Ready (st .c b0) {} b0 b0 ∧ (st .c b0).acc.any (fun a => a.job == b0.job && a.eng == .c && a.storesSp) = false ∧
    Ready (busy .c b0) {} b0 b0 ∧ ((busy .c b0).waited b0).streamBusy b0 .c = true :=
  ⟨ready_st rfl nofun nofun nofun, rfl, ready_busy rfl nofun nofun nofun, by decide⟩

/-! ## Memory -/

/-- The small state with the page at VA 0x1_0000 mapped to GPA 0x2_0000 (strongly ordered, writable), and the first
256 bytes of that to PA 0x4_0000. -/
def stm (e : Engine) (b : Bank) : State :=
  { st e b with tlb := [⟨5, e, 3, 0, 0x10000, false, 0x20013⟩], llc := (List.range 4).map fun i =>
    { part := 1, gpa := 0x20000 + 64 * i, pa := 0x40000 + 64 * i, key := 0, r := true, w := true, vf := 3, clean := [] } }
/-- The core with units 2 and 3 owned by seat 1 for VF 3, all of their parts valid, and unit 3 labelled MO. -/
def owned (c : Core) : Core :=
  { c with owner := [(2, (1, 3)), (3, (1, 3))], mo := 8, valid := BitVec.ofNat 98304 ((2 ^ 2048 - 1) * 2 ^ 2048), sp := [(0x2000, 0x80), (0x2003, 0xFF)] }
def sts (b : Bank) : State := stc .c b owned
theorem ready_stm {e : Engine} {b : Bank} {p : Pre} (hl : p.lvl.le (b.level e) = true) (ho : p.mo = true → (b.ctl e).mo = true)
    (hs : p.ctl = true → e = .c → b.cS.ds = false) (hd : e = .m → p.seamOk = false → b.deferred = false) : Ready (stm e b) p b b where
  live := rfl
  level := hl
  owner := ho
  slot := hs
  wait := by unfold State.doWait; exact ite_self _
  regs := rfl
  order := hd
  clean := rfl
theorem ready_stc {e : Engine} {b : Bank} {p : Pre} {f : Core → Core} (hf : ∀ c, (f c).seats = c.seats) (hl : p.lvl.le (b.level e) = true)
    (ho : p.mo = true → (b.ctl e).mo = true) (hs : p.ctl = true → e = .c → b.cS.ds = false)
    (hd : e = .m → p.seamOk = false → b.deferred = false) : Ready (stc e b f) p b b where
  live := by show ((f ((st e b).core 5)).seat 1).live = some b; simp only [Core.seat, hf]; rfl
  level := hl
  owner := ho
  slot := hs
  wait := by unfold State.doWait; exact ite_self _
  regs := rfl
  order := hd
  clean := rfl

theorem test_load_posts_a_read :
    after (exec (.ld ⟨.l 0, .l 1, .b4, true, 4⟩) (stm .c (bl 0 0x10004 0 0))) (fun t =>
      t.acc.map (fun a => (a.kind, a.elems.map (·.loc))) == [(.load (.l 0) .b4 true, [.mem 1 0 0x20008 0x40008 0])] && t.dram == []) = true := by
  decide +kernel
theorem test_misaligned_load : holds (exec (.ld ⟨.l 0, .l 1, .b4, true, 2⟩) (stm .c (bl 0 0x10004 0 0)))
    (fun b => b.trap.cause == 0x03 && b.trap.addr == 0x10006 && b.cS.trapped) = true := by decide +kernel
/-- A byte of 0x80 in scratchpad, loaded with sign extension. -/
theorem test_sld_and_its_end :
    (match exec (.sld ⟨.l 0, .l 1, .b1, true, 0⟩) (sts (bl 0 0x2000 0 0)) with
     | .next t => match exec .accessPerformed { t with cur := { ev := { idx := 1, quad := 0 } } } with
       | .next u => holds (exec .accessPerformed { u with cur := { ev := { idx := 1, quad := 1 } } }) fun b => b.getC (.l 0) == -128
       | _ => false
     | _ => false) = true := by decide +kernel
theorem test_sst_to_another_label : holds (exec (.sst ⟨.l 0, .l 1, .b4, false, 0⟩) (sts (bl 0 0x3000 0 0)))
    (fun b => b.trap.cause == 0x12 && b.trap.addr == 0x3000) = true := by decide +kernel

/-- Accesses of the first eight bytes of the page pass their checks, as a load, under a postmark, as a store and as an atomic. -/
theorem witness_MemoryIssues :
    let b := bl 0 0x10000 3 0
    let s := stm .c b
    let t : Target := ⟨.mem 1 0 0x20000 0x40000 0, .so⟩
    (Ready s { regs := [.l 0, .l 1] } b b ∧ Ready s { regs := [.l 0, .l 1, .l 3] } b b ∧ Ready s { regs := [.l 0, .l 1, .l 2, .zr] } b b) ∧
    b.getC (.l 1) = 0x10000 ∧ (b.getC (.l 3)).toNat < 65536 ∧ AmoForm .amoadd .add ∧
    Passes s b 0x10000 8 0 useLoad t (s.waited b) ∧ Passes s b 0x10000 8 0 { useLoad with explicitPm := true } t (s.waited b) ∧
    Passes s b 0x10000 8 0 useStore t (s.waited b) ∧ Passes s b 0x10000 8 0 (useAtomic true) t (s.waited b) :=
  ⟨⟨ready_stm rfl nofun nofun nofun, ready_stm rfl nofun nofun nofun, ready_stm rfl nofun nofun nofun⟩, by decide, by decide, .add,
    ⟨rfl, rfl, rfl, fun _ => rfl⟩, ⟨rfl, rfl, rfl, fun _ => rfl⟩, ⟨rfl, rfl, rfl, fun _ => rfl⟩, ⟨rfl, rfl, rfl, fun _ => rfl⟩⟩
/-- The last bytes of the owned units and the address after the scratchpad; a unit of the other label; addresses that are not canonical, of the
upper half at level U, and misaligned. -/
theorem witness_AccessChecks :
    let b := bl 0 0x2000 0 0
    let s := sts b
    Ready s { regs := [.l 0, .l 1] } b b ∧ (s.waited b).unitCond b (b.level .c) b.cS.mo 5 (some 1) 2 = .ok ∧
    ((s.waited b).core 5).readCond 0x2FF8 8 = .ok ∧ (s.waited b).firstStalled b .c = true ∧ 0x2FF8 < 0x60000 ∧ ¬ 0x60000 < 0x60000 ∧
    (s.waited b).unitCond b (b.level .c) b.cS.mo 5 (some 1) 3 = .gate ∧ (s.waited b).unitCond b (b.level .c) b.cS.mo 5 (some 1) 4 = .illegal ∧
    (s.waited b).unitCond b (b.level .c) b.cS.mo 5 none 2 = .ok ∧ (s.waited b).requestFree 5 = true ∧ s.ownSpStore 7 .c 5 0x2FF8 8 = false ∧
    ((stc .c { b with ut := true } fun c => { owned c with valid := 0 }).core 5).readCond 0x2FF8 8 = .invalid 0x2FF8 := by
  refine ⟨ready_stc (fun _ => rfl) rfl nofun nofun nofun, ?_, ?_, ?_, ?_, ?_, ?_, ?_, ?_, ?_, ?_, ?_⟩ <;> decide +kernel
theorem witness_AddressTraps :
    (0x0040000000000000 : Word).toNat / 2 ^ 54 = 1 ∧ (0xFFC0000000000000 : Word).toNat / 2 ^ 54 = 1023 ∧
    (0x003FFFFFFFFFFFFF : Word).toNat / 2 ^ 54 = 0 ∧ ({ b0 with lvl := .u } : Bank).level .c = .u ∧ b0.level .c ≠ .u ∧
    (0x003FFFFFFFFFFFFF : Word).toNat % 4 ≠ 0 := by decide
/-- A pending store to scratchpad and one to base memory, an atomic, and a load whose bytes have been read. -/
def perf (a : Access) : State := { sts b0 with acc := [a], nextId := 2, cur := { ev := { idx := 1, quad := 0 } } }
def memElem : Elem := plainElem (.mem 1 0 0x20000 0x40000 0) 8 .so true [1, 2, 3, 4, 5, 6, 7, 8]
theorem performable (a : Access) (x : Elem) (h1 : a.id = 1) (h2 : a.elems = [x]) (h3 : x.done = false)
    (h4 : a.kind ≠ .sigset ∧ ∀ k, a.kind ≠ .fence k) (h5 : x.poison = false) (h6 : a.kind ≠ .tile) (h7 : a.rel = false)
    (h8 : (perf a).lineTaken a.job a.eng x.loc = false) : Performable (perf a) a 0 x where
  pend := by simp [perf, h1]
  elem := by simp [perf, h2]
  index := rfl
  todo := h3
  kind := h4
  inOrder := rfl
  tile := by simp [State.tileWaits, h6]
  order := by simp [State.mustWait, State.othersAt, perf, h7, Access.release]
  level := rfl
  line := fun _ => h8
  clean := h5
theorem witness_AccessesPerformed :
    Performable (perf pending) pending 0 (plainElem (.sp 5 0x2000) 4 .sp true [1, 2, 3, 4]) ∧
    Performable (perf { pending with elems := [memElem] }) { pending with elems := [memElem] } 0 memElem ∧
    Performable (perf { pending with kind := .amo .add (.l 0) .b8 5 0, elems := [memElem] })
      { pending with kind := .amo .add (.l 0) .b8 5 0, elems := [memElem] } 0 memElem ∧ memElem.len = Size.b8.bytes ∧
    ((perf pending).lineMeta 0x40000).poison = false ∧ memElem.poison = false ∧ memElem.bytes.length = memElem.len ∧ Inv (perf pending) ∧
    (let e : Elem := { plainElem (.sp 5 0x2000) 4 .sp false [1, 2, 3, 0x84] with done := true }
     let a := { pending with kind := .load (.l 0) .b4 true, elems := [e] }
     let s : State := { perf a with cur := { ev := { idx := 1, quad := 1 } } }
     s.acc.find? (fun o => o.id == s.cur.ev.idx) = some a ∧ e.bytes.length = Size.b4.bytes ∧ a.sig = none ∧ 1 ≤ s.cur.ev.quad ∧ s.images = [] ∧
     s.bank 5 1 = some b0 ∧ b0.job = a.job) := by
  refine ⟨performable _ _ rfl rfl rfl (by decide) rfl (by decide) rfl rfl, performable _ _ rfl rfl rfl (by decide) rfl (by decide) rfl rfl,
    performable _ _ rfl rfl rfl (by decide) rfl (by decide) rfl rfl, rfl, rfl, rfl, rfl, ?_, rfl, rfl, rfl, Nat.le_refl 1, rfl, ?_, rfl⟩
  · exact ⟨rfl, rfl, by simp [perf, sts, stc, st, State.setBank, State.setLive, State.setCore, State.reset, Table.put, owned]; decide, by simp [State.coresOnce, perf, sts, stc, st, State.setBank, State.setLive, State.setCore, State.reset, Table.put]⟩
  · rfl

/-- Pending accesses `l` on the core with owned units, and the event that performs an element of access 3. -/
def ordering (l : List Access) : State := { sts b0 with acc := l, nextId := 4, cur := { ev := { idx := 3, quad := 0 } } }
def spElem (off : Nat) : Elem := plainElem (.sp 5 off) 4 .sp true [1, 2, 3, 4]
def rcElem (g : Nat) : Elem := plainElem (.mem 1 0 (0x20000 + g) (0x40000 + g) 0) 4 .rc true [1, 2, 3, 4]
/-- A store behind an earlier one at its place, beside one on an SO page, beside one in scratchpad, behind an acquire, a release behind a store, a store
behind a FENCE of writes, a release behind a store that another stream has shown its seat; a signal, a FENCE and a landed block behind a store; a
store on an RC and one on an SO page for the scope of its cluster. -/
theorem witness_AccessOrder :
    let a : Access := { pending with id := 3 }
    (∀ x z : Elem, (ordering [{ a with id := 1, elems := [z] }, { a with elems := [x] }]).acc.find? (fun u => u.id == 3) = some { a with elems := [x] }) ∧
    ((spElem 0x2000).loc.overlaps 4 (spElem 0x2003).loc 4 = true ∧ (spElem 0x2000).loc.overlaps 4 (spElem 0x2004).loc 4 = false ∧ (spElem 0x2004).ord = .sp ∧
      memElem.ord = .so ∧ (rcElem 0).ord ≠ .uo ∧ (rcElem 0).done = false ∧ (rcElem 0).seen = 0 ∧ a.inst = 0) ∧
    ({ a with acq := true, scope := .system } : Access).scope ≠ .stream ∧ (rcElem 0).at .seat = false ∧
    (let f : Access := { a with id := 2, kind := .fence 0xF, scope := .system, elems := [] }
     let s := ordering [{ a with id := 1, elems := [rcElem 0] }, f, { a with elems := [rcElem 64] }]
     f ∈ s.acc ∧ f.kind = .fence 0xF ∧ f.scope ≠ .stream ∧ (0xF : BitVec 4).getLsbD 3 = true ∧ (rcElem 0).write = true ∧ (rcElem 0).at f.scope = false) ∧
    (let z := { rcElem 0 with seen := 3 }
     let o : Access := { a with id := 1, job := 8, seat := 2, elems := [z] }
     o.job ≠ a.job ∧ o.showsTo a.core a.seat z = true ∧ z.at .system = false ∧ (rcElem 64).ord ≠ .uo) ∧
    (let g : Access := { a with kind := .sigset, elems := [] }
     (ordering [pending, g]).acc.find? (fun u => u.id == 3) = some g ∧ pending.job = g.job ∧ pending.id < g.id ∧ (spElem 0x2000).done = false ∧
       (ordering [pending, { g with kind := .fence 0xC, scope := .seat }]).acc.find? (fun u => u.id == 3) = some { g with kind := .fence 0xC, scope := .seat } ∧
       (spElem 0x2000).at .seat = false) ∧
    (let e : Elem := { rcElem 64 with done := true }
     let l : Access := { a with kind := .blockLoad (.av 0) .b8 false, elems := [e] }
     let s := { ordering [{ a with id := 1, elems := [rcElem 0] }, l] with cur := { ev := { idx := 3, quad := 1 } } }
     s.acc.find? (fun u => u.id == s.cur.ev.idx) = some l ∧ l.elems[s.cur.ev.quad]? = none ∧ l.elems.all (·.done) = true ∧
       (s.findJob 7).isSome = true) ∧
    (let s := { ordering [{ a with elems := [rcElem 0] }] with cur := { ev := { idx := 3, quad := 0, val := 3 } } }
     s.acc.find? (fun u => u.id == s.cur.ev.idx) = some { a with elems := [rcElem 0] } ∧ s.cur.ev.val.toNat = 3 ∧ (rcElem 0).poison = false ∧
       s.mustWait 5 1 7 .c 3 0 none false (rcElem 0) = false ∧ s.lineTaken 7 .c (rcElem 0).loc = false ∧ (rcElem 0).ord ≠ .so) := by
  refine ⟨fun _ _ => rfl, by decide +kernel, by decide, by decide, by decide +kernel, by decide +kernel, by decide +kernel, by decide +kernel, by decide +kernel⟩

/-! ## Units, queues, coordination -/

def gated : Bank := { bl 0x2000 0 0 0 with gates := [⟨1, 1, false⟩], cS := run }
theorem test_gate_moves_a_unit :
    after (exec (.gate (.l 0) (.l 1)) (stc .c gated owned)) (fun t => (t.core 5).mo == 12 && (t.bank 5 1).all (fun b => b.gates == [⟨0, 1, false⟩])) = true := by
  decide +kernel
theorem test_gate_without_an_entry :
    holds (exec (.gate (.l 0) (.l 1)) (stc .c { gated with gates := [] } owned)) (fun b => b.trap.cause == 0x12 && b.trap.addr == 0) = true := by
  decide +kernel
theorem test_spalloc :
    after (exec (.spalloc (.l 0) (.l 1)) (stc .c (bl 0x2000 0x202 0 0) owned)) (fun t =>
      (t.core 5).owner.find? 2 == some (2, 3) && (t.core 5).owner.find? 3 == some (2, 3) && (t.core 5).mo == 0 && !(t.core 5).valid.getLsbD 2048) = true := by
  decide +kernel
/-- Units 94 and 95, the last two, are free; a GATE of the one unit that the entry names, of an entry that does not exist, of an address that is
not aligned, and of a unit that is not owned. -/
theorem witness_ScratchpadOwnership :
    (let b := bl 0x5E000 2 0 0
     Ready (stc .c b owned) { lvl := .s, regs := [.l 0, .l 1] } b b ∧ (b.getC (.l 0)).toNat / 4096 + 2 = 96 ∧
     (∀ i, i < 2 → ((stc .c b owned).core 5).owner.find? (94 + i) = none) ∧ (stc .c b owned).acc = []) ∧
    (let s := stc .c gated owned
     Ready s { regs := [.l 0, .l 1] } gated gated ∧ gated.gates[0]? = some ⟨1, 1, false⟩ ∧ gated.gates.length ≤ 1 ∧ gated.cS.stage = .fresh ∧
     gated.cS.mo = false ∧ (s.core 5).owner.find? 2 = some (1, 3) ∧ (s.core 5).sealed 2 = false ∧ (s.core 5).mo.getLsbD 2 = false ∧
     s.gateBusy gated 2 1 s.nextId = false ∧ (s.core 5).owner.find? 4 = none ∧ (0x2004 : Word).toNat % 4096 ≠ 0) ∧
    (let b := { gated with cS := { run with stage := .posted 2 } }
     let s := { stc .c b owned with acc := [pending], nextId := 2 }
     Ready (stc .c b owned) { regs := [.l 0, .l 1] } b b ∧ b.cS.stage = .posted 2 ∧ b.gates[0]? = some ⟨1, 1, false⟩ ∧ s.gateBusy b 2 1 2 = true ∧
     (stc .c b owned).gateBusy b 2 1 2 = false) := by
  refine ⟨⟨ready_stc (fun _ => rfl) rfl nofun nofun nofun, by decide, ?_, rfl⟩,
    ⟨ready_stc (fun _ => rfl) rfl nofun nofun nofun, rfl, by decide, rfl, rfl, ?_, ?_, ?_, ?_, ?_, by decide⟩,
    ⟨ready_stc (fun _ => rfl) rfl nofun nofun nofun, rfl, rfl, by decide +kernel, by decide +kernel⟩⟩
  · intro i hi; obtain rfl | rfl : i = 0 ∨ i = 1 := by omega
    all_goals rfl
  all_goals decide +kernel

/-- A pending store with a FENCE of stores before loads behind it. -/
def fenced (e : Engine) (b : Bank) : State :=
  { st e b with acc := [{ pending with eng := e }, { pending with eng := e, id := 2, kind := .fence 4, scope := .system, elems := [] }], nextId := 3 }
theorem ready_fenced {e : Engine} {b : Bank} {p : Pre} (hl : p.lvl.le (b.level e) = true) (ho : p.mo = true → (b.ctl e).mo = true)
    (hs : p.ctl = true → e = .c → b.cS.ds = false) (hd : e = .m → p.seamOk = false → b.deferred = false) : Ready (fenced e b) p b b where
  live := rfl
  level := hl
  owner := ho
  slot := hs
  wait := by unfold State.doWait; exact ite_self _
  regs := by simp [State.regPending, State.pendingRegs, fenced, pending]
  order := hd
  clean := rfl
/-- A bank with one entry in a queue. -/
def withQ (q : Queue) (x : QEntry) : Bank := b0.setQueue q [x]
theorem test_queue_moves :
    holds (exec (.qput (.l 0) .ca0) (st .c (bl 9 0 0 0))) (fun b => b.queue .ca0 == [{ data := 9 }]) = true ∧
    holds (exec (.qget 1 .ca0) (st .a (withQ .ca0 { data := 9 }))) (fun b => b.getX 1 == 9 && b.queue .ca0 == []) = true ∧
    holds (exec (.qget 1 .ca0) (st .a (withQ .ca0 { data := 9, poison := true }))) (fun b =>
      b.getX 1 == 0 && b.queue .ca0 == [] && b.trap.cause == 0x11 && b.trap.npc == 0x110) = true ∧
    holds (exec (.qcnt (.c (.l 0)) .fq) (st .c { withQ .fq { data := 9 } with fqClosed := true })) (fun b => b.getC (.l 0) == 257) = true ∧
    holds (exec (.qcnt (.c (.l 0)) .mv0) (st .c b0)) (fun b => b.trap.cause == 0x10) = true := by decide +kernel
/-- Pushes and pops with all streams started and of one compartment; a pop across compartments; an empty queue and one with a poisoned head. -/
theorem witness_Queues :
    Ready (st .c b0) { regs := [.l 0] } b0 b0 ∧ PutForm (.qput (.l 0) .ca0) .ca0 [.l 0] (·.getC (.l 0)) ∧ MayUse b0 .c .ca0 true ∧
    (b0.queue .ca0).length < Queue.ca0.depth ∧ (st .c b0).releaseReady 7 .c .seat = true ∧ Engine.c ∉ Queue.mv0.pushers ∧
    Ready (st .a (withQ .ca0 { data := 9 })) {} (withQ .ca0 { data := 9 }) (withQ .ca0 { data := 9 }) ∧ MayUse (withQ .ca0 { data := 9 }) .a .ca0 false ∧
    (withQ .ca0 { data := 9 }).queue .ca0 = [{ data := 9 }] ∧ b0.queue .ca0 = [] ∧ MayUse (withQ .bq { data := 1 }) .a .bq false ∧
    GetForm (.qget 1 .ca0) .a .ca0 (.x 1) ∧ (st .a (withQ .ca0 { data := 9 })).acquireReady 7 .a = true ∧
    Ready (fenced .a (withQ .ca0 { data := 9 })) {} (withQ .ca0 { data := 9 }) (withQ .ca0 { data := 9 }) ∧
    (fenced .a (withQ .ca0 { data := 9 })).acquireReady 7 .a = false ∧
    (let b := { b0 with cS := { run with mo := true } }
     (∃ o ∈ Queue.ca0.pushers, b.jobStarted o = true) ∧ ∃ o ∈ Queue.ca0.pushers, o ≠ .a ∧ b.jobStarted o = true ∧ (b.ctl o).mo ≠ (b.ctl .a).mo) := by
  refine ⟨ready_st rfl nofun nofun nofun, .ca0 _, ?_, by decide, rfl, by decide, ready_st rfl nofun nofun nofun, ?_, rfl, rfl, ?_, .a 1,
    rfl, ready_fenced rfl nofun nofun nofun, by decide +kernel, ⟨.c, by decide, rfl⟩, ⟨.c, by decide, by decide, rfl, by decide⟩⟩ <;> (unfold MayUse; decide +kernel)

theorem test_signals :
    holds (exec (.sigset 63) (st .c b0)) (fun b => b.sg == 0x8000000000000000) = true ∧
    holds (exec (.sigwait 5) (st .c { b0 with sg := 0x21 })) (fun b => b.sg == 1 && b.cS.pc == 0x110) = true ∧
    after (exec (.sigwait 5) (st .c b0)) (fun t => t.cur.blocked) = true := by decide +kernel
/-- The small state with partition 1 made of cluster 0, a second bank of the same VF in seat 0 of core 6, and a signal on its way to it. -/
def two (b : Bank) (o : Bank) : State := { (st .c b).setBank 6 0 o with parts := [(1, { clusters := 1, valid := true })] }
def other : Bank := { b0 with job := 8 }
theorem ready_two {b o : Bank} {p : Pre} (hl : p.lvl.le (b.level .c) = true) (ho : p.mo = true → b.cS.mo = true)
    (hs : p.ctl = true → b.cS.ds = false) : Ready (two b o) p b b where
  live := rfl
  level := hl
  owner := ho
  slot := fun h _ => hs h
  wait := by unfold State.doWait; exact ite_self _
  regs := rfl
  order := nofun
  clean := rfl
def flight : SigFlight := ⟨3, 1, 7, 21, 24, 63, none, 0⟩
theorem witness_SignalInstructions :
    Ready (st .c b0) {} b0 b0 ∧ (st .c b0).acquireReady 7 .c = true ∧ Ready (fenced .c b0) { regs := [.l 0] } b0 b0 ∧ (fenced .c b0).acquireReady 7 .c = false ∧
    (st .c b0).streamBusy b0 .c = false ∧ (busy .c b0).streamBusy b0 .c = true ∧ (st .c b0).ownSetPending b0 .c 63 = false ∧
    b0.sg.getLsbD 63 = false ∧ ({ b0 with sg := 1 <<< 63 } : Bank).sg.getLsbD 63 = true ∧
    Ready (two (bl 24 21 0 0) other) { regs := [.l 0] } (bl 24 21 0 0) (bl 24 21 0 0) ∧ (two b0 other).coreInPart 6 1 = true ∧
    (two b0 other).releaseReady 7 .c .system = true ∧ 24 / 4 = 6 ∧ ¬ (21 / 4 = 5 ∧ 21 % 4 ≠ 1) ∧
    (let s := { two b0 other with sigs := [flight] }
     s.sigs[s.cur.ev.idx]? = some flight ∧ s.bank 6 0 = some other ∧ other.vf = flight.vf ∧ s.bank 6 1 = none) :=
  ⟨ready_st rfl nofun nofun nofun, rfl, ready_fenced rfl nofun nofun nofun, by decide +kernel, rfl, rfl, rfl, by decide, by decide, ready_two rfl nofun nofun, rfl, rfl, by decide, by decide, rfl, rfl, rfl, rfl⟩
def me : StreamId := ⟨7, .c, 0⟩
/-- Partition 1 with the groups given. -/
def grouped (gs : List Group) (b : Bank) : State := { st .c b with parts := [(1, { clusters := 1, valid := true, groups := gs })] }
theorem ready_grouped {gs : List Group} {b : Bank} {p : Pre} (hl : p.lvl.le (b.level .c) = true) (ho : p.mo = true → b.cS.mo = true)
    (hs : p.ctl = true → b.cS.ds = false) : Ready (grouped gs b) p b b where
  live := rfl
  level := hl
  owner := ho
  slot := fun h _ => hs h
  wait := by unfold State.doWait; exact ite_self _
  regs := rfl
  order := nofun
  clean := rfl
theorem test_barrier_of_two :
    after (exec (.gbar (.c (.l 0))) (grouped [{ id := 65535, members := [me, ⟨8, .c, 0⟩], required := [me, ⟨8, .c, 0⟩], arrived := [⟨8, .c, 0⟩] }] (bl 0xFFFF 0 0 0)))
      (fun t => ((t.part 1).group? 65535).map (fun g => (g.episode, g.arrived, g.released.length)) == some (1, [], 2)) = true := by decide +kernel
theorem witness_Groups :
    (∀ gs, Ready (grouped gs (bl 0xFFFF 0 0 0)) { regs := [.l 0] } (bl 0xFFFF 0 0 0) (bl 0xFFFF 0 0 0)) ∧
    (let p := (grouped [{ id := 65535, members := [me] }] b0).part 1
     p.group? 65535 = some { id := 65535, members := [me] } ∧ me ∈ [me] ∧ me ∉ ({ id := 65535, members := [me] } : Group).released) ∧
    (let p := (grouped [{ id := 1, members := [me] }, { id := 2, members := [me] }, { id := 3, members := [me] }, { id := 4, members := [me] }] b0).part 1
     p.group? 65535 = none ∧ (p.groups.filter (·.members.contains me)).length = 4) ∧
    (let p := (grouped [{ id := 1, members := [me] }, { id := 2, members := [me] }, { id := 3, members := [me] }] b0).part 1
     p.group? 65535 = none ∧ (p.groups.filter (·.members.contains me)).length = 3 ∧ p.joinWait = [] ∧ p.groups.length < 256) ∧
    (let b := { bl 0xFFFF 0 0 0 with cS := { run with stage := .second } }
     ∀ gs, Ready (grouped gs b) { regs := [.l 0] } b b ∧ b.cS.stage = .second) ∧ (grouped [] b0).releaseReady 7 .c .system = true ∧
    (∀ o, ({ id := 65535, members := [me], isOpen := o, released := [me] } : Group).isOpen = o ∧
      me ∈ ({ id := 65535, members := [me], isOpen := o, released := [me] } : Group).released) :=
  ⟨fun _ => ready_grouped rfl nofun nofun, by decide, by decide, by decide, fun _ => ⟨ready_grouped rfl nofun nofun, rfl⟩, rfl, fun _ => ⟨rfl, List.mem_singleton.mpr rfl⟩⟩
/-- RDV of a stream with nothing pending, and of M in a seam; SSTEP of a job that takes part, arriving and released, and of one that does not; a
job whose streams are all done, with an empty and with a loaded shadow. -/
def finished : Bank := { Bank.blank 7 3 1 with hring := ⟨0x1000, 16⟩ }
theorem witness_StreamsEnd :
    Ready (st .c b0) { ctl := true } b0 b0 ∧ (st .c b0).streamBusy b0 .c = false ∧ ((st .c b0).waited b0).requestsOf 5 b0 .c = false ∧
    (let b := { b0 with seam := some { id := 1, pc := 0x100 } }
     Ready (st .m b) { ctl := true } b b ∧ b.seam.isSome = true) ∧ b0.ssPart = false ∧
    (let b := { b0 with ssPart := true }
     Ready (st .c b) {} b b ∧ b.cS.stage ≠ .second ∧ (st .c b).releaseReady 7 .c .system = true) ∧
    (let b := { b0 with ssPart := true, cS := { run with stage := .second } }
     Ready (st .c b) {} b b ∧ b.cS.stage = .second ∧ 7 ∈ ({ ssReleased := [7] } : Partition).ssReleased) ∧
    (let s := st .c finished
     s.bank 5 1 = some finished ∧ s.mayRetire 5 1 finished = true ∧ ((s.core 5).seat 1).shadow = .empty) ∧
    (let s := (st .c finished).setShadow 5 1 (.loaded other)
     s.mayRetire 5 1 finished = true ∧ ((s.core 5).seat 1).shadow = .loaded other ∧ finished.steals = [] ∧ other.job ∉ (s.part 1).ssArrived) ∧
    (st .c b0).mayRetire 5 1 b0 = false :=
  ⟨ready_st rfl nofun (fun _ _ => rfl) nofun, rfl, rfl, ⟨ready_st rfl nofun nofun (fun _ _ => rfl), rfl⟩, rfl,
    ⟨ready_st rfl nofun nofun nofun, by decide, rfl⟩, ⟨ready_st rfl nofun nofun nofun, rfl, by decide⟩, ⟨rfl, rfl, rfl⟩, ⟨rfl, rfl, rfl, by decide⟩, rfl⟩
theorem test_job_retires : after (exec .jobRetire (st .c finished)) (fun t => (t.bank 5 1).isNone) = true := by decide +kernel

/-- The example of R126: a victim with RLO 100 and RHI 164 and a request of job 8. -/
def victim : Bank := { bl 0 8 0 0 with rlo := 100, rhi := 164, steals := [(8, false)] }
theorem test_rnext_serves_a_steal :
    after (exec (.rnext (.l 0) (.l 1)) (two victim other)) (fun t =>
      (t.bank 5 1).all (fun b => b.getC (.l 0) == 100 && b.rlo == 108 && b.rhi == 132) && (t.bank 6 0).all (fun b => b.cS.stage != .fresh)) = true := by
  decide +kernel
theorem witness_RangesTicksDeadlines :
    Ready (st .c victim) { regs := [.l 0, .l 1] } victim victim ∧ victim.steals = [(8, false)] ∧ victim.rlo.toNat + 2 ≤ victim.rhi.toNat ∧ b0.steals = [] ∧
    (let b := { victim with rhi := 101 }
     b.rhi.toNat < b.rlo.toNat + 2) ∧
    Ready (two (bl 24 21 0 0) other) { regs := [.l 0] } (bl 24 21 0 0) (bl 24 21 0 0) ∧ (two b0 other).bank 6 0 = some other ∧ other.vf = b0.vf ∧
    (b0.job, b0.handler) ∉ other.steals ∧ (two b0 other).bank 6 1 = none ∧ 24 / 4 / 16 = 5 / 16 ∧
    (let b := { b0 with cS := { run with stage := .answered 0 } }
     Ready (st .c b) { regs := [.l 0] } b b ∧ b.cS.stage = .answered 0) ∧ (b0.getC (.l 0)).toNat ≤ ((st .c b0).part 1).tickno ∧
    ((two b0 other).part 1).valid = true ∧ ((two b0 other).part 2).valid = false ∧
    (let b := { b0 with info := { deadTick := 1 } }
     let s : State := { st .c b with parts := [(1, { valid := true })] }
     s.allBanks = [(.live 5 1, b)] ∧ s.launches = [] ∧ b.info.deadTick ≠ 0 ∧ b.info.deadTick ≤ (s.part 1).tickno + 1) :=
  ⟨ready_st rfl nofun nofun nofun, rfl, by decide, rfl, by decide, ready_two rfl nofun nofun, rfl, rfl, by decide, rfl, by decide,
    ⟨ready_st rfl nofun nofun nofun, rfl⟩, by decide, rfl, rfl, rfl, rfl, by decide, by decide⟩
def tagged : Bank := { bl 0x8000000000000000 0 0 0 with tagbits := 0x8000000000000001, status := [(63, 11)] }
theorem test_tffr : holds (exec (.tffr (.c (.l 1)) (.c (.l 0))) (st .c tagged)) (fun b => b.getC (.l 1) == 11 * 256 + 64 + 63) = true := by decide +kernel
theorem witness_TagInstructions :
    Ready (st .c tagged) { regs := [.l 0] } tagged tagged ∧ Ready (st .c tagged) { regs := [.l 1, .l 0] } tagged tagged ∧ b0.getS (.c (.l 0)) = 0 ∧
    tagged.tagbits &&& tagged.getS (.c (.l 0)) ≠ 0 ∧ tagged.tagbits &&& tagged.getS (.c (.l 0)) = tagged.getS (.c (.l 0)) ∧
    (let b := { tagged with tagbits := 1 }
     b.tagbits &&& b.getS (.c (.l 0)) ≠ b.getS (.c (.l 0)) ∧ b.tagbits &&& b.getS (.c (.l 0)) = 0) ∧
    (tagged.tagbits &&& tagged.getS (.c (.l 0))).getLsbD (63 : Fin 64) = true ∧
    ∀ u : Fin 64, u < 63 → (tagged.tagbits &&& tagged.getS (.c (.l 0))).getLsbD u = false :=
  ⟨ready_st rfl nofun nofun nofun, ready_st rfl nofun nofun nofun, by decide, by decide, by decide, by decide, by decide, by decide⟩

/-- Partition 1 with a franking unit in the state given. -/
def franked (p : Partition) (b : Bank) : State := { st .c b with parts := [(1, p)], cur := { core := 5, seat := 1, eng := .c, ev := { part := 1 } } }
theorem ready_franked {q : Partition} {b : Bank} {p : Pre} (hl : p.lvl.le (b.level .c) = true) (ho : p.mo = true → b.cS.mo = true)
    (hs : p.ctl = true → b.cS.ds = false) : Ready (franked q b) p b b where
  live := rfl
  level := hl
  owner := ho
  slot := fun h _ => hs h
  wait := by unfold State.doWait; exact ite_self _
  regs := rfl
  order := nofun
  clean := rfl
/-- NEXT at its last value, which is live: the allocation wraps to 1. -/
theorem test_allocation_wraps :
    after (exec .pmAllocate (franked { pm := [(65535, .live 3)], pmNext := 65535, pmReqs := [(7, 3)] } b0)) (fun t =>
      (t.part 1).pm.find? 1 == some (.live 3) && (t.part 1).pmNext == 2 && (t.bank 5 1).all (fun b => b.cS.stage == .answered 1)) = true := by
  decide +kernel
theorem witness_Postmarks :
    (∀ q, Ready (franked q (bl 65535 65536 0 0)) { regs := [.l 0] } (bl 65535 65536 0 0) (bl 65535 65536 0 0)) ∧
    ((bl 65535 65536 0 0).getS (.c (.l 0))).toNat < 65536 ∧ 65536 ≤ ((bl 65535 65536 0 0).getS (.c (.l 1))).toNat ∧
    (let b := { b0 with cS := { run with stage := .answered 5 } }
     Ready (franked {} b) { regs := [.l 0] } b b ∧ b.cS.stage = .answered 5) ∧ (∀ v, b0.cS.stage ≠ .answered v) ∧
    ((({} : Partition).pmReqs.any (·.1 == 7)) = false) ∧
    (let p : Partition := { pm := [(65535, .live 3)], pmNext := 65535, pmReqs := [(7, 3)] }
     (franked p b0).part 1 = p ∧ p.live < p.pmtags ∧ (∀ k, k < 1 → p.isLive ((p.pmNext - 1 + k) % 65535 + 1) = true) ∧
       p.isLive ((p.pmNext - 1 + 1) % 65535 + 1) = false) ∧
    (let p : Partition := { pm := [(1, .live 3)], pmtags := 1, pmReqs := [(7, 3)] }
     p.pmtags ≤ p.live ∧ p.pmReqs ≠ []) :=
  ⟨fun _ => ready_franked rfl nofun nofun, by decide, by decide, ⟨ready_franked rfl nofun nofun, rfl⟩, nofun, rfl,
    ⟨rfl, by decide, fun k hk => by obtain rfl : k = 0 := by omega
                                    decide, by decide⟩, by decide⟩
def live1 : Partition := { pm := [(65535, .live 3)], poolLines := 4 }
theorem witness_PostmarkLines :
    Ready (franked live1 (bl 65535 0 0 0)) { regs := [.l 0] } (bl 65535 0 0 0) (bl 65535 0 0 0) ∧ live1.pm.find? 65535 = some (.live (bl 65535 0 0 0).vf) ∧
    (franked live1 b0).hasPending 7 .c = false ∧ (franked live1 b0).pmInFlight 1 65535 = false ∧ (∀ l ∈ (live1.retire 65535).returning, l.1 ≠ 65535) ∧
    live1.pm.find? 1 = none ∧
    (let p := { live1 with cells := [⟨65535, 0, 2, 0⟩] }
     ∃ l ∈ (p.retire 65535).returning, l.1 = 65535) ∧
    ({ live1 with returning := [(9, 2)] } : Partition).returning[0]? = some (9, 2) ∧
    (let w : PoolWait := ⟨1, 7, .c, 65535, 0, 0x40, 1, none⟩
     let s := franked { live1 with poolWait := [w] } b0
     ((s.part 1).poolWait[s.cur.ev.idx]? = some w ∧ s.findJob 7 = some (.live 5 1, b0)) ∧
       (s.part 1).stalled w = true ∧ w.lim ≠ 0 ∧ w.eng = .c ∧
       ({ live1 with poolWait := [w], cells := [⟨65535, 0, 2, 0⟩] } : Partition).stalled w = false ∧
       ({ b0 with handling := false } : Bank).canDivert = false ∧ b0.cS.trapped = false ∧ b0.stopped = false ∧ b0.frozen = none) :=
  ⟨ready_franked rfl nofun nofun, rfl, rfl, rfl, by decide, rfl, by decide, rfl, ⟨rfl, rfl⟩, rfl, by decide, rfl, by decide +kernel, rfl, rfl, rfl, rfl⟩

/-! ## Further clauses of the statements so far -/

/-- With ten windows resident: CALL that starts a spill, that meets a full spill area, and that waits; CALLR to the address after the ring; RET that
starts a fill, waits for one, and meets its error. -/
theorem witness_CallsAndReturns_held :
    (let b := { calls 9 with spillBase := 0x2000, spillLim := 0x2000 + 192 }
     Ready (st .c b) { ctl := true, regs := [] ++ windowRegs } b b ∧ 9 ≤ b.rsd ∧ b.spill = none ∧ b.spd < (b.spillLim - b.spillBase) / 192 ∧ b.depth ≠ 65535) ∧
    (let b := { calls 9 with spillBase := 0x2000, spillLim := 0x2000 + 192, spd := 1 }
     Ready (st .c b) { ctl := true, regs := [] ++ windowRegs } b b ∧ 9 ≤ b.rsd ∧ b.spill = none ∧ b.spd = (b.spillLim - b.spillBase) / 192) ∧
    (let b := { (calls 9).setC (.l 0) 0x138 with spill := some (.spill 0) }
     Ready (st .c b) { ctl := true, regs := [.l 0] ++ windowRegs } b b ∧ 9 ≤ b.rsd ∧ b.spill ≠ none ∧ (b.ring .c).holds (b.getC (.l 0)) = true) ∧
    (let b := bl 0x140 0 0 0
     Ready (st .c b) { ctl := true, regs := .l 0 :: windowRegs } b b ∧ (b.ring .c).holds (b.getC (.l 0)) = false) ∧
    (let b := { calls 0 with spd := 1 }
     (Ready (st .c b) { ctl := true, regs := windowRegs } b b ∧ b.older = [] ∧ b.depth ≠ 0 ∧ (b.ring .c).holds (b.getC (.p 7)) = true ∧ b.spill = none ∧
       b.fillTrap = none) ∧
     (Ready (st .c { b with spill := some .fill }) { ctl := true, regs := windowRegs } { b with spill := some .fill } { b with spill := some .fill }) ∧
     (Ready (st .c { b with fillTrap := some (0x11, 0x2000) }) { ctl := true, regs := windowRegs } { b with fillTrap := some (0x11, 0x2000) }
       { b with fillTrap := some (0x11, 0x2000) })) :=
  ⟨⟨ready_st rfl nofun (fun _ _ => rfl) nofun, by decide, rfl, by decide, by decide⟩,
    ⟨ready_st rfl nofun (fun _ _ => rfl) nofun, by decide, rfl, by decide⟩,
    ⟨ready_st rfl nofun (fun _ _ => rfl) nofun, by decide, nofun, by decide⟩, ⟨ready_st rfl nofun (fun _ _ => rfl) nofun, by decide⟩,
    ⟨ready_st rfl nofun (fun _ _ => rfl) nofun, rfl, by decide, by decide, rfl, rfl⟩, ready_st rfl nofun (fun _ _ => rfl) nofun,
    ready_st rfl nofun (fun _ _ => rfl) nofun⟩
/-- MTS of WINPTR while a window is filled; a stream outside the model-owner compartment. -/
theorem witness_SpecialWrites_wait :
    (let b := { b0 with spill := some .fill }
     Ready (st .c b) { lvl := .s, regs := [.l 0] } b b ∧ MtsForm (.mts .winptr (.l 0)) .winptr (.l 0) ∧ b.spill ≠ none) ∧
    (st .c b0).bank 5 1 = some b0 ∧ b0.unsettled .c = false ∧ (b0.ctl .c).mo = false :=
  ⟨⟨ready_st rfl nofun nofun nofun, .mts _ _, nofun⟩, rfl, rfl, rfl⟩
/-- A load of a part that is not valid, at UT = 1, and of a poisoned one; the same in the window; a store outside it. -/
theorem witness_AccessChecks_reads :
    let b := { bl 0x2FF8 0 0 0 with ut := true }
    let s := stc .c b fun c => { owned c with valid := 0 }
    let u := stc .c b fun c => { owned c with poison := 3 <<< (0x2FF8 / 4) }
    (Ready s { regs := [.l 0, .l 0] } b b ∧ (s.waited b).unitCond b (b.level .c) b.cS.mo 5 (some 1) 2 = .ok ∧ (s.waited b).firstStalled b .c = true ∧
      (s.waited b).requestFree 5 = true ∧ s.ownSpStore 7 .c 5 0x2FF8 8 = false ∧ ((s.waited b).core 5).readCond 0x2FF8 8 = .invalid 0x2FF8 ∧ b.ut = true) ∧
    (Ready u { regs := [.l 0, .l 0] } b b ∧ ((u.waited b).core 5).readCond 0x2FF8 8 = .poison) ∧
    ((s.waited b).unitCond b (b.level .c) b.cS.mo (5 / 16 * 16 + 5) none 2 = .ok ∧ (5 * 2 ^ 19 + 0x2FF8) / 2 ^ 19 % 16 = 5 ∧
      (5 * 2 ^ 19 + 0x2FF8) % 2 ^ 19 = 0x2FF8 ∧ 5 * 2 ^ 19 + 0x60000 < 2 ^ 23 ∧ 0x60000 ≤ (5 * 2 ^ 19 + 0x60000) % 2 ^ 19) := by
  refine ⟨⟨ready_stc (fun _ => rfl) rfl nofun nofun nofun, ?_, ?_, ?_, ?_, ?_, rfl⟩, ⟨ready_stc (fun _ => rfl) rfl nofun nofun nofun, ?_⟩, ?_, ?_, ?_, ?_, ?_⟩ <;>
    decide +kernel
/-- A store that another stream of the same job has shown its seat. -/
theorem witness_AccessOrder_seat :
    let z := { rcElem 0 with seen := 3 }
    let o : Access := { pending with id := 1, eng := .a, elems := [z] }
    (ordering [o]).acc = [o] ∧ ¬ (o.job = pending.job ∧ o.eng = pending.eng) ∧ o.showsTo pending.core pending.seat z = true ∧ z.at .system = false := by
  decide +kernel
/-- A full queue; a push behind a store that is not performed; poppers that are not started, and of the other compartment; pushers that are not
started; a pop of another engine's queue. -/
theorem witness_Queues_held :
    (let b := b0.setQueue .ca0 (List.replicate 16 { data := 9 })
     Ready (st .c b) { regs := [.l 0] } b b ∧ MayUse b .c .ca0 true ∧ Queue.ca0.depth ≤ (b.queue .ca0).length) ∧
    (Ready (busy .c b0) { regs := [.l 0] } b0 b0 ∧ ((busy .c b0).waited b0).releaseReady 7 .c .seat = false) ∧
    (let b := { b0 with aS := { run with started := false } }
     Ready (st .c b) { regs := [.l 0] } b b ∧ ∀ o ∈ Queue.ca0.poppers, b.jobStarted o = false) ∧ Engine.c ∉ (Queue.av 0).pushers ∧
    (let b := { b0 with cS := { run with mo := true } }
     Ready (st .c b) { regs := [.l 0] } b b ∧ Engine.c ∈ Queue.ca0.pushers ∧ (∃ o ∈ Queue.ca0.poppers, b.jobStarted o = true) ∧
       ∃ o ∈ Queue.ca0.poppers, o ≠ .c ∧ b.jobStarted o = true ∧ (b.ctl o).mo ≠ (b.ctl .c).mo) ∧
    (let b := { b0 with cS := { run with started := false } }
     Ready (st .a b) {} b b ∧ ∀ o ∈ Queue.ca0.pushers, b.jobStarted o = false) ∧
    (Ready (st .a b0) {} b0 b0 ∧ Queue.cv0 ≠ .ca0) ∧
    (let b := { b0 with fqClosed := true }
     Ready (st .c b) { regs := [.l 0] } b b ∧ b.fqClosed = true) := by
  refine ⟨⟨ready_st rfl nofun nofun nofun, ?_, by decide⟩, ⟨ready_busy rfl nofun nofun nofun, by decide +kernel⟩, ⟨ready_st rfl nofun nofun nofun, by decide⟩, by decide,
    ⟨ready_st rfl nofun nofun nofun, by decide, ⟨.a, by decide, rfl⟩, ⟨.a, by decide, by decide, rfl, by decide⟩⟩, ⟨ready_st rfl nofun nofun nofun, by decide⟩,
    ⟨ready_st rfl nofun nofun nofun, by decide⟩, ready_st rfl nofun nofun nofun, rfl⟩
  unfold MayUse; decide +kernel
/-- Banks of a partition that take part in its superstep: a live one, and one in a shadow; a FENCE that holds its release back. -/
theorem witness_StreamsEnd_superstep :
    (let b := { b0 with ssPart := true }
     let o := { other with ssPart := true }
     let s := (st .c b).setShadow 5 1 (.loaded o)
     s.allBanks = [(.live 5 1, b), (.shadow 5 1, o)] ∧ s.participants 1 = [7, 8]) ∧
    (let b := { b0 with ssPart := true, cS := { run with stage := .second } }
     Ready (st .c b) {} b b ∧ ((st .c b).waited b).acquireReady 7 .c = true ∧ ((fenced .c b).waited b).acquireReady 7 .c = false ∧
       7 ∉ ((st .c b).part 1).ssReleased) :=
  ⟨⟨by decide +kernel, by decide +kernel⟩, ready_st rfl nofun nofun nofun, rfl, by decide +kernel, by decide +kernel⟩

/-! ## Access stream, copies, vectors -/

def bx (v0 v1 : Word) : Bank := (b0.setX 0 v0).setX 1 v1
theorem test_loops :
    holds (exec (.xloop 0 (-1)) (st .a (bx 2 0))) (fun b => b.getX 0 == 1 && b.aS.pc == 0x100) = true ∧
    holds (exec (.xloop 0 (-1)) (st .a (bx 0 0))) (fun b => b.getX 0 == 0 && b.aS.pc == 0x110) = true ∧
    holds (exec (.sldi 3 (-1)) (st .v b0)) (fun b => b.getE 3 == 0xFFFFFFFFFFFFFFFF) = true := by decide +kernel
theorem witness_EngineScalars :
    Ready (st .a b0) {} b0 b0 ∧ ScalarOp (.xadd 0 1 2) (.x 0) (fun k => (k.getX 1).toNat + (k.getX 2).toNat) ∧
    HopForm (.xb (-1)) .a (-1 : BitVec 32).toInt none (fun _ => true) ∧ (st .a b0).cur.eng = .a :=
  ⟨ready_st rfl nofun nofun nofun, .xadd 0 1 2, .xb _, rfl⟩

def ald8 : AsArgs := ⟨.av 0, 0, 0, .b8, .normal, 1, .stream, false, false⟩
def streaming (k : AKind) (q : Queue) (prog : Nat) : AInst :=
  { kind := k, queue := q, base := 0x10000, aux := 0, size := .b8, count := 1, pm := 0, acq := false, rel := false, prog := prog, id := 1 }
def page (j : Nat) : Target := ⟨.mem 1 0 (0x20000 + 8 * j) (0x40000 + 8 * j) 0, .so⟩
theorem test_stream_reads_its_operands :
    holds (exec (.ald ald8) (st .a (bx 0x10000 0))) (fun b => b.ainst.map (fun a => (a.base, a.count, a.prog)) == some (0x10000, 1, 0)) = true ∧
    after (exec .streamBlockRequest (stm .a { bx 0 0 with ainst := some (streaming .ald (.av 0) 0) })) (fun t =>
      t.acc.map (fun a => (a.elems.length, (a.elems[31]?).map (·.loc))) == [(32, some (.mem 1 0 0x200F8 0x400F8 0))]) = true := by decide +kernel
/-- A block of 32 elements of the page; a load's, and a store's with an entry in va0. -/
theorem witness_Streaming :
    (let b := bx 0x10000 0
     Ready (st .a b) {} b b ∧ StreamForm .ald .ald ∧ StreamOk b .ald ald8 1 ∧ b.ainst = none) ∧
    (let b := { b0 with ainst := some (streaming .ald (.av 0) 1) }
     Ready (st .a b) {} b b ∧ b.ainst = some (streaming .ald (.av 0) 1) ∧ (streaming .ald (.av 0) 1).count ≤ (streaming .ald (.av 0) 1).prog) ∧
    StreamOk b0 .ald { ald8 with count := 0 } 0 := by
  refine ⟨⟨ready_st rfl nofun nofun nofun, .ald, ⟨(nofun : AKind.ald ∉ [AKind.ast, .asts, .astg]), ?_, by decide, by decide, nofun, by decide, nofun, nofun⟩, rfl⟩,
    ⟨ready_st rfl nofun nofun nofun, rfl, by decide⟩, ⟨(nofun : AKind.ald ∉ [AKind.ast, .asts, .astg]), ?_, by decide, by decide, nofun, by decide, nofun, nofun⟩⟩ <;>
  (unfold MayUse; decide)
theorem witness_Streaming_blocks :
    (let a := streaming .ald (.av 0) 0
     let b := { b0 with ainst := some a }
     let s := stm .a b
     s.bank 5 1 = some b ∧ b.mayRun .a = true ∧ a.prog < a.count ∧ b.aS.scrub = none ∧ s.blockRoom b (.av 0) = true ∧
       ((List.range 32).map page).length = 256 / a.size.bytes ∧ BlockSteps a b 5 0 s ((List.range 32).map page) s) ∧
    (let a := streaming .ast .va0 0
     let b := { (withQ .va0 { data := 9 }) with ainst := some a }
     let s := stm .a b
     b.queue .va0 = [{ data := 9 }] ∧ BlockSteps a b 5 0 s ((List.range 32).map page) s ∧ ∀ t ∈ (List.range 32).map page, s.needsLine t.loc = false) := by
  refine ⟨⟨rfl, rfl, by decide, rfl, rfl, rfl, ?_⟩, rfl, ?_, by decide⟩
  all_goals
    repeat (refine ⟨_, ⟨(rfl : State.checkVa _ _ _ _ _ _ = _), rfl, fun _ => rfl⟩, ?_⟩)
    rfl

/-- A fill of 16 bytes of scratchpad, and the request in the engine once it has ended with a status. -/
def filler : Bank := ((b0.setD 1 0x2000).setD 2 7).setD 3 0x4000000000000010
def fill : DcArgs := ⟨1, 2, 3, 63, false, false, .stream, 0⟩
def copied : CopyReq := { id := 4, job := 7, core := 5, seat := 1, vf := 3, part := 1, kind := .dfill, dst := 0x2000, src := 7, aux := 0, len := 0x4000000000000010,
                          tag := 63, acq := false, rel := false, scope := .stream, ep := 0, pm := 0, mo := false, lvl := .s, root := 0, ut := false,
                          stage := 2, status := some 11 }
def ended : State := { st .d b0 with copies := [copied], cur := { ev := { idx := 4 } } }
theorem test_fill_is_accepted :
    after (exec (.dfill fill) (stc .d { filler with tagbits := 1 <<< 63 } owned)) (fun t =>
      t.copies.map (fun r => (r.kind, r.dst, r.tag)) == [(.dfill, 0x2000, 63)] && (t.bank 5 1).all (fun b => b.tagbits == 0)) = true := by decide +kernel
theorem test_copy_completes :
    after (exec .copyComplete ended) (fun t =>
      t.copies.isEmpty && (t.bank 5 1).all (fun b => b.tagbits == 0x8000000000000000 && b.getStatus 63 == 11)) = true := by decide +kernel
theorem witness_Copies :
    (let s := stc .d filler owned
     Ready s {} filler filler ∧ CopyForm .dfill .dfill ∧ CopyAccepts (s.waited filler) filler .dfill fill ∧ (s.waited filler).tagBusy 7 63 = false ∧
     filler.dS.stage ≠ .checked ∧ CopyRoom (s.waited filler) filler .dfill fill) ∧
    (ended.copies.find? (·.id == ended.cur.ev.idx) = some copied ∧ copied.finished = true ∧ ended.tagReady copied = true ∧ ended.images = [] ∧ ended.bank 5 1 = some b0 ∧ b0.job = copied.job) := by
  refine ⟨⟨ready_stc (fun _ => rfl) rfl nofun nofun nofun, .dfill, ⟨by decide, by decide, by decide, by decide, by decide, by decide, ?_⟩, by decide +kernel,
    by decide, by decide +kernel, by decide +kernel, by decide +kernel, nofun⟩, rfl, rfl, rfl, rfl, rfl, rfl⟩
  refine .inr ⟨by decide, by decide, fun u _ h1 h2 => ?_⟩
  have h3 : 2 ≤ u := h1
  have h4 : 4096 * u < 0x2010 := h2
  obtain rfl : u = 2 := by omega
  exact ⟨by decide +kernel, by decide +kernel⟩
/-- Requests in progress on the core with owned units: `r` alone in the engine. -/
def going (r : CopyReq) : State := { stm .d b0 with cores := (stc .d b0 owned).cores, copies := [r], dram := [(0x40001, 9)] }
theorem copyActs {r : CopyReq} (h1 : r.finished = false) (h2 : r.status = none) (h3 : r.s2stall = none) (h4 : r.refused = none) (h5 : r.acq = false) :
    CopyActs (going r) r where
  found := by simp [going]
  going := h1
  status := h2
  answered := h3
  first := by rw [h4]; rfl
  order := by simp [State.copyBehind, going]
  acquire := by rw [h5]; nofun
/-- A fill of scratchpad, a fill of memory and a gather of one row in memory; copies from scratchpad and from memory; a compressed buffer with its frame
read, and a read of the block table. -/
def filling : CopyReq := { copied with stage := 1, status := none }
def fillMem : CopyReq := { filling with dst := 0x10000, len := 16 }
def gather : CopyReq := { filling with kind := .dgath, src := 0x10000, aux := 0x10040, len := 0x4000000800000001 }
theorem test_fill_reads_its_pattern : (((going filling).copyStep 4 0).copies.map (fun r => r.read.find? 0) == [some ([7, 0, 0, 0, 0, 0, 0, 0], false)]) = true := by decide +kernel
theorem test_fill_writes_memory :
    ((going { fillMem with read := [(8, ([1, 2, 3, 4, 5, 6, 7, 8], false))] }).copyStep 4 8).dram.readBytes 0x40008 8 = [1, 2, 3, 4, 5, 6, 7, 8] := by decide +kernel
theorem witness_CopyData :
    (CopyActs (going filling) filling ∧ filling.out.1 = 1 ∧ (1 : Nat) < filling.total ∧ filling.done.testBit 1 = false ∧ filling.partRead 1 = none ∧
      (0 : Nat) < (filling.partAt 1).2 ∧ filling.read.find? (8 * 1 + 0) = none ∧
      ∃ s1 r1 l p, (going filling).copySource filling (some (filling.unitOf 1)) 8 8 = .ok s1 r1 l p ∧ r1.out.1 ≠ 3) ∧
    (let r := { filling with kind := .dcopy, src := 0x2000, len := 0x5000000000000010, dst := 0x2100 }
     lenSsp r.len = 1 ∧ r.comp = none ∧ SpFine (going r) 5 0x2008 8) ∧
    (let r := { filling with kind := .dcopy, src := 0x10000, len := 0x4000000000000010 }
     lenSsp r.len = 0 ∧ ∃ t s1, (going r).checkVa r.ctx 0x10008 1 0 { write := false, writes := false, ringFill := r.ring, carry := true } = (.ok t, s1)) ∧
    (let r := { filling with kind := .dcopy, comp := some (1, 1, 0), exp := List.replicate 64 5 }
     r.comp = some (1, 1, 0) ∧ (0 : Nat) ≠ 3 ∧ 56 + 8 ≤ r.exp.length) ∧
    (let rb := gather.len.toNat / 2 ^ 32 % 2 ^ 15
     rb = 8 ∧ 0 % rb + 8 ≤ rb ∧ gather.idx.find? (0 / rb) = none ∧
       ∃ s1 l, (going gather).copyRead gather none 0 (gather.aux + BitVec.ofNat 64 (4 * (0 / rb))).toNat 4 = .ok s1 gather l false) ∧
    (let r := { gather with src := 0x2000, len := 0x5000000800000001, idx := [(0, 1)] }
     lenSsp r.len = 1 ∧ r.idx.find? 0 = some 1 ∧ (going r).findJob r.job = some (.live 5 1, b0) ∧
       (going r).rangeCond b0 r.lvl r.mo 5 (some 1) 0x2008 8 = .ok ∧ SpFine (going r) 5 0x2008 8) ∧
    (let r := { filling with read := [(8, ([1, 2, 3, 4, 5, 6, 7, 8], false))] }
     Inv (going r) ∧ CopyActs (going r) r ∧ r.byteWise 1 = false ∧ r.wr.find? 1 = none ∧ r.partRead 1 = some ([1, 2, 3, 4, 5, 6, 7, 8], false) ∧
       r.overlaps = false ∧ (r.partAt 1).2 = 8 ∧ r.out.1 = 1 ∧ r.out.2.1 + (r.partAt 1).1 = 0x2008 ∧ ((going r).core 5).scrubbing.getLsbD 2 = false) ∧
    (let r := { fillMem with read := [(8, ([1, 2, 3, 4, 5, 6, 7, 8], false))] }
     CopyActs (going r) r ∧ r.out.1 = 0 ∧ r.xl = [] ∧ (going r).isUnsealed 0x40008 = false ∧ (going r).lineTaken 7 .d (.mem 1 0 0x20008 0x40008 0) = false ∧
       ∃ ord s1, (going r).checkVa r.ctx 0x10008 1 0
         { write := true, writes := true, fullPage := r.pageWhole 0x10008, fullLine := (r.blockMask 0x10008 64).isSome } =
           (.ok { loc := .mem 1 0 0x20008 0x40008 0, ord := ord }, s1)) := by
  refine ⟨⟨copyActs rfl rfl rfl rfl rfl, by decide, by decide, by decide, rfl, by decide, rfl, _, _, _, _, rfl, by decide⟩, ⟨by decide, rfl, by decide, by decide, by decide, ?_, ?_⟩,
    ⟨by decide, _, _, rfl⟩, ⟨rfl, by decide, by decide⟩, ⟨by decide, by decide, rfl, _, _, rfl⟩, ⟨by decide, rfl, rfl, ?_, by decide, by decide, by decide, ?_, ?_⟩,
    ⟨⟨by decide +kernel, by decide +kernel, by decide +kernel, by unfold State.coresOnce; decide +kernel⟩, copyActs rfl rfl rfl rfl rfl, by decide, rfl, by decide +kernel, by decide +kernel, by decide, by decide, by decide, by decide +kernel⟩,
    copyActs rfl rfl rfl rfl rfl, by decide, rfl, by decide +kernel, by decide +kernel, _, _, rfl⟩ <;> decide +kernel

/-- A retirement with C's accesses performed, with one that is not, and under an access in flight; PMRETW whose line is on its way back; PMPOOL of a
write of A and of one of a copy. -/
theorem witness_PostmarkLines_engines :
    (let b := bl 65535 0 0 0
     let s := franked live1 b
     Ready s { regs := [.l 0] } b b ∧ (s.waited b).retireReady b .package = true ∧ s.pmInFlight 1 65535 = false ∧ live1.pm.find? 65535 = some (.live 3)) ∧
    (let a : Access := { pending with elems := [memElem] }
     a ∈ ({ franked live1 b0 with acc := [a] }).acc ∧ a.job = b0.job ∧ a.eng = .c ∧ memElem ∈ a.elems ∧ memElem.at .package = false ∧
       (({ franked live1 b0 with acc := [a] }).waited b0).retireReady b0 .package = false) ∧
    (let b := { bl 65535 0 0 0 with cS := { run with stage := .second } }
     let p : Partition := { live1 with returning := [(65535, 2)] }
     Ready (franked p b) { regs := [.l 0] } b b ∧ ∃ l ∈ p.returning, l.1 = 65535) ∧
    (let i := { streaming .ast .va0 0 with prog := 1 }
     let w : PoolWait := ⟨1, 7, .a, 65535, 0, 0x40, 1, none⟩
     let b := { b0 with ainst := some i }
     let s := franked { live1 with poolWait := [w] } b
     (s.part 1).poolWait[s.cur.ev.idx]? = some w ∧ w.lim ≠ 0 ∧ (s.part 1).stalled w = true ∧ w.eng = .a ∧ s.findJob w.job = some (.live 5 1, b) ∧
       b.aS.trapped = false ∧ b.stopped = false ∧ b.frozen = none ∧ b.ainst = some i) ∧
    (let w : PoolWait := ⟨1, 7, .d, 65535, 0, 0x10000, 1, none⟩
     let s := { franked { live1 with poolWait := [w] } b0 with copies := [copied, fillMem] }
     (s.part 1).poolWait[s.cur.ev.idx]? = some w ∧ (s.part 1).stalled w = true ∧ w.eng = .d ∧ s.copies = [copied] ++ fillMem :: [] ∧
       (copied.job = w.job ∧ copied.finished = true) ∧ fillMem.job = w.job ∧ fillMem.finished = false ∧ fillMem.out.1 = 0 ∧
       fillMem.out.2.1 ≤ w.va.toNat ∧ w.va.toNat < fillMem.out.2.1 + fillMem.out.2.2) := by
  refine ⟨⟨ready_franked rfl nofun nofun, rfl, rfl, rfl⟩, ⟨List.mem_singleton.mpr rfl, rfl, rfl, List.mem_singleton.mpr rfl, rfl, by decide +kernel⟩,
    ⟨ready_franked rfl nofun nofun, by decide⟩, ⟨rfl, by decide, by decide +kernel, rfl, rfl, rfl, rfl, rfl, rfl⟩,
    ⟨rfl, by decide +kernel, rfl, rfl, ⟨rfl, rfl⟩, rfl, rfl, by decide, by decide, by decide⟩⟩
/-- A block's request with its core free, and the pop of one that no FENCE holds back; a checked request whose tag is busy. -/
theorem witness_Streaming_room :
    (let b := { (withQ .va0 { data := 9 }) with ainst := some (streaming .ast .va0 0) }
     (stm .a b).requestFree 5 = true ∧ (stm .a b).acquireAt b.job .a 1 = true) ∧
    (let b := { filler with dS := { run with stage := .checked } }
     let s := { stc .d b owned with copies := [copied] }
     Ready (stc .d b owned) {} b b ∧ b.dS.stage = .checked ∧ ¬ CopyRoom (s.waited b) b .dfill fill) ∧
    (let s := { stc .d filler owned with copies := [copied] }
     filler.dS.stage ≠ .checked ∧ ¬ CopyRoom (s.waited filler) filler .dfill fill) := by
  refine ⟨⟨rfl, rfl⟩, ⟨ready_stc (fun _ => rfl) rfl nofun nofun nofun, rfl, fun h => ?_⟩, by decide, fun h => ?_⟩ <;> exact absurd h.tag (by decide +kernel)
/-- An index of a gather in the window that names another core of the cluster, and one that names no scratchpad. -/
theorem witness_CopyData_window :
    let r := { gather with src := 0x2000, len := 0x6000000800000001, idx := [(0, 0x10000), (1, 0x7FFFFFFF)] }
    lenSsp r.len = 2 ∧ r.len.toNat / 2 ^ 32 % 2 ^ 15 = 8 ∧ (0x2000 + 0x10000 * 8) / 2 ^ 19 % 16 = 1 ∧ 2 ^ 23 ≤ 0x2000 + 0x7FFFFFFF * 8 ∧
      (going r).requestFree r.core = true := by decide
/-- A ready instruction that reads a poisoned register; a word that had failed as it was fetched ahead. -/
theorem witness_PoisonedOperands :
    (let s := { st .c b0 with cur := { (st .c b0).cur with consumes := true } }
     Ready { s with cur := { s.cur with consumes := false } } { regs := [.l 0] } b0 b0 ∧ s.cur.consumes = true) ∧
    (let b := { b0 with cS := { run with failed := [0x108] } }
     (st .c b).bank 5 1 = some b ∧ (b.ctl .c).pc ∈ (b.ctl .c).failed ∧ b.mayRun .c = true ∧ b.unsettled .c = false) :=
  ⟨⟨ready_st rfl nofun nofun nofun, rfl⟩, rfl, by decide, rfl, rfl⟩

/-- Requests of the block-table store; partition 1 has 4 blocks at 0x80000, of which slot 3 has block 1. -/
def tabled (r : CopyReq) (n : Nat) : State :=
  { going r with parts := [(1, { clusters := 1, valid := true, btBase := 0x80000, btBlocks := 4, btMap := [(3, 1)], btCount := [(1, n)] })] }
theorem copyActs_tabled {r : CopyReq} {n : Nat} (h1 : r.finished = false) (h2 : r.status = none) (h3 : r.s2stall = none) (h4 : r.refused = none) (h5 : r.acq = false) :
    CopyActs (tabled r n) r where
  found := by simp [tabled, going]
  going := h1
  status := h2
  answered := h3
  first := by rw [h4]; rfl
  order := by simp [State.copyBehind, tabled, going]
  acquire := by rw [h5]; nofun
def storing (slot : Word) : CopyReq :=
  { filling with kind := .dbtw, src := 0x10000, dst := slot, len := 64, done := 255, read := (List.range 8).map fun i => (8 * i, (List.replicate 8 9, false)) }
def sharing : CopyReq := { filling with kind := .dbtsh, stage := 0, dst := 5, src := 3, len := 1 }
theorem test_shared_block_counts : (((tabled sharing 1).copyStep 4 0).part 1).btCount.get 1 0 = 2 := by decide +kernel
theorem witness_BlockTables :
    (∀ n, (let r := storing 3
      CopyActs (tabled r n) r ∧ r.allDone = true ∧ (∀ i, i < 8 → r.partRead i = some (List.replicate 8 9, false) ∧ (List.replicate 8 (9 : Byte)).length = 8) ∧ r.total = 8 ∧
      ((tabled r n).part 1).btMap.find? 3 = some 1)) ∧
    Inv (tabled (storing 3) 1) ∧ (tabled (storing 3) 1).blockCond 1 (0x80000 + 16384) 16384 0 = .ok ∧
    (((tabled (storing 3) 1).part 1).btCount.get 1 1 ≤ 1 ∧ 1 < ((tabled (storing 3) 2).part 1).btCount.get 1 1) ∧
    ((tabled (storing 9) 1).part 1).btMap.find? 9 = none ∧ ((tabled (storing 9) 1).part 1).freeBlock = some 0 ∧
    (let r := { filling with kind := .dbtr, stage := 0, src := 3, len := 64 }
     CopyActs (tabled r 1) r ∧ (tabled r 1).blockCond 1 (0x80000 + 16384 + 0) 64 0 = .ok) ∧
    (CopyActs (tabled sharing 1) sharing ∧ sharing.pos < 1 ∧ ((tabled sharing 1).part 1).btMap.find? (3 + sharing.pos) = some 1 ∧
      ((tabled sharing 1).part 1).btMap.find? (5 + sharing.pos) ∈ [none, some 1] ∧ ((tabled sharing 1).part 1).btCount.get 1 1 < 65535) ∧
    (let r := { filling with kind := .dbtfree, stage := 0, dst := 3, pos := 3, len := 1 }
     CopyActs (tabled r 1) r ∧ ((tabled r 1).part 1).btMap = (3, 1) :: []) := by
  refine ⟨fun n => ⟨copyActs_tabled rfl rfl rfl rfl rfl, by decide, by decide +kernel, by decide, rfl⟩,
    ⟨by decide +kernel, by decide +kernel, by decide +kernel, by unfold State.coresOnce; decide +kernel⟩, by decide +kernel, by decide +kernel, by decide +kernel, by decide +kernel,
    ⟨copyActs_tabled rfl rfl rfl rfl rfl, by decide +kernel⟩, ⟨copyActs_tabled rfl rfl rfl rfl rfl, by decide +kernel⟩, copyActs_tabled rfl rfl rfl rfl rfl, by decide +kernel⟩

/-- A superstep participant after its SSTEP; a receive that pairs with package 2, with data of its length and of another. -/
def receiver : CopyReq := { copied with kind := .dxfer, len := 0x24000000000010, stage := 0, status := none }
theorem witness_Transfers :
    (let b := { b0 with ssPart := true, t0 := some 5 }
     (st .c b).bank 5 1 = some b ∧ b.ssPart = true ∧ b.t0 = some 5) ∧
    receiver.pairsWith 1 3 2 = true ∧ receiver.peer = none ∧ lenRole receiver.len = 1 ∧ lenSlot receiver.len = 0 ∧ lenN receiver.len = 16 ∧
    receiver.pairsWith 1 4 2 = false := by
  refine ⟨⟨rfl, rfl, rfl⟩, ?_⟩; decide +kernel

/-- The bank with v1 and v2 set and a mask stack. -/
def bv (x y : Vec) (m : List Word) : Bank := { (b0.setV 1 x).setV 2 y with mask := m }
def modI8 : VMod := ⟨.i8, .rne, false, false, true, false⟩
theorem test_vadd_saturates :
    holds (exec (.vadd 0 1 2 modI8) (st .v (bv 0x7F 0x02 []))) (fun b => elem (b.getV 0) 8 0 == 0x7F && elem (b.getV 0) 8 1 == 0) = true := by
  decide +kernel
theorem test_masked_move :
    holds (exec (.vand 1 2 2 true) (st .v (bv (5 + 7 * 2 ^ 32) (9 + 3 * 2 ^ 32) [2]))) (fun b => elem (b.getV 1) 32 0 == 5 && elem (b.getV 1) 32 1 == 3) = true := by
  decide +kernel
theorem test_vunpk3 :
    holds (exec (.vunpk3 0 1 false) (st .v (bv 5 0 []))) (fun b => (List.range 5).map (elem (b.getV 0) 8) == [255, 1, 0, 0, 0]) = true := by decide +kernel
theorem witness_VectorArithmetic :
    Ready (st .v b0) {} b0 b0 ∧ (∃ f, LaneOp (.vadd 0 1 2 modI8) 0 8 false f) ∧ 8 ∈ [8, 16, 32] ∧ Active b0 false 8 255 ∧ Active (bv 0 0 [1]) true 8 3 ∧
    ¬ Active (bv 0 0 [1]) true 8 4 ∧ modI8.type ∈ [Fmt.i8, .n8, .i16, .n16, .i32] :=
  ⟨ready_st rfl nofun nofun nofun, ⟨_, .vadd 0 1 2 modI8⟩, by decide, nofun, fun _ => (rfl : (1 : Word).getLsbD 0 = true), fun h => absurd (h rfl) (by show ¬ (1 : Word).getLsbD 1 = true; decide), by decide⟩
/-- A mask stack of 15 entries, one that is full and an empty one; the last element of a register and the one after it; byte codes 242 and 243;
entries in queues. -/
theorem witness_VectorMaskStack :
    (let b := bv 0 0 (List.replicate 15 1)
     Ready (st .v b) {} b b ∧ b.mask.length < 16 ∧ b.mask = 1 :: List.replicate 14 1) ∧
    (let b := bv 0 0 (List.replicate 16 1)
     Ready (st .v b) {} b b ∧ 16 ≤ b.mask.length) ∧ b0.mask = [] ∧ Fmt.fp32.width ∈ [8, 16, 32] ∧
    (255 : BitVec 24).toNat < 2048 / Fmt.i8.width ∧ 2048 / Fmt.i8.width ≤ (256 : BitVec 24).toNat ∧
    elem ((bv 242 0 []).getV 1) 8 0 < 243 ∧ 243 ≤ elem ((bv 243 0 []).getV 1) 8 0 ∧ ({ bv 243 0 [] with vtrapIbc := true } : Bank).vtrapIbc = true ∧
    (let b := withQ (.av 0) { data := 9 }
     Ready (st .v b) {} b b ∧ MayUse b .v (.av 0) false ∧ b.queue (.av 0) = [{ data := 9 }]) ∧
    (let b := withQ .cv0 { data := 9 }
     Ready (st .v b) {} b b ∧ MayUse b .v .cv0 false ∧ b.queue .cv0 = [{ data := 9 }]) ∧
    MayUse b0 .v .va0 true ∧ (b0.queue .va0).length < 8 ∧ (st .v b0).releaseReady 7 .v .seat = true := by
  refine ⟨⟨ready_st rfl nofun nofun nofun, by decide, rfl⟩, ⟨ready_st rfl nofun nofun nofun, by decide⟩, rfl, by decide, by decide, by decide, by decide +kernel,
    by decide +kernel, rfl, ⟨ready_st rfl nofun nofun nofun, ?_, rfl⟩, ⟨ready_st rfl nofun nofun nofun, ?_, rfl⟩, ?_, by decide, rfl⟩ <;>
  (unfold MayUse; decide +kernel)
theorem test_vredadd : holds (exec (.vredadd 0 1 { modI8 with m := true }) (st .v (bv 0xFF05 0 [1]))) (fun b => b.getE 0 == 4) = true := by decide +kernel
theorem witness_Reductions :
    Ready (st .v b0) {} b0 b0 ∧ modI8.type.isVInt = true ∧ modI8.type.width ∈ [8, 16, 32] ∧
    ((List.range 256).filter fun i => (bv 0 0 [0]).active true 8 i) = [] ∧ ((List.range 256).filter fun i => b0.active true 8 i) ≠ [] ∧
    Fmt.fp32.isVInt = false := ⟨ready_st rfl nofun nofun nofun, by decide +kernel⟩

/-! ## Matrix engine -/

/-- Format words: I8 operands and an FP32 result; the same with a block format for B. -/
def fwI : Word := 0x36D6
def fwB : Word := 0x3456
/-- The core with units 2 to 7 owned by seat 1 for VF 3, valid but for the first part of unit 7, tokens, and a table of row pointers at 0x3000:
0x2000, and seven null ones. -/
def wide (c : Core) : Core :=
  { c with owner := (List.range 6).map fun i => (i + 2, (1, 3)), valid := BitVec.ofNat 98304 ((2 ^ 6144 - 1) * 2 ^ 2048 - 2 ^ 7168), tokens := 1000
           sp := [(0x2000, 3), (0x3001, 0x20)] ++ (List.range 7).map fun i => (0x300F + 8 * i, 0x80) }
/-- A region of 64 KiB at the base of the core's weight slice for VF 3, with rows of it. -/
def slice5 (rows : Table PhysRow) : Slice := { phys := rows, regions := [(0, { base := 0, len := 65536, vf := 3 })] }
/-- An instruction of engine `e` with all of that; M's format word `w` stands in fq, its registers h1 and h2 hold a weight and a scratchpad address. -/
def stw (e : Engine) (b : Bank) (rows : Table PhysRow) : State := { stc e b wide with tier := [(5, slice5 rows)] }
def mb (w : Word) : Bank := ((b0.setQueue .fq [{ data := w.setWidth 2048 }]).setH 1 0x28000000).setH 2 0x2000
theorem ready_stw {e : Engine} {b : Bank} {p : Pre} {rows : Table PhysRow} (hl : p.lvl.le (b.level e) = true) (ho : p.mo = true → (b.ctl e).mo = true)
    (hs : p.ctl = true → e = .c → b.cS.ds = false) (hd : e = .m → p.seamOk = false → b.deferred = false) : Ready (stw e b rows) p b b where
  live := rfl
  level := hl
  owner := ho
  slot := hs
  wait := by unfold State.doWait; exact ite_self _
  regs := rfl
  order := hd
  clean := rfl

/-- The conditions of the statements that range over units and parts, as tests. -/
theorem mfine {s : State} {b : Bank} {addr : Word} {n align : Nat}
    (h : (decide (addr.toNat < 2 ^ 19 ∧ addr.toNat + n ≤ 0x60000 ∧ addr.toNat % align = 0) && (List.range 96).all fun u =>
      !decide (addr.toNat / 4096 ≤ u ∧ 4096 * u < addr.toNat + n) || decide (s.unitCond b (b.level .m) b.mS.mo s.cur.core (some s.cur.seat) u ≠ .illegal ∧
        s.unitCond b (b.level .m) b.mS.mo s.cur.core (some s.cur.seat) u ≠ .gate)) = true) : MFine s b addr n align := by
  simp only [Bool.and_eq_true, decide_eq_true_eq, List.all_eq_true, List.mem_range, Bool.or_eq_true, Bool.not_eq_true', decide_eq_false_iff_not] at h
  exact ⟨h.1.1, h.1.2.1, h.1.2.2, fun u h1 h2 => (h.2 u (by omega)).resolve_left fun k => k ⟨h1, h2⟩⟩
theorem mreads {s : State} {b : Bank} {a n : Nat} {w : Option Nat} (hm : b.mbuf = []) (hc : b.mS.scrub = none)
    (h : ((List.range 96).all (fun u => !(s.core s.cur.core).scrubbing.getLsbD u) && decide (a + n ≤ 0x60000 ∧ firstPart (s.core s.cur.core).poison true a n = none ∧
      w = firstPart (s.core s.cur.core).valid false a n ∧ (b.ut = true → w = none))) = true) : MReads s b a n (leNat (s.readLoc (.sp s.cur.core a) n)) w := by
  simp only [Bool.and_eq_true, decide_eq_true_eq, List.all_eq_true, List.mem_range, Bool.not_eq_true'] at h
  exact ⟨hm, by simp [hc], fun u h1 h2 => h.1 u (by omega), h.2.2.1, h.2.2.2.1, h.2.2.2.2, rfl⟩
theorem wfine {s : State} {a : Word} {n align : Nat} {rows : Table PhysRow} (hs : s.slice 5 = slice5 rows) (hk : (s.key 0).isSome = true)
    (h1 : a.toNat < 2 ^ 38) (h2 : a.toNat / 2 ^ 27 = 5) (h3 : a.toNat % 2 ^ 27 + n ≤ 65536) (h4 : a.toNat % align = 0) (h5 : a.toNat % 2 ^ 27 < 65536) :
    WFine s 5 3 a n align :=
  ⟨h1, h2, by omega, h4, fun o _ ho => ⟨0, { base := 0, len := 65536, vf := 3 }, by
    rw [hs, Slice.region?]; simp only [slice5, List.find?]
    rw [show (decide (0 ≤ o) && decide (o < 0 + 65536)) = true by simp; omega], rfl, hk⟩⟩

theorem hasWord_mb {s : State} {w : Word} {f : FmtWord} (h : fmtWord w = some f) (hw : w = (w.setWidth 2048).setWidth 64)
    (ha : s.acquireReady 7 .m = true) : HasWord s (mb w) w f [] :=
  ⟨rfl, ha, by unfold MayUse; exact ⟨by decide, ⟨.c, by decide, rfl⟩, by intro o _ _ _; cases o <;> rfl⟩, ⟨_, rfl, rfl, hw⟩, h⟩
def fI : FmtWord := ⟨0, 0, 0, false, false, false, false, .rne, .fp32, .i8, .i8⟩
def fB : FmtWord := { fI with bf := .t6e0b }
def fN : FmtWord := { fI with af := .bin }
theorem fmt_fwI : fmtWord fwI = some fI := by decide
theorem fmt_fwB : fmtWord fwB = some fB := by decide

def slotI : Slot := ⟨true, 0x28000000, none, .i8, 0, 1, 0, .ok⟩
def reqI : LoadReq := { id := 4, fromWeight := true, addr := 0x28000000, scaleAddr := none, fmt := .i8, bsc := 0, k := 2 }
theorem test_mldw_joins_the_queue :
    holds (exec (.mldw 1 0 2) (stw .m (mb fwI) [])) (fun b => b.reqs.map (fun q => (q.addr, q.k, q.fmt)) == [(0x28000000, 2, .i8)] && b.queue .fq == [] && b.mS.pc == 0x110) = true ∧
    holds (exec (.mldw 2 0 2) (stw .m (mb fwI) [])) (fun b => b.reqs == [] && b.trap.cause == 0x01 && b.trap.addr == 0x2000) = true := by decide +kernel
/-- A load of one plain block, of one block with scales and of none; a request and a slot to be filled again; a fill from each memory that ends. -/
theorem witness_StationaryBlocks :
    (let s := stw .m (mb fwI) []
     Ready s {} (mb fwI) (mb fwI) ∧ HasWord s (mb fwI) fwI fI [] ∧ fI.bf.isBlock = false ∧ (mb fwI).reqs.length < 8 ∧
     WFine (s.waited ((mb fwI).holding fwI [])) 5 3 ((mb fwI).getH 1) (1 * fI.bf.blockBytes) 64 ∧
     WFine (s.waited ((mb fwI).holding fwI [])) 5 3 ((mb fwI).getH 1) (0 * fI.bf.blockBytes) 64 ∧
     MFine (s.waited ((mb fwI).holding fwI [])) ((mb fwI).holding fwI []) ((mb fwI).getH 2) (1 * fI.bf.blockBytes) 64) ∧
    (let s := stw .m (mb fwB) []
     Ready s {} (mb fwB) (mb fwB) ∧ HasWord s (mb fwB) fwB fB [] ∧ fB.bf.isBlock = true ∧
     WFine (s.waited ((mb fwB).holding fwB [])) 5 3 ((mb fwB).getH 1) (1 * fB.bf.blockBytes) 64 ∧
     MFine (s.waited ((mb fwB).holding fwB [])) ((mb fwB).holding fwB []) ((mb fwB).getH 2) (1 * fB.bf.blockBytes) 64 ∧
     MFine (s.waited ((mb fwB).holding fwB [])) ((mb fwB).holding fwB []) ((mb fwB).getH 2) (128 * 1) 2) ∧
    (∀ i, i < 1 → WFine ((stw .m b0 []).waited b0) 5 3 (0x28000000 + BitVec.ofNat 64 (4096 * i)) 4096 1) ∧
    (let b := { b0 with mwpf := [(0x28000000, 2)] }
     let s := stw .m b []
     s.bank 5 1 = some b ∧ WFine s 5 b.vf 0x28000000 4096 1 ∧ 2 ≤ (s.core 5).tokens) := by
  refine ⟨⟨ready_stw rfl nofun nofun (fun _ _ => rfl), hasWord_mb fmt_fwI (by decide +kernel) rfl, by decide, by decide, ?_, ?_, mfine (by decide +kernel)⟩,
    ⟨ready_stw rfl nofun nofun (fun _ _ => rfl), hasWord_mb fmt_fwB (by decide +kernel) rfl, by decide, ?_, mfine (by decide +kernel), mfine (by decide +kernel)⟩,
    fun i hi => (show i = 0 by omega) ▸ ?_, rfl, ?_, by decide⟩
  all_goals exact wfine rfl (by decide +kernel) (by decide +kernel) (by decide +kernel) (by decide +kernel) (by decide +kernel) (by decide +kernel)
theorem witness_StationaryBlocks_fills :
    (let b := { b0 with reqs := [reqI] }
     let s := stw .m b []
     b.stopped = false ∧ b.frozen = none ∧ (∀ x ∈ b.slots, x.mark ≠ .filling) ∧ (∀ x ∈ b.slots, x.mark ≠ .refill) ∧ (∀ q ∈ b.reqs, q.filling = false) ∧ b.slots.length < 4 ∧
       ∃ s1, Pays s (b.column 5) ⟨5, 7, 2⟩ (Nat.max 1 ((reqI.fmt.blockBytes + 2047) / 2048)) s1) ∧
    (let b := { b0 with slots := [slotI, { slotI with mark := .refill }] }
     (∀ x ∈ b.slots, x.mark ≠ .filling) ∧ (∀ o ∈ [slotI], o.mark ≠ .refill) ∧ ∃ s1, Pays (stw .m b []) (b.column 5) ⟨5, 7, 2⟩ (Nat.max 1 ((slotI.fmt.blockBytes + 2047) / 2048)) s1) ∧
    (let q := { reqI with fromWeight := false, addr := 0x2000, fmt := .bin, filling := true }
     let b := { b0 with reqs := [q] }
     let s := stw .m b []
     q.filling = true ∧ (∀ x ∈ b.slots, x.mark ≠ .filling) ∧ q.sig = none ∧ q.pre.find? q.filled = none ∧ q.scaleAddr = none ∧ s.mOrder b q.id = false ∧ ∃ v, MReads s b 0x2000 q.fmt.blockBytes v none) := by
  refine ⟨⟨rfl, rfl, by decide, by decide, by decide, by decide, _, by decide +kernel, by decide, .inl (by decide), rfl⟩,
    ⟨by decide, by decide, _, by decide +kernel, by decide, .inl (by decide), rfl⟩, rfl, by decide, rfl, rfl, rfl, rfl, _, mreads rfl rfl (by decide +kernel)⟩

/-- The bank at a product: the word `w` in fq, slot blocks promised, more products. -/
def mp (w : Word) (slots : List Slot) (prods : List Product) : Bank := { mb w with slots := slots, prods := prods, h := (mb w).h.set 3 0x3000 }
def prodI : Product := { id := 4, op := .mma, pc := 0x108, z := 1, src := .sp 0x2000, scaleAddr := none, k := 1, fw := fwI }
theorem hasWord_mp {s : State} {w : Word} {f : FmtWord} {l : List Slot} {ps : List Product} (h : fmtWord w = some f)
    (hw : w = (w.setWidth 2048).setWidth 64) (ha : s.acquireReady 7 .m = true) : HasWord s (mp w l ps) w f [] :=
  ⟨rfl, ha, by unfold MayUse; exact ⟨by decide, ⟨.c, by decide, rfl⟩, by intro o _ _ _; cases o <;> rfl⟩, ⟨_, rfl, rfl, hw⟩, h⟩
theorem test_mma_needs_its_blocks :
    holds (exec (.mma 1 (.h 2) 0 1 false) (stw .m (mp fwI [slotI] []) [])) (fun b => b.prods.map (fun p => (p.op, p.k, p.src)) == [(.mma, 1, .sp 0x2000)] && b.mS.pc == 0x108) = true ∧
    holds (exec (.mma 1 (.h 2) 0 1 false) (stw .m (mp fwI [] []) [])) (fun b => b.prods == [] && b.trap.cause == 0x01 && b.trap.addr == 0) = true := by decide +kernel
theorem test_mmag_reads_its_table :
    holds (exec (.mmag 1 (.h 2) 3 1 false) (stw .m (mp fwI [] []) [])) (fun b =>
      b.prods.map (fun p => p.ptrs.map (·.take 2)) == [some [0x2000, 0x8000000000000000]]) = true := by decide +kernel
/-- Exactly as many blocks as asked for, and one fewer; a row table; a product whose k-steps have all started. -/
theorem witness_MatrixProducts :
    (let y := mp fwI [slotI] []
     let s := stw .m y []
     let z := y.holding fwI []
     Ready s {} y y ∧ y.current = none ∧ HasWord s y fwI fI [] ∧ MFine (s.waited z) z (y.getH 2) (1 * fI.af.blockBytes) 64 ∧ MayUse b0 .m (.am 0) false ∧
     fI.af.isBlock = false ∧ (1 : Fin 64).val ≤ y.promised ∧
     MFine (s.waited z) z (y.getH 3) 64 64 ∧ (s.waited z).mPending 7 s.nextId = false ∧ y.prods = [] ∧
     (s.waited z).readAhead z s.nextId = some (s.waited z, z) ∧
     ∃ v, MReads (s.waited z) z (y.getH 3).toNat 64 v none ∧ (∀ g : Fin 8, let p : Word := BitVec.ofNat 64 (v / 2 ^ (64 * g.val))
       p.toNat / 2 ^ 19 % 2 ^ 44 = 0 ∧ (p.getLsbD 63 = false → MFine (s.waited z) z p (1 * fI.bf.blockBytes) 64))) ∧
    (mp fwI [] []).promised < (1 : Fin 64).val ∧
    (let p := { prodI with started := 1 }
     (mp fwI [] [p]).current = some p ∧ p.allStarted = true) := by
  refine ⟨⟨ready_stw rfl nofun nofun (fun _ _ => rfl), rfl, hasWord_mp fmt_fwI (by decide +kernel) rfl, mfine (by decide +kernel), ?_, by decide, by decide +kernel,
    mfine (by decide +kernel), rfl, rfl, rfl, _, mreads rfl rfl (by decide +kernel), fun g => ⟨?_, fun hg => ?_⟩⟩,
    by decide, rfl, by decide⟩
  · unfold MayUse; exact ⟨by decide, ⟨.a, by decide, rfl⟩, by intro o _ _ _; cases o <;> rfl⟩
  · revert g; decide +kernel
  · obtain rfl : g = 0 := by revert g; decide +kernel
    exact mfine (by decide +kernel)
/-- An open seam that may be relocated and has cleared tile 1, and one that may not. -/
def seam1 : Seam := { id := 2, pc := 0x100, issued := 1, zeroed := 2 }
def ms (m : Seam) : Bank := { mp fwI [slotI] [] with seam := some m }
theorem hasWord_ms {s : State} {m : Seam} (ha : s.acquireReady 7 .m = true) : HasWord s (ms m) fwI fI [] :=
  ⟨rfl, ha, by unfold MayUse; exact ⟨by decide, ⟨.c, by decide, rfl⟩, by intro o _ _ _; cases o <;> rfl⟩, ⟨_, rfl, rfl, by decide +kernel⟩, fmt_fwI⟩
theorem witness_MatrixProducts_seam :
    (let y := ms seam1
     let s := stw .m y []
     let z := y.holding fwI []
     Ready s { seamOk := true } y y ∧ y.seam = some seam1 ∧ seam1.fits = true ∧ seam1.count = seam1.issued ∧ y.current = none ∧ HasWord s y fwI fI [] ∧
     seam1.zeroed.getLsbD 1 = true ∧ seam1.tiles < 16 ∧ MFine (s.waited z) z (y.getH 2) (1 * fI.af.blockBytes) 64 ∧ (1 : Fin 64).val ≤ y.promised ∧
     MFine (s.waited z) z (y.getH 2) fI.out.blockBytes 64) ∧
    (Ready (stw .m b0 []) { seamOk := true } b0 b0 ∧ b0.seam = none ∧ ∀ p ∈ b0.prods, p.passed = false) :=
  ⟨⟨ready_stw rfl nofun nofun nofun, rfl, rfl, rfl, rfl, hasWord_ms rfl, by decide, by decide, mfine (by decide +kernel), by decide +kernel, mfine (by decide +kernel)⟩,
    ready_stw rfl nofun nofun nofun, rfl, nofun⟩

/-- A product with one k-step to start, one of two that has started, one whose A block begins with a poisoned part. -/
theorem witness_KStepsOfProducts :
    (let b := { b0 with prods := [prodI], slots := [slotI] }
     let s := stw .m b []
     s.bank 5 1 = some b ∧ b.mRuns = true ∧ fmtWord prodI.fw = some fI ∧ prodI.started.testBit 0 = false ∧ mayStep [] prodI 0 = true ∧
     b.slots[slotIndex [] prodI 0]? = some slotI ∧ pairBad fI slotI = false ∧ (∃ s1, Pays s (b.column 5) ⟨5, 7, 1⟩ (kstepTokens fI.af slotI.fmt) s1) ∧
     ∀ cost ∈ [1, 2], ∃ s1, Pays s (b.column 5) ⟨5, 7, 1⟩ cost s1) ∧
    (let p := { prodI with fw := 0x36D0, k := 2, started := 3, applied := 1 }
     let b := { b0 with prods := [p], slots := [slotI] }
     fmtWord 0x36D0 = some fN ∧
     let s := { stw .m b [] with cur := { core := 5, seat := 1, eng := .m, ev := { idx := 0, quad := 1 } } }
     p.started.testBit 1 = true ∧ p.applied.testBit 1 = false ∧ mayStep [] p 1 = true ∧ s.mPending 7 p.id = false ∧ s.readAhead b p.id = some (s, b) ∧ b.slots[slotIndex [] p 1]? = some slotI ∧
     .tile p.z ∉ b.bad ∧ p.sig = none ∧ p.scaleAddr = none ∧ p.src = .sp 0x2000 ∧
     ∃ v, MReads s b (0x2000 + 1 * fN.af.blockBytes) fN.af.blockBytes v none) ∧
    (let p := { prodI with started := 1 }
     ∀ l ∈ [[], [BadElem.tile 1]], let b := { b0 with prods := [p], slots := [slotI], bad := l, ut := true }
     let s := stc .m b fun c => { wide c with valid := 0, poison := 1 <<< 0x800 }
     s.bank 5 1 = some b ∧ b.mRuns = true ∧ b.prods = [] ++ p :: [] ∧ s.cur.ev.idx = 0 ∧ s.cur.ev.quad = 0 ∧ p.started.testBit 0 = true ∧
     p.applied.testBit 0 = false ∧ mayStep [] p 0 = true ∧ s.mPending b.job p.id = false ∧ (l = [] → .tile p.z ∉ b.bad) ∧ (l ≠ [] → .tile p.z ∈ b.bad) ∧
     s.readAhead b p.id = some (s, b) ∧ b.mbuf = [] ∧ b.mS.scrub = none ∧ (∀ u, u < 96 → (s.core 5).scrubbing.getLsbD u = false) ∧
     firstPart (s.core 5).poison true (0x2000 + 0 * fI.af.blockBytes) fI.af.blockBytes = some 0x2000) ∧
    firstPart (0 : BitVec 98304) true (0x2000 + 0 * fI.af.blockBytes) fI.af.blockBytes = none ∧
    firstPart (0 : BitVec 98304) false (0x2000 + 0 * fI.af.blockBytes) fI.af.blockBytes = some 0x2000 ∧
    b0.hring.len ≠ 0 ∧ b0.handling = false ∧ ({ b0 with handling := true } : Bank).handling = true := by
  refine ⟨⟨rfl, rfl, fmt_fwI, rfl, rfl, rfl, rfl, ⟨_, by decide +kernel, by decide, .inl (by decide), rfl⟩, fun c hc => ⟨_, ?_, ?_, .inl (by decide), rfl⟩⟩,
    ⟨by decide, by decide, by decide, by decide, rfl, rfl, rfl, by decide, rfl, rfl, rfl, _, mreads rfl rfl (by decide +kernel)⟩, fun l hl => ?_,
    by decide +kernel, by decide +kernel, by decide, rfl, rfl⟩
  · revert c; decide +kernel
  · revert c; decide +kernel
  · obtain rfl | rfl : l = [] ∨ l = [.tile 1] := by simpa using hl
    all_goals exact ⟨rfl, rfl, rfl, rfl, rfl, rfl, rfl, rfl, rfl, by decide, by decide, rfl, rfl, rfl, by decide +kernel, by decide +kernel⟩

/-- An MSTQ that has spent its tokens and pushed `p` rows; the bank at the other tile instructions. -/
def atMstq (p : Nat) : Bank := { b0 with minst := some { fw := fwI, prog := p, paid := true } }
theorem test_mzero_spends_a_token :
    after (exec (.mzero 2) (stw .m { mb fwI with zk := 0xF, z := Vector.replicate 4 5 } [])) (fun t => (t.core 5).tokens == 999 &&
      (t.bank 5 1).all (fun b => b.zk == 0xB && b.z[2] == 0 && b.z[1] == 5)) = true := by decide +kernel
theorem test_mtok : holds (exec (.mtok 4) (stw .m (mb fwI) [])) (fun b => b.getH 4 == 1000) = true := by decide +kernel
/-- Sixteen KiB of scratchpad with the format word at the head of fq; MSTQ at its first row, and at its last. -/
theorem witness_TilesAndSeams :
    (let y := mb fwI
     let s := stw .m y []
     let z := y.holding fwI []
     Ready s {} y y ∧ Ready s { seamOk := true } y y ∧ y.fitting = false ∧ y.tileBusy 2 = false ∧ y.deferred = false ∧ HasWord s y fwI fI [] ∧
     (∃ s2, Pays (s.waited y) 5 (s.mine y) 1 s2) ∧ MFine (s.waited z) z (y.getH 2) 16384 64 ∧ (s.waited z).requestFree 5 = true ∧
     (∃ s2, Pays (s.waited z) 5 (s.mine y) 2 s2 ∧ ∃ s3 b3, s2.readAhead z s2.nextId = some (s3, b3)) ∧
     MFine (s.waited z) z (y.getH 2) fI.out.blockBytes 64 ∧ MayUse y .m .mv0 true ∧ fI.out = .fp32) ∧
    (∀ p ∈ [0, 62, 63], Ready (stw .m (atMstq p) []) {} (atMstq p) (atMstq p) ∧ (atMstq p).tileBusy 2 = false ∧ ((atMstq p).queue .mv0).length < 8 ∧
      (stw .m (atMstq p) []).releaseReady 7 .m .seat = true) ∧
    fmtWord fwI = some fI := by
  refine ⟨⟨ready_stw rfl nofun nofun (fun _ _ => rfl), ready_stw rfl nofun nofun nofun, rfl, rfl, rfl, hasWord_mb fmt_fwI (by decide +kernel) rfl,
    ⟨_, by decide +kernel, by decide, .inl (by decide), rfl⟩, mfine (by decide +kernel), rfl,
    ⟨_, ⟨by decide +kernel, by decide, .inl (by decide), rfl⟩, _, _, rfl⟩,
    mfine (by decide +kernel), ?_, rfl⟩, fun p hp => ?_, fmt_fwI⟩
  · unfold MayUse; exact ⟨by decide, ⟨.v, by decide, rfl⟩, by intro o _ _ _; cases o <;> rfl⟩
  · exact ⟨ready_stw rfl nofun nofun (fun _ _ => rfl), rfl, (by decide : 0 < 8), rfl⟩
/-- A tile load whose reads are requested, alone among the products, and its range of 16 KiB. -/
def loading : Product := { prodI with op := .load, started := 1, passed := true }
theorem witness_TilesAndSeams_load :
    (let b := { b0 with prods := [loading] }
     let s := stw .m b []
     s.bank 5 1 = some b ∧ b.mRuns = true ∧ b.prods = [] ++ loading :: [] ∧ s.cur.ev.idx = 0 ∧ s.cur.ev.quad = 0 ∧ loading.op = .load ∧ loading.k = 1 ∧
     loading.started = 1 ∧ loading.applied = 0 ∧ loading.passed = true ∧ loading.sig = none ∧ loading.src = .sp ((mb fwI).getH 2) ∧ fmtWord loading.fw = some fI ∧
     mayStep [] loading 0 = true ∧ s.mPending b.job loading.id = false ∧ s.readAhead b loading.id = some (s, b) ∧
     MReads s b ((mb fwI).getH 2).toNat 16384 (leNat (s.readLoc (.sp 5 ((mb fwI).getH 2).toNat) 16384)) none) :=
  ⟨rfl, rfl, rfl, rfl, rfl, rfl, rfl, rfl, rfl, rfl, rfl, by decide +kernel, fmt_fwI, rfl, rfl, rfl, mreads rfl rfl (by decide +kernel)⟩
theorem no_seat_live : ∀ j : Fin 4, (Core.reset.seats[j]).live = none := by decide +kernel
/-- A seam at its SEAME that may be relocated, one that may not, one that is closing with its work done, one whose work another core may take. -/
theorem witness_TilesAndSeams_seams :
    (Ready (stw .m b0 []) {} b0 b0 ∧ b0.seam = none ∧ (∀ p ∈ b0.prods, p.passed = false)) ∧
    (∀ m ∈ [seam1, { seam1 with fits := false }, { seam1 with count := 2 }, { seam1 with closing := true }],
      Ready (stw .m (ms m) []) { seamOk := true } (ms m) (ms m) ∧ (ms m).seam = some m ∧ (ms m).prods = []) ∧
    ((stw .m (ms seam1) []).acc.any fun a => a.job == 7 && a.eng == .m && a.kind == .tile) = false ∧
    (let y := { ms { seam1 with closing := true } with prods := [{ prodI with passed := true }] }
     Ready (stw .m y []) { seamOk := true } y y ∧ y.seam = some { seam1 with closing := true } ∧ y.prods ≠ []) ∧
    (let b := ms { seam1 with home := true }
     (stw .m b []).bank 5 1 = some b ∧ b.seam = some { seam1 with home := true }) ∧
    (let m := { seam1 with closing := true, used := 2 }
     let b := { ms m with prods := [{ prodI with seam := m.id, passed := true }], reqs := [reqI] }
     let s := { stw .m b [] with cur := { core := 5, seat := 1, ev := { idx := 6 } } }
     s.bank 5 1 = some b ∧ m.closing = true ∧ m.performer = none ∧ m.home = false ∧ s.cur.ev.idx ≠ 5 ∧ s.cur.ev.idx / 16 = 5 / 16 ∧ (∀ i : Fin 4, ∀ o, s.bank s.cur.ev.idx i = some o → o.prods = [] ∧ o.reqs = [] ∧ o.mwpf = [] ∧ o.minst = none ∧ o.stitch.eval = none ∧
       (o.mayRun .m = false ∨ o.mS.scrub.isSome = true)) ∧ (∀ g ∈ s.liveBanks, ∀ z, g.2.2.seam = some z → z.performer ≠ some s.cur.ev.idx) ∧
     (∀ p ∈ b.prods, p.seam = m.id ∧ p.started = 0) ∧ (∀ q ∈ b.reqs, m.id < q.id ∧ q.filled = 0 ∧ q.filling = false) ∧ b.mS.trapped = false) := by
  refine ⟨⟨ready_stw rfl nofun nofun (fun _ _ => rfl), rfl, nofun⟩, fun m _ => ⟨ready_stw rfl nofun nofun nofun, rfl, rfl⟩, rfl,
    ⟨ready_stw rfl nofun nofun nofun, rfl, nofun⟩, ⟨rfl, rfl⟩,
    rfl, rfl, rfl, rfl, by decide, by decide, fun i o h => ?_, fun g hg z hz => ?_, by decide, by decide, rfl⟩
  · exact absurd ((no_seat_live (Fin.ofNat 4 i.val)).symm.trans h) nofun
  · obtain rfl := List.mem_singleton.mp (show g ∈ [(5, 1, _)] from hg)
    cases hz; nofun

/-! ## Stitch programs in weight space -/

/-- A physical row that holds `p` encrypted for its row at version 0; what the weight port reads of it. -/
def cipher (n : Nat) (p : BitVec 512) : PhysRow := { data := p ^^^ rowStream 0 5 n 0, under := some (0, 0) }
theorem port_row {s : State} {rows : Table PhysRow} {n o k : Nat} {p : BitVec 512} (hs : s.slice 5 = slice5 rows) (hk : s.key 0 = some ⟨0, 1, 0x7F, false, 0⟩)
    (hr : rows.find? n = some (cipher n p)) (hn : n < 1024) (h0 : 0 < k) (h1 : o + k ≤ 64) :
    s.portRead 5 (64 * n + o) k = .data (p.toNat / 256 ^ o % 256 ^ k) := by
  have e1 : (64 * n + o) / 64 = n := by omega
  have e2 : (64 * n + o) % 64 = o := by omega
  have e3 : (o + k + 63) / 64 = 1 := by omega
  have e5 : (slice5 rows).region? (64 * n) = some (0, { base := 0, len := 65536, vf := 3 }) := by
    rw [Slice.region?]; simp only [slice5, List.find?]
    rw [show (decide (0 ≤ 64 * n) && decide (64 * n < 0 + 65536)) = true by simp; omega]
  have e4 : (rows.get n {}) = cipher n p := by rw [Table.get, hr]; rfl
  have e6 : s.rowPlain 5 n = some p := by
    simp only [State.rowPlain, hs, e5, Option.bind, hk]
    show (if ((rows.get n {}).under.any fun u => u.2 == 0) = true then some ((rows.get n {}).data ^^^ rowStream 0 5 n (rows.get n {}).version.toNat)
      else some (Config.staleRow 5 n 0)) = some p
    rw [e4]; show some (p ^^^ rowStream 0 5 n 0 ^^^ rowStream 0 5 n 0) = some p
    rw [BitVec.xor_assoc, BitVec.xor_self, BitVec.xor_zero]
  have e7 : s.rowBad 5 n = false := by
    simp only [State.rowBad, hs]; show (rows.get n {}).bad = false; rw [e4]; rfl
  simp [State.portRead, Table.find?, e1, e2, e3, e7, e6]
/-- A segment of one rule of one symbol: weight 3 on column 0. -/
def segment : Table PhysRow := [(0, cipher 0 0x4c000000010001001600010001#512), (1, cipher 1 0x31000000100000011#512)]
def hdr1 : StHeader := ⟨0x28000000, 1, 1, .i8, 0, 1, 1, 0, 76⟩
def batch1 : StBatch := ⟨0x2000, 1, .i8, 0⟩
/-- The bank at a stitch instruction: its header, batch and file, and the STEVAL it is at. -/
def sb (f : Table StEntry) (ev : Option StEval) : Bank := { (mb fwI).setH 4 0 with stitch := { file := f, batch := some batch1, header := some hdr1, eval := ev } }
def file1 : Table StEntry := [(0, ⟨List.replicate 8 0x40C00000, 1⟩)]
/-- The seat owns the stitch file of its core. -/
def sto (b : Bank) : State := { stc .m b fun c => { wide c with stOwner := some 1 } with tier := [(5, slice5 segment)] }
theorem ready_sto {b : Bank} (hd : b.deferred = false) : Ready (sto b) {} b b where
  live := rfl
  level := rfl
  owner := nofun
  slot := nofun
  wait := by unfold State.doWait; exact ite_self _
  regs := rfl
  order := fun _ _ => hd
  clean := rfl
theorem hasWord_sb {s : State} {f : Table StEntry} {ev : Option StEval} (ha : s.acquireReady 7 .m = true) : HasWord s (sb f ev) fwI fI [] :=
  ⟨rfl, ha, by unfold MayUse; exact ⟨by decide, ⟨.c, by decide, rfl⟩, by intro o _ _ _; cases o <;> rfl⟩, ⟨_, rfl, rfl, by decide +kernel⟩, fmt_fwI⟩
theorem witness_Stitches :
    (let y := sb [] none
     let s := sto y
     Ready s {} y y ∧ OwnsFile s y ∧ (∃ s2, Pays (s.waited y) 5 (s.mine y) 1 s2) ∧ HasWord s y fwI fI [] ∧ fI.af.isBlock = false ∧
     MFine (s.waited (y.holding fwI [])) (y.holding fwI []) (y.getH 2) (1 * vecBytes 1 fI.af) 64 ∧
     (let a := y.getH 1
      WFine (s.waited y) 5 3 a 64 64 ∧ ∃ v, (s.waited y).portRead 5 (a.toNat % 2 ^ 27) 64 = .data v ∧ headerOf a v = some hdr1 ∧ WFine (s.waited y) 5 3 a hdr1.seglen 64 ∧
      y.stitch.batch = some batch1 ∧ MFine (s.waited y) y batch1.base (batch1.b * vecBytes hdr1.width batch1.fmt) 64) ∧
     y.stitch.eval = none ∧ y.stitch.header = some hdr1 ∧ (y.getH 4).toNat < hdr1.rules ∧ (y.getH 4).toNat ≤ (y.getH 4).toNat) ∧
    (let y := sb file1 none
     let s := sto y
     let z := y.holding fwI []
     Ready s {} y y ∧ HasWord s y fwI fI [] ∧ y.tileBusy 1 = false ∧ (∀ j, j < hdr1.tops → (y.stitch.file.find? (hdr1.rules - hdr1.tops + j)).isSome = true) ∧
     y.zk.getLsbD 1 = false ∧ hdr1.ocol + hdr1.tops ≤ 64 ∧ (s.waited z).requestFree 5 = true ∧
     (∃ s2, Pays (s.waited z) 5 (s.mine y) 2 s2 ∧ ∃ sR zR, State.readAhead { s2 with ctr := s2.ctr + 1 } z s2.nextId = some (sR, zR)) ∧
     MFine (s.waited z) z (y.getH 2) ((batch1.b - 1) * ((hdr1.tops + 63) / 64 * fI.out.rowBytes) + (fI.out.width * hdr1.tops + 7) / 8) 64) ∧
    (let e : StEval := { rule := 1, last := 0, fw := fwI }
     (sb file1 (some e)).stitch.eval = some e ∧ e.last < e.rule) := by
  refine ⟨⟨ready_sto rfl, ⟨rfl, rfl⟩, ⟨_, by decide +kernel, by decide, .inl (by decide), rfl⟩, hasWord_sb rfl, by decide, mfine (by decide +kernel),
    ⟨?_, _, port_row (n := 0) (o := 0) rfl rfl rfl (by decide) (by decide) (by decide), by decide +kernel, ?_, rfl, mfine (by decide +kernel)⟩, rfl, rfl,
    by decide +kernel, Nat.le_refl _⟩,
    ⟨ready_sto rfl, hasWord_sb rfl, rfl, by decide, by decide, by decide, rfl, ⟨_, ⟨by decide +kernel, by decide, .inl (by decide), rfl⟩, _, _, rfl⟩, mfine (by decide +kernel)⟩,
    rfl, by decide⟩
  all_goals exact wfine rfl (by decide +kernel) (by decide +kernel) (by decide +kernel) (by decide +kernel) (by decide +kernel) (by decide +kernel)
/-- A seat that finds the file free, one that finds it owned by seat 2, one in an open seam. -/
theorem witness_Stitches_owner :
    (Ready (stw .m b0 []) {} b0 b0 ∧ (∀ p ∈ b0.prods, p.passed = false) ∧ b0.seam = none ∧ b0.stitch.claim = false ∧
      (((stw .m b0 []).waited b0).core 5).stOwner = none ∧ (((stw .m b0 []).waited b0).core 5).stWait = []) ∧
    (let c := ((stc .m b0 fun c => { c with stOwner := some 2 }).waited b0).core 5
     c.stOwner = some 2 ∧ 2 ≠ 1 ∧ b0.job ∉ c.stWait) ∧
    (Ready (stw .m (ms seam1) []) {} (ms seam1) (ms seam1) ∧ (ms seam1).seam.isSome = true) :=
  ⟨⟨ready_stw rfl nofun nofun (fun _ _ => rfl), nofun, rfl, rfl, rfl, rfl⟩, ⟨rfl, by decide, nofun⟩, ready_stw rfl nofun nofun (fun _ _ => rfl), rfl⟩
/-- Rule 0 of the segment adds 3 times the 3 at the base of the batch; with a limit of 0 its depth is refused. -/
theorem segment_words {s : State} (hs : s.slice 5 = slice5 segment) (hk : s.key 0 = some ⟨0, 1, 0x7F, false, 0⟩) (hc : s.cur.core = 5) :
    s.segWord 0x28000040 = .ok 17 ∧ s.segWord 0x28000044 = .ok 0x10000001 ∧ s.segWord 0x28000048 = .ok 3 := by
  refine ⟨?_, ?_, ?_⟩
  · have h := port_row (n := 1) (o := 0) (k := 4) hs hk rfl (by decide) (by decide) (by decide)
    unfold State.segWord; rw [hc, if_neg (by decide), show fld (0x28000040 : Word).toNat 0 27 = 64 * 1 + 0 by decide, h]; exact congrArg Except.ok (by decide +kernel)
  · have h := port_row (n := 1) (o := 4) (k := 4) hs hk rfl (by decide) (by decide) (by decide)
    unfold State.segWord; rw [hc, if_neg (by decide), show fld (0x28000044 : Word).toNat 0 27 = 64 * 1 + 4 by decide, h]; exact congrArg Except.ok (by decide +kernel)
  · have h := port_row (n := 1) (o := 8) (k := 4) hs hk rfl (by decide) (by decide) (by decide)
    unfold State.segWord; rw [hc, if_neg (by decide), show fld (0x28000048 : Word).toNat 0 27 = 64 * 1 + 8 by decide, h]; exact congrArg Except.ok (by decide +kernel)
theorem witness_Stitches_rules (paid : Bool) :
    let ev : StEval := { rule := 0, last := 0, fw := fwI, paid := paid }
    let b := sb [] (some ev)
    let s := { sto b with cur := { core := 5, seat := 1, eng := .m } }
    s.bank 5 1 = some b ∧ b.stitch.eval = some ev ∧ b.stitch.header = some hdr1 ∧ b.stitch.batch = some batch1 ∧ ev.rule ≤ ev.last ∧ b.mS.trapped = false ∧
    b.stopped = false ∧ b.frozen = none ∧ (s.core 5).stOwner = some 1 ∧ s.mOrder b s.nextId = false ∧ (∀ p ∈ b.prods, p.allApplied = true) ∧
    fmtWord ev.fw = some fI ∧ s.readAhead b s.nextId = some (s, b) ∧ s.ruleHeader hdr1 0 (b.heldRows (0, 2)) = .ok (0x28000044, 1, 1) ∧ ev.paid = paid ∧
    (∃ s1, Pays s 5 ⟨5, 7, 3⟩ ((1 + 16) / 16) s1) ∧ (∃ m, s.ruleBody b hdr1 batch1 fI 0 0x28000044 1 1 = .ok m ∧ m.warn = none) ∧
    s.ruleHeader { hdr1 with dlim := 0 } 0 (b.heldRows (0, 2)) = .error (.fail .stdepth 0x28000044) := by
  cases paid
  all_goals
    intro ev b s
    obtain ⟨w0, w1, w2⟩ := segment_words (s := s) rfl rfl rfl
    have hr (d : Nat) : s.ruleHeader { hdr1 with dlim := d } 0 (b.heldRows (0, 2)) =
        if 1 = 0 ∨ 1 > d then .error (.fail .stdepth 0x28000044) else .ok (0x28000044, 1, 1) := by
      unfold State.ruleHeader
      rw [show b.heldRows (0, 2) = [] from rfl, show ({ hdr1 with dlim := d } : StHeader).addr + BitVec.ofNat 64 (64 + 4 * 0) = 0x28000040 from rfl, w0]
      dsimp only
      rw [show ({ hdr1 with dlim := d } : StHeader).addr + BitVec.ofNat 64 (4 * 17) = 0x28000044 from rfl, w1]; rfl
    refine ⟨rfl, rfl, rfl, rfl, by decide, rfl, rfl, rfl, rfl, rfl, nofun, fmt_fwI, rfl, hr 1, rfl, ⟨_, by decide +kernel, by decide, .inl (by decide), rfl⟩, ?_, hr 0⟩
    have hs : (match State.symbol s b hdr1 batch1 fI 0 1 0x28000048 {} with | .ok m => m.dep == 1 && m.warn.isNone | .error _ => false) = true := by
      unfold State.symbol; rw [show b.heldRows (0, 2) = [] from rfl, w2]; decide +kernel
    split at hs
    case h_2 => cases hs
    case h_1 m hm =>
    simp only [Bool.and_eq_true, beq_iff_eq, Option.isNone_iff_eq_none] at hs
    obtain ⟨hd, hw⟩ := hs
    refine ⟨m, ?_, hw⟩
    unfold State.ruleBody
    rw [show List.range 1 = [0] from rfl]; simp only [List.foldl]
    rw [show (0x28000044 : Word) + BitVec.ofNat 64 (4 + 4 * 0) = 0x28000048 from rfl, hm]
    simp only [hd]; rfl

/-! ## Weight programming -/

/-- A C stream of the MO compartment with l0 and l1, in the core with units 2 and 3 and a weight region; the requests of the core. -/
def bw (x y : Word) : Bank := { bl x y 0 0 with cS := { run with mo := true } }
def stg (b : Bank) (rs : List WReq) (zs : List Seal) : State :=
  { stc .c b fun c => { owned c with wreqs := rs, seals := zs } with tier := [(5, slice5 [])] }
theorem ready_stg {b : Bank} {rs : List WReq} {zs : List Seal} {p : Pre} (hl : p.lvl.le (b.level .c) = true) (ho : p.mo = true → b.cS.mo = true)
    (hc : p.ctl = false) : Ready (stg b rs zs) p b b where
  live := rfl
  level := hl
  owner := ho
  slot := fun h => by rw [hc] at h; cases h
  wait := by unfold State.doWait; exact ite_self _
  regs := rfl
  order := nofun
  clean := rfl
def wr (out : Nat) (tgt : Option Nat) : WReq :=
  { id := 4, job := 7, vf := 3, part := 1, seat := 1, tag := 9, row := 2, addr := 0x28000080, data := 0, out := out, target := tgt }
theorem test_wprog_is_accepted :
    after (exec (.wprog (.l 0) (.l 1) 9) (stg (bw 0x3000 0x28000080) [] [])) (fun t => (t.core 5).wreqs.map (fun r => (r.row, r.tag, r.out)) == [(2, 9, 1)] &&
      (t.bank 5 1).all (fun b => b.wpstat.find? 9 == some ⟨1, 0⟩)) = true ∧
    holds (exec (.wprog (.l 0) (.l 1) 9) (stg (bw 0x3000 0x28010000) [] [])) (fun b => b.trap.cause == 0x01 && b.trap.addr == 0x28010000) = true := by decide +kernel
theorem witness_WeightRequests :
    (let y := bw 0x3000 0x28000080
     let s := stg y [] []
     Ready s { mo := true, regs := [.l 0, .l 1] } y y ∧ (y.getC (.l 0)).toNat + 64 ≤ 0x60000 ∧ (y.getC (.l 0)).toNat % 64 = 0 ∧
     (s.waited y).unitCond y (y.level .c) true 5 (some 1) 3 = .ok ∧ WFine (s.waited y) 5 3 (y.getC (.l 1)) 64 64 ∧
     (∀ o ∈ s.acc, o.job = y.job → o.eng = .c → o.storesSp = false) ∧ firstPart ((s.waited y).core 5).poison true 0x3000 64 = none ∧ y.ut = false ∧
     y.wbuf = [] ∧ (s.waited y).tagBusy 7 9 = false ∧ ((s.waited y).core 5).wreqs.length < 16 ∧ (s.waited y).firstStalled y .c = true) ∧
    (∀ o ∈ [1, 2, 3, 4], let s := stg b0 [wr o none] []
     (s.core 5).wreqs[s.cur.ev.idx]? = some (wr o none) ∧ s.findJob 7 = some (.live 5 1, b0) ∧ s.bank 5 1 = some b0 ∧ s.images = []) ∧
    (∃ z ∈ ({ b0 with waiting := [{ strm := .c, pc := 0, npc := 0, cause := 0x18, addr := 0, wpfail := some 4 }] } : Bank).waiting, z.wpfail = some (wr 4 none).id) ∧
    b0.ended = false ∧ b0.hring.len ≠ 0 ∧ (wr 4 none).recorded = false ∧ b0.swapping = false ∧ b0.cS.s2stall = none ∧ (∀ v, b0.cS.stage ≠ .answered v) ∧
    (let b := { b0 with swapping := true }
     ¬ (b.handler = true ∨ (b.swapping = false ∧ b.cS.s2stall = none ∧ ∀ v, b.cS.stage ≠ .answered v))) := by
  refine ⟨⟨ready_stg rfl (fun _ => rfl) rfl, by decide, by decide, by decide +kernel, wfine rfl (by decide +kernel) (by decide) (by decide) (by decide) (by decide) (by decide),
    (fun o ho => by cases (show o ∈ ([] : List Access) from ho)), by decide +kernel, rfl, rfl, by decide +kernel, by decide +kernel, by decide +kernel⟩, fun o _ => ⟨rfl, rfl, rfl, rfl⟩, ⟨_, List.mem_singleton.mpr rfl, rfl⟩,
    rfl, by decide, rfl, rfl, rfl, nofun, fun h => ?_⟩
  rcases h with h | h
  · cases h
  · cases h.1
theorem mayProgram_wr {tgt : Option Nat} {sl : Slice} : MayProgram { stg b0 [wr 1 tgt] [] with tier := [(5, sl)] } (wr 1 tgt) :=
  ⟨rfl, rfl, fun o ho _ h => by
    obtain rfl : o = wr 1 tgt := List.mem_singleton.mp (show o ∈ [wr 1 tgt] from ho)
    exact absurd h (Nat.lt_irrefl _), fun z hz => by cases (show z ∈ ([] : List Seal) from hz)⟩
theorem test_worn_row_is_replaced :
    after (exec .weightUpdate { stg b0 [wr 1 none] [] with tier := [(5, { slice5 [(0x160002, { wear := 1000000 })] with map := [] })] }) (fun t =>
      ((t.slice 5).entry 2).alt == 0x140000 && (t.slice 5).spares == 131071) = true := by decide +kernel
/-- A row at its wear limit and one below it, with a spare row and with none, at its last version; a request that is programming. -/
theorem witness_WeightRows :
    (∀ sl ∈ [slice5 [], slice5 [(0x160002, { wear := 999999 })], slice5 [(0x160002, { wear := 1000000 })], slice5 [(0x160002, { failed := true })],
        { slice5 [(0x160002, { wear := 1000000 })] with spares := 0 }, { slice5 [] with map := [(2, ⟨2, 0x160002, 2 ^ 32 - 1⟩)] }],
      MayProgram { stg b0 [wr 1 none] [] with tier := [(5, sl)] } (wr 1 none)) ∧
    (wr 1 none).target = none ∧ MayProgram { stg b0 [wr 1 (some 0x160002)] [] with tier := [(5, slice5 [])] } (wr 1 (some 0x160002)) ∧
    (1000000 : Nat) < 2 ^ 20 ∧ (slice5 []).region? (64 * 2) = some (0, { base := 0, len := 65536, vf := 3 }) :=
  ⟨fun _ _ => mayProgram_wr, rfl, mayProgram_wr, by decide, by decide +kernel⟩
/-- Tag 63, a tag of 64; the last byte of the region, and the one after it; a seal that is new, one with nothing of its region before it. -/
theorem witness_WeightReadsAndSeals :
    (∀ v : Word, let y := bw 0 v
     Ready (stg y [] []) { mo := true, regs := [.l 0, .l 1] } y y ∧ Ready (stg y [] []) { mo := true, regs := [.l 1] } y y) ∧
    ((bw 0 63).getC (.l 1)).toNat < 64 ∧ 64 ≤ ((bw 0 64).getC (.l 1)).toNat ∧
    InRegion (stg (bw 0 0x2800FFFF) [] []) 3 0x2800FFFF 0 { base := 0, len := 65536, vf := 3 } ∧
    (∀ i r, ¬ InRegion (stg (bw 0 0x28010000) [] []) 3 0x28010000 i r) ∧
    ((stg b0 [] []).core 5).seals.find? (·.job == b0.job) = none ∧
    (let z : Seal := ⟨7, 0, 5⟩
     let c := (stg b0 [{ wr 1 none with id := 6 }] [z]).core 5
     c.seals.find? (·.job == b0.job) = some z ∧ ∀ q ∈ c.wreqs, z.order ≤ q.id) := by
  refine ⟨fun v => ⟨ready_stg rfl (fun _ => rfl) rfl, ready_stg rfl (fun _ => rfl) rfl⟩, by decide +kernel, by decide +kernel, ⟨by decide, by decide, by decide, rfl, rfl⟩,
    fun i r h => ?_, rfl, rfl, ?_⟩
  · have h4 := h.2.2.2.1
    exact absurd (show (slice5 []).region? 0x10000 = some (i, r) from h4) (by rw [show (slice5 []).region? 0x10000 = none by decide +kernel]; nofun)
  · exact (by decide : ∀ q ∈ [{ wr 1 none with id := 6 }], 5 ≤ q.id)

/-! ## Traps -/

theorem test_misaligned_trap_record :
    holds (exec (.trap 0x1234) (st .c { b0 with cS := { run with ds := true } })) (fun b =>
      b.trap.c == 0x108 && b.trap.npc == 0x110 && b.trap.cause == BitVec.ofNat 64 Cause.swtrap.code && b.trap.addr == 0x1234 && b.trap.strm == 0 && b.trap.fl == 1 &&
      b.cS.trapped && b.handling) = true := by decide
theorem test_diversion :
    holds (exec .trapDiversion (st .c { b0 with handling := true })) (fun b => b.handler && b.cS.pc == 0x1000 && b.cS.npc == 0x1008 &&
      b.kept.map (·.pc) == some 0x108) = true := by decide
theorem witness_TrapEntry :
    b0.hring.len ≠ 0 ∧ ¬ ((st .c b0).cur.eng = .c ∧ b0.handler = true) ∧ b0.handling = false ∧ ({ b0 with handling := true } : Bank).handling = true ∧
    b0.canDivert = false ∧
    (let b := { b0 with handling := true }
     (st .c b).bank 5 1 = some b ∧ b.handler = false ∧ b.stopped = false ∧ b.ended = false ∧ b.swapping = false ∧ b.frozen = none ∧ b.cS.s2stall = none ∧
     ∀ v, b.cS.stage ≠ .answered v) ∧
    Ready (st .a b0) {} b0 b0 ∧ Ready (st .m b0) {} b0 b0 ∧ b0.prods.any (·.passed) = false :=
  ⟨by decide, fun h => absurd h.2 (by decide), rfl, rfl, by decide, ⟨rfl, rfl, rfl, rfl, rfl, rfl, rfl, nofun⟩, ready_st rfl nofun nofun nofun,
    ready_st rfl nofun nofun (fun _ _ => rfl), rfl⟩
/-- A bank in handler mode for stream `e`, with TRAPFL `f`. -/
def inHandler (e : Nat) (f : Word) : Bank :=
  { b0 with handler := true, handling := true, kept := some { run with pc := 0x120, npc := 0x128 }, trap := { c := 0x118, npc := 0x130, cause := 1, addr := 0, strm := BitVec.ofNat 64 e, fl := f } }
theorem test_rte_returns :
    holds (exec (.rte 0) (st .c (inHandler 0 1))) (fun b => b.cS.pc == 0x118 && b.cS.npc == 0x130 && b.cS.ds && !b.handler) = true ∧
    holds (exec (.rte 2) (st .c (inHandler 2 0))) (fun b => b.cS.pc == 0x120 && b.vS.pc == 0x130 && !b.handler) = true := by decide +kernel
/-- RTE of the right stream, of another, of number 5; END; a record that waits. -/
theorem witness_TrapReturn :
    (∀ f k, Ready (st .c (inHandler k f)) { lvl := .s, ctl := true } (inHandler k f) (inHandler k f)) ∧ (st .c b0).cur.eng = .c ∧
    (inHandler 4 0).handler = true ∧ (inHandler 4 0).trap.strm = BitVec.ofNat 64 (4 : Fin 8).val ∧ (4 : Fin 8).val < 5 ∧ 5 ≤ (5 : Fin 8).val ∧
    (inHandler 1 0).trap.strm ≠ BitVec.ofNat 64 (4 : Fin 8).val ∧ (inHandler 0 0x800).trap.fl.getLsbD 11 = true ∧ (inHandler 0 3).trap.fl.getLsbD 11 = false ∧
    (inHandler 0 3).waiting = [] ∧ Engine.ofIdx 4 = some .d ∧ (∃ p, (inHandler 1 0).kept = some p) ∧
    { b0 with hring := ⟨0, 0⟩ }.hring.len = 0 :=
  ⟨fun f k => ready_st rfl nofun (fun _ _ => rfl) nofun, rfl, rfl, rfl, by decide, by decide, by decide, by decide, by decide, rfl, rfl, ⟨_, rfl⟩, rfl⟩

/-! ## The error log -/

def entry1 : LogEntry := ⟨5, false, 2, 131, 9, 0xABC⟩
def logged : State := stc .c b0 fun c => { c with log := c.log.set 2 { entries := [(3, entry1)] } }
theorem test_errpop_reads_the_oldest :
    after (exec (.errpop (.l 2)) logged) (fun t => ((t.core 5).log[2]).entries == [] && (t.bank 5 1).all (fun b => b.getC (.l 2) == 0xABC &&
      b.getC (.l 3) == BitVec.ofNat 64 (5 * 2 ^ 58 + 2 * 2 ^ 54 + 2 * 2 ^ 52 + 5 * 2 ^ 41 + 131 * 2 ^ 29 + 9))) = true := by decide +kernel
theorem witness_ErrorLog :
    Ready (st .c b0) { lvl := .s, regs := [.l 15, CReg.next (.l 15)] } b0 b0 ∧ (∀ i : Fin 4, (((st .c b0).waited b0).core 5).log[i].entries = [] ∧
      (((st .c b0).waited b0).core 5).log[i].dropped = 0) ∧
    (((logged.waited b0).core 5).log[(2 : Fin 4)]).entries = [(3, entry1)] ∧ (∀ j : Fin 4, j ≠ 2 → (((logged.waited b0).core 5).log[j]).entries = [] ∧
      (((logged.waited b0).core 5).log[j]).dropped = 0) ∧
    entry1.kind < 64 ∧ entry1.strm < 8 ∧ entry1.cid < 2 ^ 12 ∧ entry1.cid % 128 = b0.vf :=
  ⟨ready_st rfl nofun nofun nofun, by decide +kernel, by decide +kernel, by decide +kernel, by decide, by decide, by decide, by decide⟩

/-! ## Maintenance, banks -/

theorem test_tlbi_drops_a_page : after (exec (.tlbi (.l 1)) (stm .c (bl 0 0x10008 0 0))) (fun t => t.tlb == []) = true := by decide +kernel
/-- A store that is performed and no access at all; an address that is not canonical; a big and a small range of GPAFL; both ends of a
monitor's units. -/
theorem witness_Maintenance :
    (∀ v, let y := bl 0 v 0 0
     Ready (stm .c y) { lvl := .s, regs := [.l 1] } y y ∧ Ready (stm .c y) { lvl := .s, regs := [.l 0, .l 1] } y y ∧ Ready (stm .c y) {} y y ∧ y.cS.stage = .fresh ∧
     (stm .c y).acc = []) ∧
    (∀ v, let y := { bl 0 v 0 0 with lvl := .h }
     Ready (stm .c y) { lvl := .h, regs := [.l 1] } y y) ∧
    ((0x003FFFFFFFFFFFFF : Word).toNat / 2 ^ 54 = 0 ∧ (0xFFC0000000000000 : Word).toNat / 2 ^ 54 = 1023 ∧ ¬ ((0x0040000000000000 : Word).toNat / 2 ^ 54 = 0 ∨ (0x0040000000000000 : Word).toNat / 2 ^ 54 = 1023)) ∧
    (∀ mark f, Quiet (stm .c b0) mark f) ∧ ¬ Quiet (busy .c b0) 2 (fun vf _ => vf = 3) ∧
    (({ st .c b0 with parts := [(1, { clusters := 1, valid := true })] } : State).part 1).valid = true ∧ (0x0010000000010000 : Word).toNat / 2 ^ 52 = 1 ∧
    (0x0010000000010000 : Word).toNat % 2 ^ 15 = 0 ∧ (0x0010000020008000 : Word).toNat / 2 ^ 15 % 2 = 1 ∧ (0x0010000020008000 : Word).toNat / 2 ^ 16 % 2 ^ 13 = 0 ∧
    (0x3000 : Word).toNat / 2 ^ 12 = 3 ∧ (0x2000 : Word).toNat < 2 ^ 14 ∧ ({ b0 with wfe := true } : Bank).wfe = true ∧ b0.wfe = false := by
  refine ⟨fun v => ⟨ready_stm rfl nofun nofun nofun, ready_stm rfl nofun nofun nofun, ready_stm rfl nofun nofun nofun, rfl, rfl⟩, fun v => ready_stm rfl nofun nofun nofun,
    by decide, fun _ _ => ⟨fun a ha => (by cases (show a ∈ ([] : List Access) from ha)), fun r hr => (by cases (show r ∈ ([] : List CopyReq) from hr))⟩, fun h => ?_, rfl, by decide, by decide, by decide, by decide, by decide, by decide, rfl, rfl⟩
  exact h.1 _ (List.mem_singleton.mpr rfl) (by decide) _ (List.mem_singleton.mpr rfl) rfl rfl

/-- Seat 2 of the core with live bank `o` and shadow `sh`, beside the bank `b`. -/
def seated (b : Bank) (o : Option Bank) (sh : Shadow) : State := ((st .c b).setLive 5 2 o).setShadow 5 2 sh
theorem ready_seated {b : Bank} {o : Option Bank} {sh : Shadow} {p : Pre} (hl : p.lvl.le (b.level .c) = true) (ho : p.mo = true → b.cS.mo = true)
    (hc : p.ctl = false) : Ready (seated b o sh) p b b where
  live := rfl
  level := hl
  owner := ho
  slot := fun h => by rw [hc] at h; cases h
  wait := by unfold State.doWait; exact ite_self _
  regs := rfl
  order := nofun
  clean := rfl
/-- A bank at a later stage of its instruction, with l0 and l1. -/
def later (v w : Word) : Bank := { bl v w 0 0 with cS := { run with stage := .second } }
theorem test_swapb_exchanges_banks :
    after (exec (.swapb (.l 1)) (seated (later 0 2) (some { other with frozen := some 7 }) (.loaded { b0 with job := 9 }))) (fun t =>
      (t.bank 5 2).map (·.job) == some 9 && (((t.core 5).seat 2).shadow.bank).map (fun o => (o.job, o.saving)) == some (8, true)) = true := by decide +kernel
theorem loaded_not_loading (o : Bank) (b : Option Bank) : Shadow.loaded o ≠ .loading b := fun h => Shadow.noConfusion h
theorem witness_BankSwapping :
    (∀ o sh v, let y := bl 0 v 0 0
      Ready (seated y o sh) { lvl := .s, regs := [.l 1] } y y ∧ y.cS.stage ≠ .second) ∧
    (∀ o sh v, Ready (seated (later 0 v) o sh) { lvl := .s, regs := [.l 1] } (later 0 v) (later 0 v) ∧ (later 0 v).cS.stage = .second) ∧
    (st .c b0).cur.eng = .c ∧ (st .c b0).cur.seat < 4 ∧ ¬ seatFine (seated (bl 0 4 0 0) none .empty) (bl 0 4 0 0) 4 ∧ ¬ seatFine (seated b0 (some { other with vf := 4 }) .empty) b0 2 ∧
    seatFine (seated b0 (some other) .empty) b0 2 ∧ other.frozen = none ∧ other.swapping = false ∧ ({ other with frozen := some 7 } : Bank).steals = [] ∧
    (seated b0 (some other) .empty).winding { other with frozen := some 7 } = false ∧ (∀ o b, Shadow.loaded o ≠ .loading b) ∧
    (let y := { bl 0 2 0 0 with blst := { act := true, op := 1 } }
     Ready (seated y (some other) .empty) { lvl := .s, regs := [.l 1] } y y ∧ y.blst.act = true ∧ y.cS.stage ≠ .second ∧ y.blst.op ≠ 3) ∧
    ((seated (later 0 2) none (.loading none)).core 5 |>.seat 2).shadow = .loading none := by
  refine ⟨fun _ _ _ => ⟨ready_seated rfl nofun rfl, fun h => absurd (show Stage.fresh = .second from h) nofun⟩, fun _ _ _ => ⟨ready_seated rfl nofun rfl, rfl⟩, rfl, by decide, fun h => absurd h.1 (by decide), fun h => ?_,
    ⟨by decide, .inr fun o ho => ?_⟩, rfl, rfl, rfl, rfl, loaded_not_loading, ⟨ready_seated rfl nofun rfl, rfl, nofun, by decide⟩, rfl⟩
  · rcases h.2 with h1 | h1
    · exact absurd (show Lvl.s = .h from h1) nofun
    · exact absurd (h1 _ (.inl rfl)) (by decide)
  · rcases ho with h1 | h1
    · cases (show some other = some o from h1); rfl
    · exact absurd (show (none : Option Bank) = some o from h1) nofun

/-- The bank with BLST at the end of operation `op` on seat 2. -/
def ending (op : Nat) (fail : Bool) : Bank := { later 0x10000 2 with blst := { fail := fail, tseat := 2, op := op, step := op } }
/-- Saved banks, and an address with a page for C and one without its alignment. -/
theorem witness_BankTransfers :
    (∀ o sh v w, let y := bl v w 0 0
      Ready (seated y o sh) { lvl := .s, regs := [.l 0, .l 1] } y y ∧ y.cS.stage = .fresh ∧ y.blst.act = false) ∧
    (∀ op f, Ready (seated (ending op f) none .empty) { lvl := .s, regs := [.l 0, .l 1] } (ending op f) (ending op f) ∧ (ending op f).cS.stage = .second ∧
      (ending op f).blst.tseat = 2 ∧ (ending op f).blst.step = (ending op f).blst.op ∧ (ending op f).blst.fail = f) ∧
    (0x10000 : Word).toNat % 65536 = 0 ∧ (0x10040 : Word).toNat % 65536 ≠ 0 ∧ seatFine (st .c b0) b0 2 ∧
    (∃ l s2, (stm .c b0).imageLine (b0.vaCtx 5 .c) 0x10000 false = (.ok l, s2) ∧ leNat ((s2.readLoc l 12).drop 8) = 0) ∧
    (let o := { other with saveva := 0x10000, saved := true }
     o.saving = false ∧ 0x10000 = o.saveva ∧ o.saved = true) ∧ ¬ (0x20000 = other.saveva ∧ other.saved = true) := by
  refine ⟨fun _ _ _ _ => ⟨ready_seated rfl nofun rfl, rfl, rfl⟩, fun _ _ => ⟨ready_seated rfl nofun rfl, rfl, rfl, rfl, rfl⟩, by decide, by decide,
    ⟨by decide, .inr fun o ho => ?_⟩, ⟨_, _, rfl, by decide +kernel⟩, ⟨rfl, rfl, rfl⟩, by decide⟩
  rcases ho with h1 | h1
  · exact absurd (show (none : Option Bank) = some o from h1) nofun
  · exact absurd (show (none : Option Bank) = some o from h1) nofun
def bop (load : Bool) : BankOp :=
  { core := 5, issuer := 7, tseat := 2, va := 0x10000, load := load, lvl := .s, vf := 3, part := 1, root := 0, subject := 8, cands := [1] }
def moved : Bank := { b0 with blst := { prog := 64 } }
def ops (load : Bool) (ims : List SaveImage) (sh : Shadow) : State :=
  { ((stm .c moved).setShadow 5 2 sh) with bankOps := [bop load], images := ims, parts := [(1, { clusters := 1 })], vfs := [(3, { partition := 1 })], cur := {} }
/-- A load with no image, and with the image of another job; a store of the shadow; a background save that is at its end. -/
theorem witness_BankTransfers_end :
    (∀ load ims sh, (ops load ims sh).bankOps[(ops load ims sh).cur.ev.idx]? = some (bop load) ∧ (bop load).fault = none ∧ (bop load).s2stall = none ∧ (bop load).refused = none ∧ 64 ≤ moved.blst.prog) ∧
    (ops true [] .empty).findJob 7 = some (.live 5 1, moved) ∧
    (let im : SaveImage := ⟨1, other, none, 0, false⟩
     (ops true [im] .empty).images.find? (fun x => (bop true).cands.contains x.n && ((bop true).lvl == .h || (x.bank.vf == 3 && x.bank.part == 1)) &&
       x.bank.lvl.le (bop true).lvl && x.bank.part == ((ops true [im] .empty).vf x.bank.vf).partition && (ops true [im] .empty).coreInPart 5 x.bank.part) = some im ∧ im.old = false ∧ im.bank.job ≠ (bop true).issuer ∧ (ops true [im] .empty).bank 5 2 = none) ∧
    (∃ l s1, (ops false [] (.loaded other)).imageLine (bop false).ctx 0x10000 true = (.ok l, s1)) ∧ other.job = (bop false).subject ∧
    (let b := { other with saving := true, saveProg := 64, saveva := 0x10000 }
     b.saveStall = none ∧ 64 ≤ b.saveProg ∧ ∃ l s1, ({ ops false [] (.loaded b) with cur := { core := 5, seat := 2 } } : State).imageLine (b.saveCtx 5) b.saveva true = (.ok l, s1)) :=
  ⟨fun _ _ _ => ⟨rfl, rfl, rfl, rfl, by decide⟩, rfl, ⟨rfl, rfl, by decide, rfl⟩, ⟨_, _, rfl⟩, rfl, ⟨rfl, by decide, _, _, rfl⟩⟩

/-! ## Tenancy -/

/-- A state with an event's input. -/
def evt (s : State) (v : EventIn) : State := { s with cur := { core := 5, seat := 1, ev := v } }
/-- The same pages at level H, with l0 and l1 and memory `m`. -/
def hyper (x y : Word) : Bank := { bl x y 0 0 with lvl := .h }
def sth (x y : Word) (m : Memory) : State := { stm .c (hyper x y) with dram := m }
theorem ready_sth {x y : Word} {m : Memory} {p : Pre} (ho : p.mo = false) (hc : p.ctl = false) : Ready (sth x y m) p (hyper x y) (hyper x y) where
  live := rfl
  level := by show p.lvl.le .h = true; cases p.lvl <;> rfl
  owner := fun h => by rw [ho] at h; cases h
  slot := fun h => by rw [hc] at h; cases h
  wait := by unfold State.doWait; exact ite_self _
  regs := rfl
  order := nofun
  clean := rfl
/-- Whether an Except value is a value. -/
def good {ε α : Type} (x : Except ε α) : Bool := match x with | .ok _ => true | .error _ => false
theorem good_ok {ε α : Type} {x : Except ε α} (h : good x = true) : ∃ v, x = .ok v := by cases x with | ok v => exact ⟨v, rfl⟩ | error _ => cases h
theorem good_fst {ε α β : Type} {x : Except ε α × β} (h : good x.1 = true) : ∃ v w, x = (.ok v, w) := by
  obtain ⟨v, hv⟩ := good_ok h; exact ⟨v, x.2, by rw [← hv]⟩
theorem some_fst {α β : Type} {x : Option α × β} {v : α} (h : x.1 = some v) : x = (some v, x.2) := by rw [← h]
theorem test_keyzap : after (exec (.keyzap (.l 0)) { sth 511 0 [] with keys := [(0, ⟨0, 1, 0x7F, false, 0⟩), (511, ⟨5, 1, 3, false, 2⟩)] }) (fun t => t.keys.map (·.1) == [0]) = true := by
  decide +kernel
/-- A key in escrow, with the digest of a transfer of no further bytes; *ready*, and erased at its source. -/
def escrowed (ready erased : Bool) : Escrow := { id := 1, digest := sha512 [], data := [], keys := [(9, 5, 1, false)], ready := ready, erased := erased }
/-- Slots 0, 511 and 512, an empty and a full one, and a key record of 128 bytes that reads as zeros; keys of a VF that migrates. -/
theorem witness_KeysAndMigration :
    (∀ x y, Ready (sth x y []) { lvl := .h, regs := [.l 0, .l 1] } (hyper x y) (hyper x y) ∧ Ready (sth x y []) { lvl := .h, regs := [.l 0] } (hyper x y) (hyper x y) ∧
      (hyper x y).cS.stage = .fresh) ∧
    ((hyper 511 0x10000).getC (.l 0)).toNat = 511 ∧ ((hyper 512 0).getC (.l 0)).toNat = 512 ∧ ((hyper 0 0).getC (.l 0)).toNat = 0 ∧
    (sth 511 0x10000 []).key 511 = none ∧ ((hyper 511 0x10000).getC (.l 1)).toNat % 128 = 0 ∧
    (∃ bytes s2, ((sth 511 0x10000 []).waited (hyper 511 0x10000)).readLines (hyper 511 0x10000) 64 2 0x10000 = .ok (bytes, s2)) ∧
    (let s := { sth 511 0 [] with keys := [(0, ⟨0, 1, 0x7F, false, 0⟩), (511, ⟨5, 1, 3, false, 2⟩)] }
     s.key 511 ≠ none ∧ s.slotBusy 511 s.nextId = false) ∧
    (let s := evt { st .c b0 with vfs := [(3, { migDone := true, migId := 6 })] } { vf := 3, val := 6 }
     s.cur.ev.fromPf = false ∧ s.dev.escrow.find? 3 = none ∧ (s.vf 3).migDone = true ∧ (s.vf 3).migId = s.cur.ev.val.toNat ∧
       ¬ ((s.vf 4).migDone = true ∧ (s.vf 4).migId = s.cur.ev.val.toNat) ∧ s.dev.escrow.find? 4 = none) ∧
    (let s := evt { st .c b0 with vfs := [(3, { migrating := 2 })], keys := [(0, ⟨0, 1, 0x7F, false, 0⟩), (9, ⟨5, 1, 3, false, 2⟩)] } { vf := 3, quad := 0, fromPf := true }
     s.cur.ev.fromPf = true ∧ (s.vf 3).migrating = 2 ∧ (s.vf 4).migrating ≠ 2 ∧
       (∀ e ∈ s.keys, e.1 ≠ 0 → e.2.vf = 3 → s.slotBusy e.1 s.nextId = false) ∧ s.cur.ev.quad ≠ 1 ∧ (s.vf 4).migrating = 0 ∧ (s.vf 4).lost = false) ∧
    (∀ n, (({ st .c b0 with vfs := [(3, { migrating := n })] } : State).vf 3).migrating = n) ∧
    (∀ r z, let s := evt { st .c b0 with dev := { State.reset.dev with escrow := [(3, escrowed r z)] } } { vf := 3 }
     s.dev.escrow.find? 3 = some (escrowed r z) ∧ (escrowed r z).ready = r ∧ (escrowed r z).erased = z ∧ sha512 s.cur.ev.bytes = (escrowed r z).digest ∧
       (escrowed r z).keys = [(9, 5, 1, false)] ∧ s.cur.ev.fromPf = false) ∧
    sha512 [1] ≠ (escrowed true true).digest := by
  refine ⟨fun x y => ⟨ready_sth rfl rfl, ready_sth rfl rfl, rfl⟩, by decide +kernel, by decide +kernel, by decide +kernel, rfl, by decide +kernel, ?_, ⟨by decide, rfl⟩,
    ⟨rfl, rfl, rfl, rfl, by decide, rfl⟩, ⟨rfl, rfl, by decide, by decide +kernel, by decide, rfl, rfl⟩, fun _ => rfl, fun _ _ => ⟨rfl, rfl, rfl, rfl, rfl, rfl⟩, by decide +kernel⟩
  obtain ⟨⟨b, s2⟩, h⟩ := good_ok (x := ((sth 511 0x10000 []).waited (hyper 511 0x10000)).readLines (hyper 511 0x10000) 64 2 0x10000) (by decide +kernel)
  exact ⟨b, s2, h⟩

/-- A scrub descriptor of unit 3 of core 5, and what a scrub of it and of a page of LPDDR-6 leave. -/
def scrubBytes : Memory := [(0x40000, 2), (0x40008, 0x83), (0x40009, 2), (0x40010, 1)]
def scrubbing (k a n : Nat) : State := evt { (stc .c b0 owned) with dram := [(0x40000, 7), (0x50000, 9)], scrubs := [⟨k, a, n, false, 0⟩] } {}
theorem test_scrub_of_a_page : after (exec .zscrubComplete (scrubbing 1 0x40000 1)) (fun t => t.dram == [(0x50000, 9)] && t.scrubs == [⟨1, 0x40000, 1, true, 0⟩]) = true := by decide +kernel
theorem test_scrub_of_a_unit : after (exec .zscrubComplete (scrubbing 2 643 1)) (fun t => ((t.core 5).owner.find? 3).isNone && ((t.core 5).owner.find? 2).isSome &&
    !(t.core 5).valid.getLsbD 3072 && (t.core 5).valid.getLsbD 3071) = true := by decide +kernel
/-- A descriptor that is malformed (all zeros), one that names unit 3 of core 5; a running scrub of each kind; stalls on a refusing target. -/
theorem witness_Scrubs :
    Ready (sth 0x10000 0 scrubBytes) { lvl := .h, regs := [.l 0] } (hyper 0x10000 0) (hyper 0x10000 0) ∧ (0x10010 : Word).toNat % 32 ≠ 0 ∧
    (∃ b1 s2, ((sth 0x10000 0 []).waited (hyper 0x10000 0)).readLines (hyper 0x10000 0) 32 1 0x10000 = .ok (b1, s2)) ∧ scrubRecord (List.replicate 32 0) = none ∧
    (∃ b1 s2, ((sth 0x10000 0 scrubBytes).waited (hyper 0x10000 0)).readLines (hyper 0x10000 0) 32 1 0x10000 = .ok (b1, s2)) ∧
    scrubRecord ((sth 0x10000 0 scrubBytes).readLoc (.mem 1 0 0x20000 0x40000 0) 32) = some (2, 643, 1) ∧ (sth 0x10000 0 scrubBytes).bank 5 0 = none ∧
    (∀ k ∈ [1, 2], (scrubbing k (if k = 1 then 0x40000 else 643) 1).scrubs = [] ++ ⟨k, if k = 1 then 0x40000 else 643, 1, false, 0⟩ :: [] ∧
      (scrubbing k (if k = 1 then 0x40000 else 643) 1).scrubWaits ⟨k, if k = 1 then 0x40000 else 643, 1, false, 0⟩ = false ∧
      ([] : List Scrub).length = (scrubbing k (if k = 1 then 0x40000 else 643) 1).cur.ev.idx) ∧
    (let b := { b0 with cS := { run with scrub := some ⟨1, targetNo 2 643, 0x3008⟩ } }
     let s := stc .c b fun c => { owned c with scrubbing := 8 }
     s.bank 5 1 = some b ∧ b.stopped = false ∧ b.ended = false ∧ b.cS.scrub = some ⟨1, targetNo 2 643, 0x3008⟩ ∧ s.refuses (targetNo 2 643) = true ∧
     (st .c b).refuses (targetNo 2 643) = false) ∧ b0.cS.scrub = none ∧
    (let r := { copied with refused := some ⟨1, targetNo 2 643, 0x3008⟩, stage := 0, status := none }
     let s := evt { stc .c b0 (fun c => { owned c with scrubbing := 8 }) with copies := [r] } { idx := 4, slot := 4 }
     s.copies.find? (·.id == s.cur.ev.slot) = some r ∧ r.refused = some ⟨1, targetNo 2 643, 0x3008⟩ ∧ s.refuses (targetNo 2 643) = true ∧ r.finished = false ∧ r.kind ≠ .dpfa) ∧
    (let o := { bop true with refused := some ⟨1, targetNo 2 643, 0x3008⟩ }
     let s := evt { stc .c b0 (fun c => { owned c with scrubbing := 8 }) with bankOps := [o] } { idx := 5, slot := 7 }
     s.bankOps.find? (·.issuer == s.cur.ev.slot) = some o ∧ s.refuses (targetNo 2 643) = true) ∧
    (∀ op ∈ [1, 3], let b := { bl 0x10000 2 0 0 with blst := { act := true, op := op, tseat := 2 } }
     let o := { bop (op == 1) with fault := some (12, 0x10040) }
     let s := { st .c b with bankOps := [o] }
     Ready s { lvl := .s, regs := [.l 0, .l 1] } b b ∧ o.raised = false ∧ s.opOf b.job = some o ∧ (b.getC (.l 0)).toNat % 65536 = 0 ∧
       seatFine (s.waited b) b (b.getC (.l 1)) ∧ b.blst.act = true ∧ b.blst.tseat = (b.getC (.l 1)).toNat % 4 ∧ b.blst.op = op) ∧
    (hyper 0x10000 0).cS.stage = .fresh ∧ (0x10000 : Word).toNat % 32 = 0 ∧
    (∃ z, ({ busy .c b0 with scrubs := [⟨2, 642, 1, false, 2⟩] } : State).scrubs.find? (·.mark == 2) = some z ∧
      ({ busy .c b0 with scrubs := [⟨2, 642, 1, false, 2⟩] } : State).scrubWaits z = true ∧
      ¬ ({ busy .c b0 with scrubs := [⟨2, 643, 1, false, 2⟩] } : State).scrubWaits ⟨2, 643, 1, false, 2⟩ = true) := by
  refine ⟨ready_sth rfl rfl, by decide, ?_, by decide +kernel, ?_, by decide +kernel, rfl, by decide, ⟨rfl, rfl, rfl, rfl, by decide, by decide⟩, rfl, ⟨rfl, rfl, by decide, by decide, by decide⟩,
    ⟨rfl, by decide⟩, fun op hop => ?_, rfl, rfl, ⟨_, rfl, by decide, by decide⟩⟩
  · obtain ⟨⟨b, s2⟩, h⟩ := good_ok (x := ((sth 0x10000 0 []).waited (hyper 0x10000 0)).readLines (hyper 0x10000 0) 32 1 0x10000) (by decide +kernel)
    exact ⟨b, s2, h⟩
  · obtain ⟨⟨b, s2⟩, h⟩ := good_ok (x := ((sth 0x10000 0 scrubBytes).waited (hyper 0x10000 0)).readLines (hyper 0x10000 0) 32 1 0x10000) (by decide +kernel)
    exact ⟨b, s2, h⟩
  · obtain rfl | rfl : op = 1 ∨ op = 3 := by simpa using hop
    all_goals
      refine ⟨⟨rfl, rfl, nofun, nofun, by unfold State.doWait; exact ite_self _, rfl, nofun, rfl⟩, rfl, rfl, by decide +kernel, ⟨by decide +kernel, .inr fun o ho => ?_⟩, rfl,
        by decide +kernel, rfl⟩
      rcases ho with h | h
      · exact absurd (show (none : Option Bank) = some o from h) nofun
      · exact absurd (show (none : Option Bank) = some o from h) nofun
/-- A failed node over page 2, which VF 3 maps at GPA 0x20000 with a page of 512 MiB under the second-stage root 0x10000. -/
def integrity : State := evt { st .c b0 with
  dram := [(0x10000, 1), (0x10002, 2), (0x20000, 0x0F)], parts := [(1, { clusters := 1, valid := true, s2root := 0x10000 })],
  vfs := [(3, { partition := 1, valid := true })], keys := [(0, ⟨0, 1, 0x7F, false, 0⟩)], integ := [⟨1, 2, 1, 0, []⟩] } { runs := [⟨3, 0x20000, 1⟩] }
theorem witness_SecondStageAndIntegrity :
    (0x12 : Word).toNat / 2 ^ 32 % 2 = 0 ∧ (0x100000012 : Word).toNat / 2 ^ 32 % 2 = 1 ∧
    (integrity.integ[integrity.cur.ev.idx]? = some ⟨1, 2, 1, 0, []⟩ ∧ integrity.cur.ev.runs.head? = some ⟨3, 0x20000, 1⟩ ∧
      integrity.runFits ⟨1, 2, 1, 0, []⟩ ⟨3, 0x20000, 1⟩ = true ∧ integrity.runFits ⟨1, 2, 1, 0, [(2, 3)]⟩ ⟨3, 0x20000, 1⟩ = false) ∧
    (st .c b0).nodeFits ⟨16, 5, 1, 0, []⟩ = false ∧
    (let s := evt { st .c b0 with acc := [{ pending with elems := [memElem] }] } { idx := 32, quad := 32, val := 6 }
     s.nodeFits ⟨6, 32, 32, 0, []⟩ = true ∧ s.nodeFits ⟨6, 48, 32, 0, []⟩ = false ∧ ∀ a ∈ s.acc, ∀ z ∈ a.elems, ∀ p m g pa k, z.loc = .mem p m g pa k → ¬ (s.cur.ev.idx ≤ s.homePa p m g pa / 65536 ∧ s.homePa p m g pa / 65536 < s.cur.ev.idx + s.cur.ev.quad)) := by
  refine ⟨by decide, by decide, ⟨rfl, rfl, by decide +kernel, by decide +kernel⟩, by decide, by decide, by decide, fun a ha z hz p m g pa k h => ?_⟩
  obtain rfl := List.mem_singleton.mp ha
  obtain rfl := List.mem_singleton.mp hz
  injection h with h1 h2 h3 h4 h5
  subst h1 h2 h3 h4 h5
  decide
theorem test_vf_reset_clears_the_vf :
    after (exec .vfReset (evt { two b0 { other with vf := 4 } with vfs := [(3, { partition := 1, reset := true })] } { vf := 3 })) (fun t =>
      (t.bank 5 1).isNone && (t.bank 6 0).isSome && (t.vf 3).reset == false) = true := by decide +kernel
def evicting (o : Bank) : State :=
  { ((st .c b0).setShadow 5 1 (.loaded o)) with dev := { State.reset.dev with resizing := [5] }, cur := { ev := { core := 5, seat := 1, quad := 1 } } }
theorem witness_Resets :
    (let s := evt { st .c b0 with vfs := [(3, { reset := true })] } { vf := 3 }
     (s.vf 3).reset = true ∧ s.coresOnce ∧ (s.vf 4).reset = false) ∧
    (∀ h ∈ ([⟨3, 1, 2, 0, 0, false⟩, ⟨3, 1, 2, 0, 0, true⟩, ⟨3, 1, 2, 0, 4, true⟩] : List HwSlot), (evt { st .c b0 with slots := [(129, h)] } { die := 2, slot := 1 }).slots.find? 129 = some h) ∧
    (let s := evt { st .c b0 with tier := [(5, slice5 [])], parts := [(1, { clusters := 1 })], vfs := [(3, { partition := 1 })] } { core := 5 }
     s.cur.ev.quad ≠ 1 ∧ 5 ∉ s.dev.resizing ∧ ∃ r ∈ (s.slice 5).regions, r.2.len ≠ 0 ∧ r.2.vf ≠ 0xFF ∧ s.coreInPart 5 (s.vf r.2.vf).partition = true) ∧
    5 ∈ (evicting b0).dev.resizing ∧ (((evicting b0).core 5).seat 1).live ≠ none ∧
    (∀ i, i < 4 → ((State.reset.core 5).seat i).live = none ∧ ((State.reset.core 5).seat i).shadow = .empty) ∧
    (let o := { other with evict := some 1 }
     (((evicting o).core 5).seat (evicting o).cur.ev.seat).shadow = .loaded o ∧ o.saving = false) :=
  ⟨⟨rfl, List.pairwise_singleton _ _, rfl⟩, by decide +kernel, ⟨by decide, by decide, _, List.mem_singleton.mpr rfl, by decide, by decide, rfl⟩, by decide, nofun, by decide +kernel, rfl, rfl⟩
theorem test_token_refill : after (exec .tokenRefill (evt (stc .c b0 fun c => { c with tokens := 65000 }) {})) (fun t => (t.core 5).tokens == 65536) = true := by decide
/-- TOKRATE at the ends of its range and outside; a thermal shutdown; a round that starts, one that is refilled, one that is not over. -/
theorem witness_TokensAndRounds :
    State.reset.dev.thermal = false ∧ ({ State.reset.dev with thermal := true } : Device).thermal = true ∧ 100 ≤ (100 : Word).toNat ∧ (4000 : Word).toNat ≤ 4000 ∧
    (99 : Word).toNat < 100 ∧ 4000 < (4001 : Word).toNat ∧ Engine.ofIdx 0 = some .c ∧ Engine.ofIdx 4 = some .d ∧
    (let s := { stc .c b0 fun c => c.setSched .c { c.sched .c with cyc := 256 } with vfs := [(3, { weight := 5 })] }
     ((s.core 5).sched .c).cyc % 256 = 0 ∧ ((s.core 5).sched .c).refilled = false ∧ 3 ∈ s.present 5 ∧ 0 < ((s.present 5).map fun v => (s.vf v).weight).sum) ∧
    (255 : Nat) % 256 ≠ 0 := by decide +kernel

/-! ## The host's windows and jobs -/

/-- An accepted and a refused write of each kind of descriptor, at the ends of the windows. -/
theorem test_descriptor_writes :
    after (exec .partitionDescWrite (evt State.reset { part := 19, quad := 3, val := 4096 })) (fun t => (t.part 19).pmtags == 4096 && t.pfRead (0x10000 + 256 * 19 + 24) == 4096) = true ∧
    after (exec .partitionDescWrite (evt State.reset { part := 19, quad := 3, val := 1 })) (fun t => (t.part 19).pmtags == 1) = true ∧
    after (exec .partitionDescWrite (evt State.reset { part := 19, quad := 3, val := 4097 })) (fun t => (t.part 19).pmtags == 4096) = true := by decide +kernel
theorem witness_Descriptors :
    (19 < 20 ∧ 11 < 32 ∧ PartAccepts State.reset 19 3 4096 ∧ ¬ PartAccepts State.reset 19 3 4097 ∧ PartAccepts State.reset 19 11 1 ∧ (State.reset.part 19).valid = false) ∧
    (95 < 96 ∧ VfAccepts State.reset 95 0 0x010000FF ∧ VfAccepts State.reset 95 4 65536 ∧ ¬ VfAccepts State.reset 95 1 1) ∧
    (evt State.reset { quad := 8 }).cur.ev.quad = 8 ∧ (1535 < 1536 ∧ RegionAccepts (State.reset.slice 1535) 15 0 0 ∧ RegionAccepts (State.reset.slice 1535) 15 1 65536 ∧ RegionAccepts (State.reset.slice 1535) 15 2 0x1FF005F ∧
      ¬ RegionAccepts (State.reset.slice 1535) 15 8 0) := by
  refine ⟨⟨by decide, by decide, ?_, ?_, ?_, rfl⟩, ⟨by decide, ?_, ⟨16, by decide, by decide, by decide⟩, fun h => absurd h.1 (by decide)⟩,
    rfl, ⟨by decide, ⟨by decide, .inl rfl, .inl rfl⟩, ⟨by decide, .inl rfl, .inr ⟨by decide, fun o ho => by cases (show o ∈ ([] : List (Nat × Region)) from ho)⟩⟩,
      ⟨by decide, by decide, by decide, .inl (by decide), .inl rfl⟩, fun h => h⟩⟩
  · show 1 ≤ 4096 ∧ 4096 ≤ 4096; decide
  · show ¬ (1 ≤ 4097 ∧ 4097 ≤ 4096); decide
  · show 1 < 2; decide
  · exact ⟨by decide, by decide, .inr ⟨by decide +kernel, .inl rfl⟩⟩
/-- A queue of 16 packets at GPA 0x20000 of VF 3. -/
def queue16 : SwQueue := { logsize := 4, en := true, base := 0x20000, wr := 1 }
def qword : Word := 0x2010000000020000
def withQueue (k : Nat) (q : SwQueue) (v : EventIn) : State := evt { stm .c b0 with vfs := [(3, { partition := 1, valid := true, queues := [(k, q)] })] } v
theorem test_qdoor : after (exec .qdoorWrite (withQueue 63 queue16 { vf := 3, idx := 63, val := 16 })) (fun t => ((t.vf 3).queues.get 63 {}).wr == 16) = true ∧
    after (exec .qdoorWrite (withQueue 63 queue16 { vf := 3, idx := 63, val := 17 })) (fun t => ((t.vf 3).queues.get 63 {}).wr == 1) = true := by decide +kernel
theorem witness_HostWindows :
    (0 < (2 ^ 20 - 1 : Nat) ∧ 256 ≤ (256 : Nat) ∧ (1535 : Nat) < 1536 ∧ 16 * 2 ^ 24 + 16 * 2 ^ 16 + 16 * 2 ^ 8 + 16 < 2 ^ 32 ∧ (64 : Nat) % 32 = 0) ∧
    (Machine.queueOf qword.toNat false = some { queue16 with wr := 0 } ∧ ((withQueue 62 queue16 { vf := 3, idx := 63, val := qword }).vf 3).queues.get 63 {} = {} ∧
      (withQueue 62 queue16 { vf := 3, idx := 63, val := qword }).enabled 0 < 4096) ∧
    (let s := withQueue 63 queue16 { vf := 3, idx := 63, val := qword &&& 0xFFEFFFFFFFFFFFFF }
     (s.vf 3).queues.find? 63 = some queue16 ∧ queue16.en = true ∧ queue16.busy = false ∧ ∃ q, Machine.queueOf s.cur.ev.val.toNat s.cur.ev.fromPf = some q ∧ q.en = false ∧ queue16.alike q = true) ∧
    Machine.queueOf 1 false = none ∧
    (let s := withQueue 4095 queue16 { vf := 3, val := 0xFFF00000010 }
     (s.vf 3).queues.find? (s.cur.ev.val.toNat / 2 ^ 32) = some queue16 ∧ 64 ≤ s.cur.ev.val.toNat / 2 ^ 32 ∧ s.cur.ev.val.toNat / 2 ^ 32 < 4096) ∧
    (0x100000000000 : Word).toNat / 2 ^ 44 ≠ 0 ∧ (0x1001 : Word).toNat % 4096 ≠ 0 := by
  refine ⟨by decide, ⟨by decide, rfl, by decide⟩, ⟨rfl, rfl, rfl, { queue16 with wr := 0, en := false }, by decide, rfl, by decide⟩, by decide, ⟨rfl, by decide, by decide⟩, by decide, by decide⟩

/-- The firmware runs and the first slot of die 0 holds the queue; its packet, and the record at GPA 0x20040, stand in memory `m`. -/
def dispatching (m : Memory) : State :=
  { withQueue 63 queue16 {} with dram := m, dev := { State.reset.dev with fwState := 2 }, slots := [(0, { vf := 3, queue := 63 })], parts := [(1, { clusters := 1, valid := true })] }
def packet (type rec_ : Nat) : Memory := [(0x40000, BitVec.ofNat 8 type), (0x40008, BitVec.ofNat 8 rec_), (0x40009, 0), (0x4000A, 2)].filter (·.2 != 0)
/-- A record of version 1 for seat 1 of core 5. -/
def record5 : Memory := [(0x40040, 1), (0x40046, 5), (0x40048, 1)]
theorem test_launch_waits_to_be_placed :
    after (exec .launch (dispatching (packet 1 0x40 ++ record5))) (fun t => t.launches.map (fun l => (l.vf, l.record.core, l.record.seat)) == [(3, some 5, some 1)] &&
      ((t.vf 3).queues.get 63 {}).busy) = true := by decide +kernel
/-- What a read of a record or of a table of nodes gives. -/
def readsNone {α : Type} (x : Except GpaStop (Option α)) : Bool := match x with | .ok none => true | _ => false
def readsStop {α : Type} (x : Except GpaStop (Option α)) : Bool := match x with | .error _ => true | _ => false
def readsSome {α : Type} (x : Except GpaStop (Option α)) (p : α → Bool) : Bool := match x with | .ok (some r) => p r | _ => false
/-- A table of one transform; a packet whose record or table lies where nothing is mapped. -/
def node1 : Memory := [(0x40040, 2), (0x40060, 0xFF), (0x40061, 0xFF)]
def lost (type : Nat) : Memory := [(0x40000, BitVec.ofNat 8 type), (0x40008, 0x40), (0x4000A, 0x10)]
theorem packet_head (m : Memory) (l : List Byte) (h : (dispatching m).head.1 = some (3, 63, queue16, l)) : HasPacket (dispatching m) 3 63 queue16 l (dispatching m).head.2 := some_fst h
/-- A NOP, a packet of type 3, a malformed one of each other type, a LAUNCH of a record and of none, a GRAPH of a bad node table and of a good one,
a LAUNCH and a GRAPH whose reading stops, an empty slot. -/
theorem witness_Launches :
    (∀ m ∈ [([] : Memory), packet 3 0, packet 1 1, packet 2 1, packet 1 0x40 ++ record5, packet 1 0x40, packet 2 0x40 ++ [(0x40040, 3)], packet 2 0x40 ++ node1, lost 1, lost 2], ∃ l, HasPacket (dispatching m) 3 63 queue16 l (dispatching m).head.2) ∧
    (let l (m : Memory) : List Byte := (dispatching m).readLoc (.mem 1 0 0x20000 0x40000 0) 64
     (PacketFine queue16 (l []) ∧ fieldOf (l []) 0 1 = 0) ∧ (¬ PacketFine queue16 (l (packet 3 0)) ∧ 2 < fieldOf (l (packet 3 0)) 0 1) ∧
     (¬ PacketFine queue16 (l (packet 1 1)) ∧ fieldOf (l (packet 1 1)) 0 1 = 1) ∧ (¬ PacketFine queue16 (l (packet 2 1)) ∧ fieldOf (l (packet 2 1)) 0 1 = 2) ∧
     (PacketFine queue16 (l (packet 1 0x40)) ∧ fieldOf (l (packet 1 0x40)) 8 8 = 0x20040) ∧ (PacketFine queue16 (l (packet 2 0x40)) ∧ fieldOf (l (packet 2 0x40)) 0 1 = 2)) ∧
    (∀ type ∈ [1, 2], let l := (dispatching (lost type)).readLoc (.mem 1 0 0x20000 0x40000 0) 64
     PacketFine queue16 l ∧ fieldOf l 0 1 = type ∧ fieldOf l 8 8 = 0x100040) ∧
    readsSome ((dispatching (packet 1 0x40 ++ record5)).head.2.readRecord 3 0 0x20040 false 0).1 (fun _ => true) = true ∧
    readsNone ((dispatching (packet 1 0x40)).head.2.readRecord 3 0 0x20040 false 0).1 = true ∧ readsStop ((dispatching (lost 1)).head.2.readRecord 3 0 0x100040 false 0).1 = true ∧
    readsNone ((dispatching (packet 2 0x40 ++ [(0x40040, 3)])).head.2.readNodes 1 3 256 0x20040).1 = true ∧
    readsStop ((dispatching (lost 2)).head.2.readNodes 1 3 256 0x100040).1 = true ∧
    readsSome ((dispatching (packet 2 0x40 ++ node1)).head.2.readNodes 1 3 256 0x20040).1
      (fun l => match l with | n :: ns => n.dep == 0 && !n.launch && ns.isEmpty | [] => false) = true ∧
    (dispatching (packet 2 0x40 ++ node1)).head.2.graphs = [] ∧ (evt State.reset {}).head = (none, evt State.reset {}) ∧
    (∃ f t, (dispatching []).stage2 1 3 0x20008 .write = (some f, t)) := by
  refine ⟨fun m hm => ?_, ?_, ?_, by decide +kernel, by decide +kernel, by decide +kernel, by decide +kernel, by decide +kernel, by decide +kernel, rfl, rfl, ?_⟩
  · have h : ∀ m ∈ [([] : Memory), packet 3 0, packet 1 1, packet 2 1, packet 1 0x40 ++ record5, packet 1 0x40, packet 2 0x40 ++ [(0x40040, 3)], packet 2 0x40 ++ node1, lost 1, lost 2],
        (dispatching m).head.1 = some (3, 63, queue16, (dispatching m).readLoc (.mem 1 0 0x20000 0x40000 0) 64) := by decide +kernel
    exact ⟨_, packet_head m _ (h m hm)⟩
  · unfold PacketFine; decide +kernel
  · unfold PacketFine; decide +kernel
  · obtain ⟨f, hf⟩ := Option.isSome_iff_exists.mp (show ((dispatching []).stage2 1 3 0x20008 .write).1.isSome = true by decide +kernel)
    exact ⟨f, _, some_fst hf⟩
def rec5 : JobRec := match ((dispatching (packet 1 0x40 ++ record5)).readRecord 3 0 0x20040 false 0).1 with | .ok (some r) => r | _ => default
def pend (t : Option (Nat × Nat)) : PendLaunch := { vf := 3, die := 0, record := { rec5 with seat := some 2 }, info := {}, target := t }
def placing (t : Option (Nat × Nat)) : State := { dispatching [] with launches := [pend t] }
theorem test_launch_is_placed : after (exec .launchPlace (placing none)) (fun t => ((t.core 5).seat 2).shadow == .loading none && t.launches.map (·.target) == [some (5, 2)]) = true := by
  decide +kernel
theorem test_shadow_loaded_goes_live : after (exec .shadowLoaded (placing (some (5, 2)))) (fun t => (t.bank 5 2).any (fun b => b.vf == 3 && b.cS.pc == 0) && t.launches == []) = true := by
  decide +kernel
/-- A launch with one open candidate, one with a candidate that is taken, and with none; its bank about to be loaded. -/
theorem witness_Launches_placed :
    (let s := placing none
     s.launches[s.cur.ev.idx]? = some (pend none) ∧ (pend none).record.reltick ≤ (s.part 1).tickno ∧ s.dev.fwState = 2 ∧
     (s.candidates 1 0 (pend none).record).filter (fun x => s.fitsSeat 3 (pend none).record x.1 x.2) = [] ++ (5, 2) :: [] ∧
     (((s.core 5).seat 2).shadow == .empty && !s.dev.resizing.contains 5) = true ∧ (pend none).info.graph = none) ∧
    (let s := (placing none).setShadow 5 2 (.loading none)
     (((s.core 5).seat 2).shadow == .empty && !s.dev.resizing.contains 5) = false) ∧
    (let s := { placing none with parts := [] }
     (s.candidates 1 0 (pend none).record).filter (fun x => s.fitsSeat 3 (pend none).record x.1 x.2) = []) := by decide +kernel
theorem witness_JobsAndGraphs :
    (let s := placing (some (5, 2))
     s.launches[s.cur.ev.idx]? = some (pend (some (5, 2))) ∧ (pend (some (5, 2))).target = some (5, 2) ∧ (s.bank 5 2).any (pend none).record.clashes = false ∧
     ∀ x ∈ (pend none).record.areas, ∀ u, u < 96 → (s.core 5).scrubbing.getLsbD u = false) ∧
    (let n : GraphNode := { launch := true, w1 := 0, w2 := 0, w3 := 0, dep := 0, succ := [1], ended := true, dispatched := true }
     let g : Graph := { id := 1, vf := 3, die := 0, info := {}, pf := false, nodes := [n, { n with dep := 1, ended := false }] }
     let s := { placing none with graphs := [g] }
     s.graphs[s.cur.ev.idx]? = some g ∧ g.nodes[s.cur.ev.quad]? = some n ∧ n.ended = true ∧ n.done = false ∧ (∀ z ∈ s.graphs, z.id = g.id → z.nodes.length ≤ 256) ∧
     ((s.startNodes g.id).graphs.find? (·.id == g.id)).isSome = true) ∧
    (∀ done ∈ [[], [(0, [1, 2, 3, 4, 5, 6, 7, 8])]], ∀ w3 ∈ [8, 64],
     let n : GraphNode := { launch := false, w1 := 0x10000, w2 := 0x10040, w3 := w3, dep := 0, succ := [], dispatched := true, read := done, written := if w3 = 64 then 254 else 0 }
     let g : Graph := { id := 1, vf := 3, die := 0, info := {}, pf := false, nodes := [n] }
     let s := { placing none with graphs := [g], tlb := [⟨1536, .d, 3, 0, 0x10000, false, 0x20213⟩] }
     s.graphs[s.cur.ev.idx]? = some g ∧ g.nodes[s.cur.ev.quad]? = some n ∧ n.ended = false ∧ n.dispatched = true ∧ n.launch = false ∧ g.s2stall = none ∧
     n.w1 % 8 = 0 ∧ n.w2 % 8 = 0 ∧ s.cur.ev.slot = 0 ∧ n.written.testBit 0 = false ∧ n.read.find? 0 = (if done = [] then none else some [1, 2, 3, 4, 5, 6, 7, 8]) ∧
     (∃ t s3, s.checkVa (s.cpCtx 3 0) 0x10040 1 0 { write := false, writes := false } = (.ok t, s3)) ∧
     (∃ t s3, s.checkVa (s.cpCtx 3 0) 0x10000 1 0 { write := true, writes := true, fullLine := decide (w3 = 64) } = (.ok t, s3) ∧ s3.lineTaken 0 .d t.loc = false) ∧
     ({ g with s2stall := some 4 } : Graph).s2stall ≠ none) ∧
    (let n : GraphNode := { launch := true, w1 := 0x20040, w2 := 0, w3 := 0, dep := 0, succ := [] }
     let g : Graph := { id := 1, vf := 3, die := 0, info := { queue := 63 }, pf := false, nodes := [n] }
     let s := { dispatching (packet 1 0x40 ++ record5) with graphs := [g] }
     s.graphs[s.cur.ev.idx]? = some g ∧ g.nodes[s.cur.ev.quad]? = some n ∧ n.launch = true ∧ n.dispatched = false ∧ n.dep = 0 ∧ g.s2stall = none ∧
     s.graphs.find? (·.id == g.id) = some g ∧
     readsSome (s.readRecord g.vf g.die n.w1 g.pf ((((s.vf g.vf).queues.find? g.info.queue).map (·.cls)).getD 0)).1 (fun _ => true) = true) ∧
    (let s := { dispatching [] with slots := [] }
     s.dev.fwState = 2 ∧ s.slots.find? 0 = none ∧ s.dev.slotClass 0 0 = some 0 ∧ s.longest 0 0 = some (3, 63, queue16) ∧ queue16.watch = false ∧
     (let d := { s with dev := { s.dev with slotshare := [(0, 0), (1, 0), (2, 0), (3, 0)] } }
      (∀ c, d.dev.slotClass 0 0 = some c → d.longest 0 c = none) ∧ d.spareClass 0 = some 0)) ∧
    (dispatching []).slots.find? 0 = some { vf := 3, queue := 63 } := by
  refine ⟨⟨rfl, rfl, rfl, fun x _ u _ => ?_⟩, by decide +kernel, fun done hd w3 hw => ?_, by decide +kernel, by decide +kernel, rfl⟩
  · exact BitVec.getLsbD_zero
  · obtain rfl | rfl : done = [] ∨ done = [(0, [1, 2, 3, 4, 5, 6, 7, 8])] := by simpa using hd
    all_goals
      obtain rfl | rfl : w3 = 8 ∨ w3 = 64 := by simpa using hw
      all_goals exact ⟨rfl, rfl, rfl, rfl, rfl, rfl, rfl, rfl, rfl, by decide, rfl, ⟨_, _, rfl⟩, ⟨_, _, rfl, rfl⟩, nofun⟩
theorem test_power_up : after (exec .powerUp (evt { State.reset with dev := { State.reset.dev with powered := false } } {})) (fun t => t.dev.powered && t.dev.fwState == 1 && t.dev.bootCount == 1) = true := by
  decide
theorem witness_Firmware :
    (0x100000001 : Word).toNat / 2 ^ 32 = 1 ∧ (0x210000000 : Word).toNat / 2 ^ 32 = 2 ∧ (0x210000000 : Word).toNat % 2 ^ 32 ≤ 2 ^ 28 ∧ State.reset.dev.busy = false ∧ State.reset.dev.fwState = 1 ∧
    (dispatching []).dev.fwState = 2 ∧ ({ (dispatching []).dev with updating := true } : Device).updating = true ∧ (∀ l ∈ (dispatching []).launches, l.target = none) ∧ (∀ g ∈ (dispatching []).graphs, g.partly = false) ∧
    (let d : Device := { State.reset.dev with powered := false }
     d.powered = false ∧ ({ State.reset.dev with checked := true } : Device).checked = true ∧
     ({ State.reset with dev := d, agenda := [.event .launch {}] } : State).agenda ≠ []) ∧
    ([Turn.event .launch {}].head? ≠ some (.event .powerUp {})) ∧ (evt State.reset { fromPf := true }).cur.ev.fromPf = true :=
  ⟨by decide, by decide, by decide, rfl, rfl, rfl, rfl, fun l h => (by cases (show l ∈ ([] : List PendLaunch) from h)),
    fun g h => (by cases (show g ∈ ([] : List Graph) from h)), ⟨rfl, rfl, nofun⟩, nofun, rfl⟩

/-! ## Decode and step -/

theorem witness_DecodeInvertsEncode : wf .c (.addi (.l 3) (.l 3) (-1)) = true ∧ wf .m (.steval 15 0) = true ∧ wf .v (.vfma 31 0 31 31 ⟨.fp32, .rne, true, true, true, true⟩) = true := by decide
theorem witness_OneMeaningPerWord :
    decode .c 0x4489184D30000005 = .ok (⟨.clr 4, .done 9⟩, .addi (.l 3) (.l 3) 5) ∧ (0x00C0000000000000 : Nat) / 2 ^ 54 % 4 = 3 ∧
    ((0x0100000000000000 : Nat) / 2 ^ 62 = 0 ∧ (0x0100000000000000 : Nat) / 2 ^ 56 % 64 ≠ 0) ∧ opAssigned .c 0xFF = false := ⟨rfl, by decide, by decide, by decide⟩
/-- Just after reset with an instruction laid at the place that is fetched: it is scheduled, its word decodes, and a step runs it. -/
def booted : State := State.reset.withFetchWord 64 0x0000184D30000005
theorem test_step_runs_the_word : after (step booted) (fun t => t.cores.any fun c => (c.2.seat 0).live.any fun b => b.cS.npc == b.cS.pc + 8) = true := by decide +kernel
theorem witness_StepIsExec :
    ∃ core v j e ts b, booted.dev.powered = true ∧ booted.agenda = .engine core e :: ts ∧ Chosen booted core e v j ∧ (booted.scheduled core e v j).bank core j = some b ∧
      b.mayRun e = true ∧ b.bad = [] ∧ e ≠ .d ∧ (b.ctl e).fetched = [] ∧ (booted.scheduled core e v j).fetchAt core (b.ctl e).pc = .word 0x0000184D30000005 ∧ decode e 0x0000184D30000005 = .ok (⟨.none, .none⟩, .addi (.l 3) (.l 3) 5) := by
  have h : (match (booted.scheduled 0 .c 0 0).bank 0 0 with
      | some b => b.mayRun .c && b.bad == [] && (b.ctl .c).fetched == [] && (booted.scheduled 0 .c 0 0).fetchAt 0 (b.ctl .c).pc == .word 0x0000184D30000005
      | none => false) = true := by decide +kernel
  split at h
  · rename_i b hb
    simp only [Bool.and_eq_true, beq_iff_eq] at h
    exact ⟨0, 0, 0, .c, [], b, rfl, rfl, (by unfold Chosen; decide +kernel), hb, h.1.1.1, h.1.1.2, by decide, h.1.2, h.2, rfl⟩
  · cases h
/-- A word at its stream's place with a register that is poisoned and one whose D stream has a copy that waits for the hypervisor; a word
fetched ahead. -/
theorem witness_AttemptRuns :
    (let s := stc .c b0 fun c => { c with valid := 3 <<< 66, sp := [(0x108, 5), (0x10B, 0x30), (0x10C, 0x4D), (0x10D, 0x18)] }
     s.bank 5 1 = some b0 ∧ b0.mayRun .c = true ∧ b0.bad = [] ∧ (b0.ctl .c).fetched = [] ∧ s.fetchAt 5 0x108 = .word 0x0000184D30000005 ∧
       b0.unsettled .c = false) ∧
    (let b := { b0 with bad := [.reg (.c (.l 3))] }
     b.consumesBad .c (.addi (.l 3) (.l 3) 5) = true ∧ b.unsettled .c = false) ∧
    (let b := { b0 with dS := { run with fetched := [(0x108, .word 5)] } }
     (b.ctl .d).fetched.find? (b.ctl .d).pc = some (.word 5) ∧ ∃ r ∈ [{ copied with s2stall := some 4 }], r.job = b.job ∧ r.s2stall ≠ none) := by decide +kernel
/-- Words that are not there yet, an uncorrectable one, one that does not decode; a core in which nothing is ready. -/
theorem witness_ChoiceAndFetch :
    (let s := st .c b0
     s.bank 5 1 = some b0 ∧ b0.mayRun .c = true ∧ (b0.ctl .c).fetched = [] ∧ (s.core 5).poison.getLsbD (0x108 / 4) = false ∧ (s.core 5).poison.getLsbD (0x108 / 4 + 1) = false ∧
     (s.core 5).valid.getLsbD (0x108 / 4) = false) ∧
    (let s := stc .c b0 fun c => { c with valid := 1 <<< 66 }
     (s.core 5).valid.getLsbD (0x108 / 4) = true ∧ (s.core 5).valid.getLsbD (0x108 / 4 + 1) = false) ∧
    (let s := stc .c b0 fun c => { c with valid := 3 <<< 66, sp := [(0x10E, 0xC0)] }
     s.fetchAt 5 0x108 = .word 0x00C0000000000000 ∧ whyNot .c 0x00C0000000000000 ≠ none) ∧
    ((stc .c b0 fun c => { c with poison := 1 <<< 67 }).core 5).poison.getLsbD (0x108 / 4 + 1) = true ∧
    (∀ w, ({ run with fetched := [(0x108, .uncorr 0x108)] } : Ctl).fetched.find? 0x108 ≠ some (.word w)) ∧
    ({ b0 with prods := [{ prodI with passed := true }] } : Bank).unsettled .m = true ∧
    State.reset.choose 5 .c false = none ∧ booted.choose 0 .c true = some (0, 0) := by
  refine ⟨⟨rfl, rfl, rfl, by decide +kernel⟩, by decide +kernel, by decide +kernel, by decide +kernel, nofun, by decide +kernel, by decide +kernel⟩
/-- Every form whose completion is stated on its own, in a small state: the witnesses of the groups named hold the other hypotheses
(`witness_PlainInstructions`, `witness_SpecialReads`, `witness_StreamsEnd`, `witness_Stitches`, `witness_Copies`, `witness_SpillEngine`,
`witness_Scrubs`). -/
theorem witness_FormsComplete :
    (Ready (st .c b0) {} b0 b0 ∧ (∀ a ∈ (st .c b0).acc, a.job ≠ b0.job) ∧ (st .c b0).cur.eng = .c) ∧
    (let b := { b0 with ssPart := true, cS := { run with stage := .second } }
     let s := { st .c b with parts := [(1, { ssReleased := [7] })] }
     Ready (st .c b) {} b b ∧ b.ssPart = true ∧ b.cS.stage = .second ∧ b.job ∈ (s.part b.part).ssReleased) ∧
    ((hyper 0x10000 0).cS.stage = .fresh ∧ scrubRecord ((sth 0x10000 0 [(0x40000, 1), (0x40010, 1)]).readLoc (.mem 1 0 0x20000 0x40000 0) 32) = some (1, 0, 1) ∧
      ∃ bytes s2, ((sth 0x10000 0 [(0x40000, 1), (0x40010, 1)]).waited (hyper 0x10000 0)).readLines (hyper 0x10000 0) 32 1 0x10000 = .ok (bytes, s2)) ∧
    (sb [] none).stitch.batch ≠ none ∧ ({ sb [] none with stitch := {} } : Bank).stitch.batch = none ∧ OwnsFile (sto { sb [] none with stitch := {} }) { sb [] none with stitch := {} } ∧
    (let s := stc .d filler owned
     CopyAccepts (s.waited filler) filler .dfill fill ∧ CopyRoom (s.waited filler) filler .dfill fill) ∧
    (let b := { spilling with spill := some (.spill 0) }
     (st .c b).bank 5 1 = some b ∧ b.older ≠ []) ∧
    (let s := st .c finished
     s.mayRetire 5 1 finished = true ∧ ((s.core 5).seat 1).shadow = .empty) ∧
    ((scrubbing 1 0x40000 1).scrubs = [⟨1, 0x40000, 1, false, 0⟩] ∧ (scrubbing 1 0x40000 1).scrubWaits ⟨1, 0x40000, 1, false, 0⟩ = false) ∧
    b0.hring.len ≠ 0 ∧ b0.handler = false := by
  refine ⟨⟨ready_st rfl nofun nofun nofun, fun a ha => (by cases (show a ∈ ([] : List Access) from ha)), rfl⟩, ⟨ready_st rfl nofun nofun nofun, rfl, rfl, by decide⟩,
    ⟨rfl, by decide +kernel, ?_⟩, nofun, rfl, ⟨rfl, rfl⟩, ⟨witness_Copies.1.2.2.1, witness_Copies.1.2.2.2.2.2⟩, ⟨rfl, nofun⟩, ⟨rfl, rfl⟩, ⟨rfl, by decide +kernel⟩, by decide, rfl⟩
  obtain ⟨⟨b, s2⟩, h⟩ := good_ok (x := ((sth 0x10000 0 [(0x40000, 1), (0x40010, 1)]).waited (hyper 0x10000 0)).readLines (hyper 0x10000 0) 32 1 0x10000) (by decide +kernel)
  exact ⟨b, s2, h⟩
theorem witness_InvariantKept : Inv booted ∧ ∃ t, step booted = .next t := by
  refine ⟨⟨rfl, rfl, by decide +kernel, by unfold State.coresOnce; decide +kernel⟩, ?_⟩
  cases h : step booted with
  | next t => exact ⟨t, rfl⟩
  | fault f => exact absurd (show after (step booted) (fun _ => true) = false by rw [h]; rfl) (by decide +kernel)
  | refused r => exact absurd (show after (step booted) (fun _ => true) = false by rw [h]; rfl) (by decide +kernel)

/-! ## Standard functions: the examples that their standards print -/

/-- The digest of "abc" (FIPS 180-4). -/
theorem test_sha512 : sha512 [0x61, 0x62, 0x63] = BitVec.ofNat 512 (leNat (beBytes
    0xddaf35a193617abacc417349ae20413112e6fa4e89a97ea20a9eeee64b55d39a2192992a274fc1a836ba3c23a3feebbd454d4423643ce80e2a9ac94fa54ca49f
    64)) := by decide +kernel
/-- The example of AES-256 (FIPS 197, C.3). -/
theorem test_aes : aesEncrypt (List.range 32) ((List.range 16).map (· * 17)) =
    (beBytes 0x8ea2b7ca516745bfeafc49904b496089 16).map (·.toNat) := by decide +kernel
theorem test_aes_inverse : aesDecrypt (List.range 32) ((beBytes 0x8ea2b7ca516745bfeafc49904b496089 16).map (·.toNat)) =
    (List.range 16).map (· * 17) := by decide +kernel

end Sys2Proof.Tests
end

section
/-! SUPPORT. What the machine holds after reset (R21, R46, R302, R344, R365, R378), and that it meets the invariant: O60. -/
namespace Sys2Proof.Machine

/-- No core is listed at reset, so each one is as after power-up. -/
@[simp] theorem reset_core (c : Nat) : State.reset.core c = Core.reset := rfl
@[simp] theorem reset_slice (c : Nat) : State.reset.slice c = {} := rfl
@[simp] theorem reset_part (p : Nat) : State.reset.part p = {} := rfl
@[simp] theorem Core.seat_reset (i : Nat) : Core.reset.seat i = Seat.reset := by simp [Core.seat, Core.reset]

theorem resetValues : Claim.ResetValues := by
  refine ⟨fun c i => ?_, fun c => ?_, fun p => ⟨rfl, rfl, rfl⟩, rfl, rfl, rfl⟩
  · rw [State.bank, reset_core, Core.seat_reset]
    exact ⟨rfl, rfl⟩
  · rw [reset_core, reset_slice]
    exact ⟨rfl, rfl, rfl, rfl, rfl, rfl⟩

theorem inv_reset : Inv State.reset := by
  obtain ⟨hdram, hhost, -⟩ := reset_wf
  exact ⟨hdram, hhost, List.forall_mem_nil _, List.forall_mem_nil _, List.Pairwise.nil⟩

/-- Settles O60: no core, partition, access or request is listed at reset, so each reads as its default. -/
theorem afterReset : Obligations.AfterReset := ⟨resetValues, inv_reset⟩

end Sys2Proof.Machine
end

section
/-! SUPPORT. What the reads of the command processors leave, and which operations leave the table of graphs alone. -/
namespace Sys2Proof.Machine

/-! ## What the reads of the command processors leave -/

/-- What translations may change, written out: another TLB and another LLC. -/
theorem Looked.exists_eq {s t : State} (h : Looked s t) : ∃ a b, t = { s with tlb := a, llc := b } :=
  ⟨t.tlb, t.llc, by rw [← h]⟩
theorem Looked.graphs {s t : State} (h : Looked s t) : t.graphs = s.graphs := by
  have := congrArg State.graphs h; exact this

/-- A read of the command processor makes LLC entries and changes nothing else (R136, R369). -/
theorem readGpa_looked (s : State) (part vf fuel gpa n : Nat) : Looked s (s.readGpa part vf fuel gpa n).2 := by
  induction fuel generalizing s gpa n with
  | zero => rfl
  | succ fuel ih =>
    unfold State.readGpa
    refine ite_looked rfl ?_
    dsimp only
    have h := stage2_looked s part vf gpa .read
    generalize s.stage2 part vf gpa .read = r at h
    obtain ⟨_ | f, t⟩ := r
    · exact h
    dsimp only at h ⊢
    split
    · exact h
    · have hrest := h.trans (ih t (gpa + Nat.min n (64 - gpa % 64)) (n - Nat.min n (64 - gpa % 64)))
      generalize t.readGpa part vf fuel _ _ = r at hrest
      obtain ⟨_ | l, u⟩ := r <;> exact hrest
    · exact h

theorem Looked.of_readGpa {s t u : State} {part vf fuel gpa n : Nat} {r : Except GpaStop (List Byte)}
    (h : Looked s t) (e : t.readGpa part vf fuel gpa n = (r, u)) : Looked s u := by
  have := h.trans (readGpa_looked t part vf fuel gpa n)
  rwa [e] at this

theorem recSections_looked (s : State) (part vf gpa : Nat) (h : List Byte) (r : JobRec) :
    Looked s (s.recSections part vf gpa h r).2 := by
  unfold State.recSections
  dsimp only
  refine ite_looked rfl ?_
  split
  · exact Looked.of_readGpa rfl ‹_›
  have h0 := Looked.of_readGpa (.refl s) ‹_›
  split
  · exact h0.of_readGpa ‹_›
  have h1 := h0.of_readGpa ‹_›
  split
  · exact h1.of_readGpa ‹_›
  have h2 := h1.of_readGpa ‹_›
  split
  · exact h2.of_readGpa ‹_›
  have h3 := h2.of_readGpa ‹_›
  split
  · exact ite_looked h3 h3
  · exact h3

/-- The reading and checking of a job record makes LLC entries and changes nothing else. -/
theorem readRecord_looked (s : State) (vf die gpa : Nat) (pf : Bool) (cls : Nat) :
    Looked s (s.readRecord vf die gpa pf cls).2 := by
  unfold State.readRecord
  dsimp only
  refine ite_looked rfl ?_
  split
  · exact Looked.of_readGpa rfl ‹_›
  have h := Looked.of_readGpa (.refl s) ‹_›
  split
  · exact h
  · exact ite_looked h (h.trans (recSections_looked ..))

/-! ## Graphs: what leaves their table alone -/

@[simp] theorem materialise_graphs (s : State) (part m gpa pa key : Nat) : (s.materialise part m gpa pa key).graphs = s.graphs := by
  unfold State.materialise
  dsimp only
  split
  · rfl
  · split
    · exact (holdCell_looked _ part m gpa).graphs
    · rfl
@[simp] theorem writeLoc_graphs (s : State) (l : Loc) (bs : List Byte) : (s.writeLoc l bs).graphs = s.graphs := by
  cases l with
  | mem part m gpa pa key =>
    exact (holdCell_looked _ part m gpa).graphs.trans (materialise_graphs s part m gpa pa key)
  | sp _ _ => rfl
  | wt _ _ => rfl
@[simp] theorem reportPf_graphs (s : State) (r : Report) : (s.reportPf r).graphs = s.graphs := by
  unfold State.reportPf
  dsimp only
  split <;> rfl
@[simp] theorem completionWord_graphs (s : State) (vf part : Nat) (i : JobInfo) (status : Nat) :
    (s.completionWord vf part i status).graphs = s.graphs := by
  unfold State.completionWord State.putWord
  dsimp only
  split
  · rfl
  have h := (stage2_looked s part vf i.cmpl .write).graphs
  generalize s.stage2 part vf i.cmpl .write = r at h
  obtain ⟨_ | f, t⟩ := r
  · simpa using h
  · dsimp only at h ⊢
    split <;> simpa [State.fireVf] using h
@[simp] theorem packetDone_graphs (s : State) (vf k : Nat) : (s.packetDone vf k).graphs = s.graphs := by
  unfold State.packetDone
  split
  · rfl
  dsimp only
  split
  · rfl
  split
  · split <;> rfl
  · rfl

end Sys2Proof.Machine
end

section
/-! SUPPORT. Graphs (R375): the dispatch of their nodes, and what GRAPH_NODE_COMPLETE does to a node. -/
namespace Sys2Proof.Machine

/-! ## The dispatch of a graph's nodes (R375) -/

/-- The graph of a number. -/
def State.graph? (s : State) (id : Nat) : Option Graph := s.graphs.find? (·.id == id)

/-- A change that every graph of a number takes and that keeps the number is seen in the graph of that number. -/
theorem find?_map_graphs (l : List Graph) (id : Nat) (f : Graph → Graph) (hf : ∀ g, g.id = id → (f g).id = id) :
    (l.map fun x => if x.id = id then f x else x).find? (·.id == id) = (l.find? (·.id == id)).map f := by
  induction l with
  | nil => rfl
  | cons g l ih =>
    by_cases h : g.id = id
    · simp [h, hf g h]
    · simpa [h] using ih

/-- A graph that ends is in the table no more. -/
theorem graph?_endGraph (s : State) (g : Graph) (status : Nat) : (s.endGraph g status).graph? g.id = none := by
  simp [State.graph?, State.endGraph]

/-- What the attempt to dispatch node `i` can leave of a graph `g` that does not end by it: the graph as it was, when it has stalled or
node `i` is no transform that may be dispatched; the graph stalled; the graph with node `i` dispatched. -/
inductive NodeTried (i : Nat) (g : Graph) : Graph → Prop
  | same (h : g.s2stall = none → ∀ n, g.nodes[i]? = some n → n.launch = false → n.dep = 0 → n.dispatched = true) : NodeTried i g g
  | stalled (seq : Nat) : NodeTried i g { g with s2stall := some seq }
  | sent (n : GraphNode) (h : g.nodes[i]? = some n) : NodeTried i g { g with nodes := g.nodes.set i { n with dispatched := true } }

theorem graph?_startNode {s : State} {id i : Nat} {g' : Graph} (h : (s.startNode id i).graph? id = some g') :
    ∃ g, s.graph? id = some g ∧ NodeTried i g g' := by
  unfold State.startNode at h
  split at h
  next hg => exact absurd (hg.symm.trans h) nofun
  next g hg =>
  have hid : g.id = id := by simpa using List.find?_some hg
  refine ⟨g, hg, ?_⟩
  have keep (t : State) (ht : t.graphs = s.graphs) (e : t.graph? id = some g') : g' = g := by
    rw [State.graph?, ht, hg] at e; exact (Option.some.inj e).symm
  have upd (t : State) (f : Graph → Graph) (hf : ∀ g, (f g).id = g.id) (ht : t.graphs = s.graphs)
      (e : (t.graphs.map fun x => if x.id = id then f x else x).find? (·.id == id) = some g') : g' = f g := by
    rw [find?_map_graphs _ _ _ (fun g hg => (hf g).trans hg), ht, hg] at e; exact (Option.some.inj e).symm
  split at h
  next hn =>
    obtain rfl := keep s rfl h
    exact .same fun _ n e => by simp [hn] at e
  next n hn =>
  dsimp only at h
  split at h
  next hc =>
    obtain rfl := keep s rfl h
    refine .same fun hs m hm _ hdep => ?_
    obtain rfl : m = n := by simpa [hn] using hm.symm
    simpa [hs, hdep] using hc
  next =>
  split at h
  next hl =>
    have same : NodeTried i g g := .same fun _ m hm hm' _ => by simp_all
    have hr := (readRecord_looked s g.vf g.die n.w1 g.pf ((((s.vf g.vf).queues.find? g.info.queue).map (·.cls)).getD 0)).graphs
    generalize s.readRecord g.vf g.die n.w1 g.pf _ = r at h hr
    obtain ⟨(_ | _ | _) | _ | rec, t⟩ := r
    case error.stage2 gpa =>
      obtain rfl := upd _ _ (by intro g; rfl) ((reportPf_graphs ..).trans hr) h
      exact .stalled _
    case error.refuse => obtain rfl := keep t hr h; exact same
    case error.bad => obtain rfl := keep t hr h; exact same
    case ok.none => rw [← hid, graph?_endGraph] at h; cases h
    case ok.some =>
      obtain rfl := upd _ _ (by intro g; rfl) (by exact hr) h
      exact .sent n hn
  next =>
    obtain rfl := upd s _ (by intro g; rfl) rfl h
    exact .sent n hn

/-- Unless the graph of a number has stalled, it has at most 256 nodes, and each transform among its first `k` nodes whose predecessors
have all ended is dispatched. -/
def State.sentBelow (s : State) (id k : Nat) : Prop :=
  ∀ g, s.graph? id = some g → g.s2stall = none →
    g.nodes.length ≤ 256 ∧ ∀ j x, j < k → g.nodes[j]? = some x → x.launch = false → x.dep = 0 → x.dispatched = true

theorem startNode_sentBelow {s : State} {id i : Nat} (h : s.sentBelow id i) : (s.startNode id i).sentBelow id (i + 1) := by
  intro g' hg' hs
  obtain ⟨g, hg, ht⟩ := graph?_startNode hg'
  cases ht with
  | same hi =>
    obtain ⟨hlen, hsent⟩ := h _ hg hs
    refine ⟨hlen, fun j x hj hx hl hd => ?_⟩
    obtain hj | rfl := Nat.lt_succ_iff_lt_or_eq.mp hj
    · exact hsent j x hj hx hl hd
    · exact hi hs x hx hl hd
  | stalled seq => cases hs
  | sent n hn =>
    obtain ⟨hlen, hsent⟩ := h _ hg hs
    refine ⟨by simpa using hlen, fun j x hj hx hl hd => ?_⟩
    by_cases hji : i = j
    · subst hji
      obtain ⟨-, rfl⟩ : i < g.nodes.length ∧ { n with dispatched := true } = x := by simpa [List.getElem?_set] using hx
      rfl
    · rw [List.getElem?_set_ne hji] at hx
      exact hsent j x (by omega) hx hl hd

/-- One round over the nodes dispatches every transform whose counter is 0. -/
theorem startNodes_sentBelow {s : State} {id : Nat} (h : s.sentBelow id 0) : (s.startNodes id).sentBelow id 256 := by
  have rounds (k : Nat) : ((List.range k).foldl (fun s i => s.startNode id i) s).sentBelow id k := by
    induction k with
    | zero => exact h
    | succ k ih => rw [List.range_succ, List.foldl_append]; exact startNode_sentBelow ih
  exact rounds 256

/-! ## GRAPH_NODE_COMPLETE (R192, R375) -/

/-- Node `i` of the graphs of a number, replaced. -/
def State.setNode (s : State) (id i : Nat) (n : GraphNode) : State :=
  { s with graphs := s.graphs.map fun (x : Graph) => if x.id = id then { x with nodes := x.nodes.set i n } else x }

/-- The nodes of a graph once node `i` has ended: it is done, and its successors' counters are lower by one each time it names them. -/
def Graph.nodesAfter (g : Graph) (i : Nat) (n : GraphNode) : List GraphNode :=
  (g.nodes.set i { n with done := true }).mapIdx fun j (x : GraphNode) => { x with dep := x.dep - (n.succ.filter (· == j)).length }
def State.withNodes (s : State) (id : Nat) (nodes : List GraphNode) : State :=
  { s with graphs := s.graphs.map fun (x : Graph) => if x.id = id then { x with nodes := nodes } else x }

section
variable {s : State} {g : Graph} {n : GraphNode} (hg : s.graphs[s.cur.ev.idx]? = some g) (hn : g.nodes[s.cur.ev.quad]? = some n)
include hg hn

/-- The attempt on a node, by what the node is. -/
theorem exec_graphNodeComplete : exec .graphNodeComplete s = .next (
    if n.launch && !n.dispatched then s.startNode g.id s.cur.ev.quad
    else if n.dispatched && !n.launch && !n.ended then (if g.s2stall.isSome then s else s.transform g s.cur.ev.quad n s.cur.ev.slot)
    else if !n.ended || n.done then s
    else if (g.nodesAfter s.cur.ev.quad n).all (·.done) then (s.withNodes g.id (g.nodesAfter s.cur.ev.quad n)).endGraph g 0
    else (s.withNodes g.id (g.nodesAfter s.cur.ev.quad n)).startNodes g.id) := by
  change execGraphNodeComplete s = _
  unfold execGraphNodeComplete
  simp only [hg, hn, apply_ite Host.Outcome.next]
  rfl

theorem exec_node_idle (h : n.launch = false ∨ n.dispatched = true)
    (hd : n.ended = true ∧ n.done = true ∨ n.ended = false ∧ (n.dispatched = false ∨ n.launch = true)) :
    exec .graphNodeComplete s = .next s := by
  rw [exec_graphNodeComplete hg hn, if_neg (by obtain h | h := h <;> simp [h])]
  obtain ⟨he, hd⟩ | ⟨he, hd⟩ := hd
  · rw [if_neg (by simp [he]), if_pos (by simp [hd])]
  · rw [if_neg (by obtain hd | hd := hd <;> simp [hd]), if_pos (by simp [he])]
theorem exec_node_launch (hl : n.launch = true) (hd : n.dispatched = false) :
    exec .graphNodeComplete s = .next (s.startNode g.id s.cur.ev.quad) := by
  rw [exec_graphNodeComplete hg hn, if_pos (by simp [hl, hd])]
theorem exec_node_transform (he : n.ended = false) (hd : n.dispatched = true) (hl : n.launch = false) :
    exec .graphNodeComplete s = .next (if g.s2stall.isSome then s else s.transform g s.cur.ev.quad n s.cur.ev.slot) := by
  rw [exec_graphNodeComplete hg hn, if_neg (by simp [hl]), if_pos (by simp [he, hd, hl])]
theorem exec_node_ended (he : n.ended = true) (hd : n.done = false) (h : n.launch = false ∨ n.dispatched = true) :
    exec .graphNodeComplete s = .next (
      if (g.nodesAfter s.cur.ev.quad n).all (·.done) then (s.withNodes g.id (g.nodesAfter s.cur.ev.quad n)).endGraph g 0
      else (s.withNodes g.id (g.nodesAfter s.cur.ev.quad n)).startNodes g.id) := by
  rw [exec_graphNodeComplete hg hn, if_neg (by obtain h | h := h <;> simp [h]), if_neg (by simp [he]), if_neg (by simp [he, hd])]
end

/-- A launch whose predecessors have ended is read and checked, and dispatched when its record is accepted. -/
theorem startNode_launch {s t : State} {g : Graph} {i : Nat} {n : GraphNode} {r : JobRec} (hg : s.graph? g.id = some g)
    (hn : g.nodes[i]? = some n) (hl : n.launch = true) (hd : n.dispatched = false) (hdep : n.dep = 0) (hs : g.s2stall = none)
    (hr : s.readRecord g.vf g.die n.w1 g.pf ((((s.vf g.vf).queues.find? g.info.queue).map (·.cls)).getD 0) = (.ok (some r), t)) :
    s.startNode g.id i = State.setNode { t with launches := t.launches ++ [{ vf := g.vf, die := g.die, record := r, info :=
      { g.info with cmpl := 0, deadTick := r.deadtick, graph := some (g.id, i) } }] } g.id i { n with dispatched := true } := by
  unfold State.graph? at hg
  simp only [State.startNode, hg, hn, hl, hd, hdep, hs, hr, State.setNode]
  rfl

theorem copied_eq_decide (n : GraphNode) : n.copied = decide (∀ q, q < n.units → n.written.testBit q = true) := by
  rw [Bool.eq_iff_iff]; simp [GraphNode.copied]
theorem holdsLine_eq_decide (n : GraphNode) (a : Nat) :
    n.holdsLine a = decide (n.w1 ≤ a / 64 * 64 ∧ a / 64 * 64 + 64 ≤ n.w1 + n.w3) := by
  simp [GraphNode.holdsLine]

/-- A piece that has not been read is read. -/
theorem transform_read {s s3 : State} {g : Graph} {i p : Nat} {n : GraphNode} {t : Target} (hp : p < n.units)
    (hw : n.written.testBit p = false) (hr : n.read.find? p = none)
    (hc : s.checkVa (s.cpCtx g.vf g.die) (BitVec.ofNat 64 (n.w2 + n.unit * p)) 1 0 { write := false, writes := false } = (.ok t, s3)) :
    s.transform g i n p =
      s3.setNode g.id i { n with read := n.read.put p (s3.viewAt 5 t.loc (Nat.min n.unit (n.w3 - n.unit * p))) } := by
  simp [State.transform, hw, hr, hc, Nat.not_le.mpr hp, State.setNode]

/-- A node once piece `p` is written. -/
def GraphNode.wrote (n : GraphNode) (p : Nat) : GraphNode := { n with read := n.read.del p, written := n.written ||| 2 ^ p }
/-- The line at `a` is all of the transform's destination, and all its pieces in it are written. -/
def GraphNode.lineWritten (n : GraphNode) (a : Nat) : Bool :=
  n.holdsLine a && (List.range n.units).all fun q => (n.w1 + n.unit * q) / 64 != a / 64 || n.written.testBit q
theorem lineWritten_iff (n : GraphNode) (a : Nat) : n.lineWritten a = true ↔
    (n.w1 ≤ a / 64 * 64 ∧ a / 64 * 64 + 64 ≤ n.w1 + n.w3) ∧
      ∀ q, q < n.units → (n.w1 + n.unit * q) / 64 = a / 64 → n.written.testBit q = true := by
  simp [GraphNode.lineWritten, holdsLine_eq_decide, Decidable.or_iff_not_imp_left]

/-- A piece that has been read is written; the last piece of a whole line completes it. -/
theorem transform_write {s s3 : State} {g : Graph} {i p : Nat} {n : GraphNode} {t : Target} {l : List Byte} (hp : p < n.units)
    (hw : n.written.testBit p = false) (hr : n.read.find? p = some l)
    (hc : s.checkVa (s.cpCtx g.vf g.die) (BitVec.ofNat 64 (n.w1 + n.unit * p)) 1 0
      { write := true, writes := true, fullLine := n.holdsLine (n.w1 + n.unit * p) } = (.ok t, s3))
    (ht : s3.lineTaken 0 .d t.loc = false) :
    s.transform g i n p = State.setNode
      (if (n.wrote p).lineWritten (n.w1 + n.unit * p) = true then (s3.writeLoc t.loc l).wholeLine t.loc else s3.writeLoc t.loc l)
      g.id i { n.wrote p with ended := (n.wrote p).copied } := by
  simp only [State.transform, hw, hr, hc, ht, Nat.not_le.mpr hp, decide_false, Bool.or_false, Bool.false_eq_true, if_false]
  rfl

/-! ### The statement -/

theorem graphProgress : Claim.GraphProgress := by
  intro s g n hg hn nodes s1 s2 c set p size pieces dst
  refine ⟨exec_node_idle hg hn, fun t r hl hd hdep hs hgr hr => ?_, fun he hd hl => ⟨fun hs => ?_, fun t s3 hs hp hw hr hc => ?_,
    fun l t s3 hs hp hw hr hc ht => ?_⟩, fun he hd hwait => ⟨fun hall => ?_, fun hall => ?_⟩, fun m hlen hm hs x hx hl hd => ?_⟩
  · rw [exec_node_launch hg hn hl hd, startNode_launch hgr hn hl hd hdep hs hr]
    rfl
  · rw [exec_node_transform hg hn he hd hl, if_pos (Option.isSome_iff_ne_none.mpr hs)]
  · rw [exec_node_transform hg hn he hd hl, if_neg (by simp [hs]), transform_read hp hw hr hc]
    rfl
  · have hline := lineWritten_iff (n.wrote p) dst
    have hexec : exec .graphNodeComplete s = .next (set
        (if (n.wrote p).lineWritten dst then (s3.writeLoc t.loc l).wholeLine t.loc else s3.writeLoc t.loc l)
        { n.wrote p with ended := decide (∀ q, q < pieces → (n.wrote p).written.testBit q = true) }) := by
      rw [exec_node_transform hg hn he hd hl, if_neg (by simp [hs]),
        transform_write hp hw hr (by rw [holdsLine_eq_decide]; exact hc) ht, copied_eq_decide]
      rfl
    exact ⟨_, fun h => if_pos (hline.mpr h), fun h => if_neg (mt hline.mp h), hexec⟩
  · have hall : (g.nodesAfter s.cur.ev.quad n).all (·.done) = true := hall
    rw [exec_node_ended hg hn he hd hwait, if_pos hall]
    rfl
  · have hall : (g.nodesAfter s.cur.ev.quad n).all (·.done) = false := hall
    rw [exec_node_ended hg hn he hd hwait, hall]
    rfl
  · have hstart : s.sentBelow g.id 0 := fun z hz _ =>
      ⟨hlen z (List.mem_of_find?_eq_some hz) (by simpa using List.find?_some hz), nofun⟩
    obtain ⟨hlen, hsent⟩ := startNodes_sentBelow hstart m hm hs
    obtain ⟨j, hj, rfl⟩ := List.getElem_of_mem hx
    exact hsent j _ (by omega) (List.getElem?_eq_getElem hj) hl hd

end Sys2Proof.Machine
end

section
/-! SUPPORT. Loading the bank of a placed launch (R14, R108, R373, R374). -/
namespace Sys2Proof.Machine

/-! ## A placed launch's bank (R108, R373, R374) -/

/-- What writes to scratchpad leave: every core but for the bytes of its scratchpad and their valid and poison bits, and all that is no
core's. -/
structure SpWritten (s t : State) : Prop where
  cores : ∀ c, { t.core c with sp := (s.core c).sp, valid := (s.core c).valid, poison := (s.core c).poison } = s.core c
  rest : { t with cores := s.cores } = s

theorem SpWritten.refl (s : State) : SpWritten s s := ⟨fun _ => rfl, rfl⟩
theorem SpWritten.trans {s t u : State} (h : SpWritten s t) (h' : SpWritten t u) : SpWritten s u where
  cores c := by rw [← h.cores c, ← h'.cores c]
  rest := by rw [← h.rest, ← h'.rest]
theorem writeLoc_spWritten (s : State) (core off : Nat) (bs : List Byte) : SpWritten s (s.writeLoc (.sp core off) bs) where
  cores c := by
    by_cases h : core = c
    · subst h; simp only [State.writeLoc, State.core_setCore]
    · simp only [State.writeLoc, State.core_setCore_ne _ _ h]
  rest := rfl

theorem SpWritten.bank {s t : State} (h : SpWritten s t) (c i : Nat) : t.bank c i = s.bank c i := by
  have := congrArg (fun k => (k.seat i).live) (h.cores c); exact this
theorem SpWritten.mo {s t : State} (h : SpWritten s t) (c : Nat) : (t.core c).mo = (s.core c).mo := by
  have := congrArg Core.mo (h.cores c); exact this
theorem SpWritten.dram {s t : State} (h : SpWritten s t) : t.dram = s.dram := by
  have := congrArg State.dram h.rest; exact this
theorem SpWritten.launches {s t : State} (h : SpWritten s t) : t.launches = s.launches := by
  have := congrArg State.launches h.rest; exact this
theorem SpWritten.cur {s t : State} (h : SpWritten s t) : t.cur = s.cur := by
  have := congrArg State.cur h.rest; exact this

/-- The six rings of a record written to the scratchpad of core `c`, each at its place. -/
def State.writeRings (s : State) (c : Nat) (r : JobRec) : State :=
  (List.range 6).foldl (fun (s : State) i =>
    s.writeLoc (.sp c ((r.rings[i]?).getD ⟨0, 0⟩).base) ((r.words i).flatMap fun w => leBytes w.toNat 8)) s
theorem writeRings_spWritten (s : State) (c : Nat) (r : JobRec) : SpWritten s (s.writeRings c r) :=
  List.foldlRecOn (motive := SpWritten s) _ _ (.refl s) fun _ h _ _ => h.trans (writeLoc_spWritten ..)

/-- The areas of a record that a scrub makes wait (R355, R356). -/
def State.refusesAreas (s : State) (c : Nat) (r : JobRec) : Bool :=
  r.areas.any fun (a, n, _) => (List.range 96).any fun u =>
    (s.core c).scrubbing.getLsbD u && meets (4096 * u) (4096 * (u + 1)) a n
theorem refusesAreas_iff (s : State) (c : Nat) (r : JobRec) : s.refusesAreas c r = true ↔
    ∃ x ∈ r.areas, ∃ u, u < 96 ∧ (s.core c).scrubbing.getLsbD u = true ∧ 4096 * u < x.1 + x.2.1 ∧ x.1 < 4096 * (u + 1) := by
  simp only [State.refusesAreas, List.any_eq_true, List.mem_range, Bool.and_eq_true, meets, decide_eq_true_eq]
  refine exists_congr fun x => and_congr_right fun _ => exists_congr fun u => and_congr_right fun _ => and_congr_right fun _ => ?_
  exact and_comm

/-- The bank of a placed launch, with number `job`, in the shadow of its seat: the record's units are labelled, the launch is no longer
pending. -/
def State.seatLaunch (s : State) (job : Nat) (l : PendLaunch) (c i : Nat) : State :=
  let s1 := s.setCore c { s.core c with mo := (s.core c).mo ||| l.record.mo }
  let s2 := { s1 with launches := s1.launches.eraseIdx s1.cur.ev.idx }
  s2.setShadow c i (.loaded (l.record.bank job l.vf (s2.vf l.vf).partition l.info))
/-- The machine once a placed launch is loaded: it has a number, its rings stand in scratchpad, its bank in the shadow. -/
def State.loadBank (s : State) (l : PendLaunch) (c i : Nat) : State :=
  ({ s with nextId := s.nextId + 1 }.writeRings c l.record).seatLaunch s.nextId l c i

theorem execShadowLoaded_eq {s : State} {l : PendLaunch} {c i : Nat} (hl : s.launches[s.cur.ev.idx]? = some l) (ht : l.target = some (c, i)) :
    exec .shadowLoaded s = .next (if (s.bank c i).any l.record.clashes || s.refusesAreas c l.record then s
      else if ((s.loadBank l c i).bank c i).isNone then (s.loadBank l c i).swapIn c i else s.loadBank l c i) := by
  change execShadowLoaded s = _
  unfold execShadowLoaded
  simp only [hl, ht]
  by_cases h : ((s.bank c i).any l.record.clashes || s.refusesAreas c l.record) = true
  · rw [if_pos h]; exact if_pos h
  · rw [if_neg h]; exact if_neg h

/-! ### Its seat -/

@[simp] theorem State.seat_setShadow (s : State) (c i : Nat) (t : Shadow) :
    ((s.setShadow c i t).core c).seat i = { (s.core c).seat i with shadow := t } := by
  simp [State.setShadow]
@[simp] theorem State.bank_setShadow (s : State) (c i : Nat) (t : Shadow) : (s.setShadow c i t).bank c i = s.bank c i := by
  simp [State.bank]
@[simp] theorem State.mo_setShadow (s : State) (c i : Nat) (t : Shadow) : ((s.setShadow c i t).core c).mo = (s.core c).mo := by
  simp [State.setShadow, Core.setSeat]
@[simp] theorem State.mo_setLive (s : State) (c i : Nat) (b : Option Bank) : ((s.setLive c i b).core c).mo = (s.core c).mo := by
  simp [State.setLive, Core.setSeat]
@[simp] theorem State.bank_dropGone (s : State) (c i : Nat) : (s.dropGone c).bank c i = s.bank c i := by
  simp [State.dropGone, State.bank, Core.seat]
@[simp] theorem State.mo_dropGone (s : State) (c : Nat) : ((s.dropGone c).core c).mo = (s.core c).mo := by
  simp [State.dropGone]

/-- A loaded shadow whose bank is not being saved goes live (R336). -/
theorem swapIn_loaded {s : State} {c i : Nat} {b : Bank} (h : ((s.core c).seat i).shadow = .loaded b) (hs : b.saving = false) :
    s.swapIn c i = (((s.setLive c i (some b.comeIn)).setShadow c i .empty).oldImages b.job).dropGone c := by
  simp [State.swapIn, h, hs]
theorem bank_swapIn {s : State} {c i : Nat} {b : Bank} (h : ((s.core c).seat i).shadow = .loaded b) (hs : b.saving = false) :
    (s.swapIn c i).bank c i = some b.comeIn := by
  rw [swapIn_loaded h hs, State.bank_dropGone]
  exact (State.bank_setShadow ..).trans (State.bank_setLive ..)
theorem mo_swapIn {s : State} {c i : Nat} {b : Bank} (h : ((s.core c).seat i).shadow = .loaded b) (hs : b.saving = false) :
    ((s.swapIn c i).core c).mo = (s.core c).mo := by
  rw [swapIn_loaded h hs, State.mo_dropGone]
  exact (State.mo_setShadow ..).trans (State.mo_setLive ..)

theorem dram_swapIn {s : State} {c i : Nat} {b : Bank} (h : ((s.core c).seat i).shadow = .loaded b) (hs : b.saving = false) :
    (s.swapIn c i).dram = s.dram := by
  rw [swapIn_loaded h hs]
  rfl
theorem launches_swapIn {s : State} {c i : Nat} {b : Bank} (h : ((s.core c).seat i).shadow = .loaded b) (hs : b.saving = false) :
    (s.swapIn c i).launches = s.launches := by
  rw [swapIn_loaded h hs]
  rfl

theorem shadow_seatLaunch (s : State) (job : Nat) (l : PendLaunch) (c i : Nat) :
    (((s.seatLaunch job l c i).core c).seat i).shadow = .loaded (l.record.bank job l.vf (s.vf l.vf).partition l.info) := by
  rw [State.seatLaunch, State.seat_setShadow]
  rfl
theorem bank_seatLaunch (s : State) (job : Nat) (l : PendLaunch) (c i : Nat) : (s.seatLaunch job l c i).bank c i = s.bank c i := by
  rw [State.seatLaunch, State.bank_setShadow]
  simp [State.bank, State.core, State.setCore, Core.seat]
theorem mo_seatLaunch (s : State) (job : Nat) (l : PendLaunch) (c i : Nat) :
    ((s.seatLaunch job l c i).core c).mo = (s.core c).mo ||| l.record.mo := by
  rw [State.seatLaunch, State.mo_setShadow]
  exact congrArg Core.mo (State.core_setCore ..)
theorem dram_seatLaunch (s : State) (job : Nat) (l : PendLaunch) (c i : Nat) : (s.seatLaunch job l c i).dram = s.dram := rfl
theorem launches_seatLaunch (s : State) (job : Nat) (l : PendLaunch) (c i : Nat) :
    (s.seatLaunch job l c i).launches = s.launches.eraseIdx s.cur.ev.idx := rfl

theorem shadow_loadBank (s : State) (l : PendLaunch) (c i : Nat) : ∃ part,
    (((s.loadBank l c i).core c).seat i).shadow = .loaded (l.record.bank s.nextId l.vf part l.info) :=
  ⟨_, shadow_seatLaunch ..⟩
theorem bank_loadBank (s : State) (l : PendLaunch) (c i : Nat) : (s.loadBank l c i).bank c i = s.bank c i := by
  rw [State.loadBank, bank_seatLaunch, (writeRings_spWritten ..).bank]
  rfl
theorem mo_loadBank (s : State) (l : PendLaunch) (c i : Nat) : ((s.loadBank l c i).core c).mo = (s.core c).mo ||| l.record.mo := by
  rw [State.loadBank, mo_seatLaunch, (writeRings_spWritten ..).mo]
  rfl
theorem dram_loadBank (s : State) (l : PendLaunch) (c i : Nat) : (s.loadBank l c i).dram = s.dram := by
  rw [State.loadBank, dram_seatLaunch, (writeRings_spWritten ..).dram]
theorem launches_loadBank (s : State) (l : PendLaunch) (c i : Nat) : (s.loadBank l c i).launches = s.launches.eraseIdx s.cur.ev.idx := by
  have h := writeRings_spWritten { s with nextId := s.nextId + 1 } c l.record
  rw [State.loadBank, launches_seatLaunch, h.launches, h.cur]

/-! ### What the record gives it -/

/-- Equal but for the general registers, windows and vector registers: what register images load. -/
def RegsLoaded (b c : Bank) : Prop :=
  { c with k := b.k, win := b.win, q := b.q, x := b.x, v := b.v, e := b.e, h := b.h, d := b.d } = b

theorem RegsLoaded.trans {a b c : Bank} (h : RegsLoaded a b) (h' : RegsLoaded b c) : RegsLoaded a c := by
  unfold RegsLoaded at *; rw [← h'] at h; exact h
theorem loadReg_regsLoaded (b : Bank) (x : RegImage) : RegsLoaded b (b.loadReg x) := by
  unfold Bank.loadReg
  dsimp only
  split
  · split
    next r _ => cases r <;> rfl
    next => rfl
  all_goals rfl
/-- The bank of a record is that of the record without its register images, but for the registers. -/
theorem recordBank_regsLoaded (r : JobRec) (job vf part : Nat) (info : JobInfo) :
    RegsLoaded ({ r with regs := [] }.bank job vf part info) (r.bank job vf part info) :=
  List.foldlRecOn (motive := RegsLoaded ({ r with regs := [] }.bank job vf part info)) r.regs Bank.loadReg (by rfl)
    fun _ h x _ => h.trans (loadReg_regsLoaded _ x)

/-- The bank of a record, or that bank as it goes live: it is neither saved nor on its way out, so that going live changes nothing. -/
theorem RegsLoaded.comeIn {r : JobRec} {job vf part : Nat} {info : JobInfo} {b : Bank}
    (h : RegsLoaded ({ r with regs := [] }.bank job vf part info) b) : RegsLoaded ({ r with regs := [] }.bank job vf part info) b.comeIn := by
  unfold RegsLoaded at h ⊢
  exact congrArg Bank.comeIn h

theorem RegsLoaded.exists_eq {b c : Bank} (h : RegsLoaded b c) :
    ∃ a : Bank, c = { b with k := a.k, win := a.win, q := a.q, x := a.x, v := a.v, e := a.e, h := a.h, d := a.d } :=
  ⟨c, by rw [← h]⟩

/-! ### The statement -/

/-- A launch whose areas are free is loaded: its bank goes live in an empty seat and else waits in the shadow (R14, R374). -/
theorem execShadowLoaded_loads {s : State} {l : PendLaunch} {c i : Nat} (hl : s.launches[s.cur.ev.idx]? = some l)
    (ht : l.target = some (c, i)) (hclash : (s.bank c i).any l.record.clashes = false) (hfree : s.refusesAreas c l.record = false) :
    ∃ t b part, exec .shadowLoaded s = .next t ∧
      (s.bank c i = none → t.bank c i = some b) ∧ (s.bank c i ≠ none → ((t.core c).seat i).shadow = .loaded b ∧ t.bank c i = s.bank c i) ∧
      RegsLoaded ({ l.record with regs := [] }.bank s.nextId l.vf part l.info) b ∧
      t.launches = s.launches.eraseIdx s.cur.ev.idx ∧ (t.core c).mo = (s.core c).mo ||| l.record.mo ∧ t.dram = s.dram := by
  rw [execShadowLoaded_eq hl ht, if_neg (by simp [hclash, hfree]), bank_loadBank]
  obtain ⟨part, hshadow⟩ := shadow_loadBank s l c i
  have hb := recordBank_regsLoaded l.record s.nextId l.vf part l.info
  have hlaunches := launches_loadBank s l c i
  have hmo := mo_loadBank s l c i
  have hdram := dram_loadBank s l c i
  cases hlive : s.bank c i with
  | none =>
    have hsaving : (l.record.bank s.nextId l.vf part l.info).saving = false := congrArg Bank.saving hb
    rw [if_pos Option.isNone_none]
    exact ⟨_, _, part, rfl, fun _ => bank_swapIn hshadow hsaving, (absurd rfl ·), hb.comeIn,
      (launches_swapIn hshadow hsaving).trans hlaunches, (mo_swapIn hshadow hsaving).trans hmo, (dram_swapIn hshadow hsaving).trans hdram⟩
  | some o =>
    rw [if_neg (by simp only [Option.isNone_some, Bool.false_eq_true, not_false_eq_true])]
    exact ⟨_, _, part, rfl, nofun, fun _ => ⟨hshadow, (bank_loadBank s l c i).trans hlive⟩, hb, hlaunches, hmo, hdram⟩

theorem bankLoading : Claim.BankLoading := by
  intro s l c i hl ht
  dsimp only
  rw [← refusesAreas_iff]
  refine ⟨fun h => ?_, fun hclash hfree => ?_⟩
  · rw [execShadowLoaded_eq hl ht, if_pos (by simpa using h)]
  obtain ⟨t, b, part, hexec, hempty, hfull, hregs, hlaunches, hmo, hdram⟩ :=
    execShadowLoaded_loads hl ht hclash (Bool.eq_false_iff.mpr hfree)
  obtain ⟨a, rfl⟩ := hregs.exists_eq
  refine ⟨t, _, hexec, hempty, hfull, rfl, rfl, rfl, rfl, rfl, rfl, rfl, rfl, rfl, rfl, rfl, rfl, fun e => ?_, rfl, hlaunches,
    fun u _ => ?_, hdram⟩
  · cases e <;> exact ⟨rfl, rfl, rfl, rfl, rfl⟩
  · rw [hmo, BitVec.getLsbD_or]

end Sys2Proof.Machine
end

section
/-! SUPPORT. The rotation of hardware slots (R370, R371), and O50. -/
namespace Sys2Proof.Machine

/-! ## Hardware slots rotate (R370, R371) -/

theorem Table.find?_del_self {α : Type} (t : Table α) (a : Nat) : Table.find? (Table.del t a) a = none := by
  induction t with
  | nil => rfl
  | cons x t ih =>
    by_cases h : x.1 = a
    · simpa [Table.del, h] using ih
    · simpa [Table.del, Table.find?, h] using ih
theorem Table.find?_del_ne {α : Type} (t : Table α) {a b : Nat} (h : a ≠ b) : Table.find? (Table.del t a) b = Table.find? t b := by
  induction t with
  | nil => rfl
  | cons x t ih =>
    obtain ⟨k, v⟩ := x
    by_cases hk : k = a
    · subst hk; simpa [Table.del, Table.find?, h] using ih
    · simp only [Table.del, Table.find?, ne_eq, hk, not_false_eq_true, decide_true, List.filter_cons_of_pos] at ih ⊢
      rw [ih]

/-- The rotation of a die's slots so far: cores, memory, partitions and the event are as before, and of the slots those of other dies and
those held for a reset VF. -/
structure SlotsMoved (die : Nat) (s t : State) : Prop where
  cores : t.cores = s.cores
  dram : t.dram = s.dram
  parts : t.parts = s.parts
  cur : t.cur = s.cur
  others : ∀ n, n / 64 ≠ die → t.slots.find? n = s.slots.find? n
  held : ∀ n h, s.slots.find? n = some h → h.reclaim = true → t.slots.find? n = some h

theorem SlotsMoved.trans {die : Nat} {s t u : State} (h : SlotsMoved die s t) (h' : SlotsMoved die t u) : SlotsMoved die s u where
  cores := h'.cores.trans h.cores
  dram := h'.dram.trans h.dram
  parts := h'.parts.trans h.parts
  cur := h'.cur.trans h.cur
  others n hn := (h'.others n hn).trans (h.others n hn)
  held n x hx hr := h'.held n x (h.held n x hx hr) hr

/-- A change that leaves the slots alone. -/
theorem SlotsMoved.of_slots {die : Nat} {s t : State} (hc : t.cores = s.cores) (hd : t.dram = s.dram) (hp : t.parts = s.parts)
    (hu : t.cur = s.cur) (hs : t.slots = s.slots) : SlotsMoved die s t :=
  ⟨hc, hd, hp, hu, fun n _ => by rw [hs], fun n x hx _ => by rw [hs, hx]⟩
theorem SlotsMoved.refl (die : Nat) (s : State) : SlotsMoved die s s := .of_slots rfl rfl rfl rfl rfl

/-- Slot `n` of a die may be given away: no reset VF is held by it. -/
def State.slotFree (s : State) (n : Nat) : Prop := ∀ h, s.slots.find? n = some h → h.reclaim = false

/-- A change of one slot of the die, which no reset VF holds. -/
theorem SlotsMoved.of_slot {die i : Nat} {s t : State} (hi : i < 64) (hf : s.slotFree (die * 64 + i)) (hc : t.cores = s.cores)
    (hd : t.dram = s.dram) (hp : t.parts = s.parts) (hu : t.cur = s.cur)
    (hs : ∀ n, die * 64 + i ≠ n → t.slots.find? n = s.slots.find? n) : SlotsMoved die s t := by
  refine ⟨hc, hd, hp, hu, fun n hn => hs n (by omega), fun n x hx hr => ?_⟩
  rw [hs n, hx]
  rintro rfl
  rw [hf x hx] at hr
  cases hr

theorem mapSlot_moves {die i : Nat} (s : State) (hi : i < 64) (hf : s.slotFree (die * 64 + i)) (vf k : Nat) (q : SwQueue) :
    SlotsMoved die s (s.mapSlot (die * 64 + i) vf k q) := by
  unfold State.mapSlot
  dsimp only
  have hput : SlotsMoved die s { s with
      slots := s.slots.put (die * 64 + i) { vf := vf, part := (s.vf vf).partition, queue := k, since := s.nextId },
      nextId := s.nextId + 1 } :=
    .of_slot hi hf rfl rfl rfl rfl fun n hn => Table.find?_put_ne _ _ hn
  split
  · exact hput
  refine hput.trans ?_
  generalize { s with slots := _, nextId := _ } = u
  obtain ⟨a, b, ht⟩ := (readGpa_looked u (u.vf vf).partition vf 8 (q.base + 64 * q.size) 8).exists_eq
  generalize u.readGpa _ _ _ _ _ = r at ht ⊢
  obtain ⟨_ | l, t⟩ := r <;> dsimp only at ht ⊢ <;> subst ht
  · exact .of_slots rfl rfl rfl rfl rfl
  · split <;> exact .of_slots rfl rfl rfl rfl rfl

theorem giveSlot_moves {die i : Nat} (s : State) (hi : i < 64) (hf : s.slotFree (die * 64 + i)) :
    SlotsMoved die s (s.giveSlot die i) := by
  unfold State.giveSlot
  split
  · exact mapSlot_moves s hi hf ..
  split
  · exact .refl die s
  split
  · refine .trans ?_ (mapSlot_moves _ hi ?_ ..)
    · exact .of_slots rfl rfl rfl rfl rfl
    · exact hf
  · exact .refl die s

theorem rotate_moves {die i : Nat} (s : State) (hi : i < 64) (now : Nat) : SlotsMoved die s (s.rotate die i now) := by
  unfold State.rotate
  dsimp only
  split
  next h => exact giveSlot_moves s hi fun x hx => by rw [h] at hx; cases hx
  next h hh =>
  split
  · exact .refl die s
  next hr =>
  have hf : s.slotFree (die * 64 + i) := fun x hx => by
    obtain rfl := Option.some.inj (hh.symm.trans hx); simpa using hr
  have hdel : SlotsMoved die s { s with slots := s.slots.del (die * 64 + i) } :=
    .of_slot hi hf rfl rfl rfl rfl fun n hn => Table.find?_del_ne _ hn
  have hgone : ({ s with slots := s.slots.del (die * 64 + i) } : State).slotFree (die * 64 + i) := fun x hx => by
    rw [Table.find?_del_self] at hx; cases hx
  split
  · exact hdel.trans (giveSlot_moves _ hi hgone)
  split
  · split
    · exact mapSlot_moves s hi hf ..
    · exact .refl die s
  · refine (hdel.trans ?_).trans (giveSlot_moves _ hi ?_)
    · exact .of_slots rfl rfl rfl rfl rfl
    · exact hgone

/-- The slots of the die rotate one after the other. -/
theorem rotations_move (die now n : Nat) (hn : n ≤ 64) (s : State) (hs : s.cur.ev.die = die) :
    SlotsMoved die s ((List.range n).foldl (fun s i => s.rotate s.cur.ev.die i now) s) := by
  induction n with
  | zero => exact .refl die s
  | succ n ih =>
    have hk := ih (by omega)
    rw [List.range_succ, List.foldl_append, List.foldl_cons, List.foldl_nil]
    refine hk.trans ?_
    rw [hk.cur, hs]
    exact rotate_moves _ (by omega) now

/-! ### The longest-waiting queue of a class -/

/-- The queue that is chosen is one that waits. -/
theorem longest_waits {s : State} {die cls vf k : Nat} {q : SwQueue} (h : s.longest die cls = some (vf, k, q)) :
    s.waits die cls vf k q = true := by
  unfold State.longest at h
  dsimp only at h
  generalize hl : List.flatMap _ _ = l at h
  have hmem : (vf, k, q) ∈ l := by
    refine List.foldlRecOn (motive := fun b => ∀ y, b = some y → y ∈ l) l _ (by rintro y ⟨⟩) (fun b hb a ha y hy => ?_) _ h
    cases b with
    | none => obtain rfl := Option.some.inj hy; exact ha
    | some b =>
      dsimp only at hy
      split at hy
      · obtain rfl := Option.some.inj hy; exact ha
      · exact hb y hy
  subst hl
  simp only [List.mem_flatMap, List.mem_map, List.mem_filter] at hmem
  obtain ⟨⟨v, x⟩, -, ⟨k', q'⟩, ⟨-, hw⟩, e⟩ := hmem
  obtain ⟨rfl, rfl, rfl⟩ := by simpa using e
  exact hw

theorem hasWork_iff_watch_or_lt {s : State} {vf : Nat} {q : SwQueue} (h : s.hasWork vf q = true) : q.watch = true ∨ q.rd < q.wr := by
  unfold State.hasWork at h
  cases hq : q.watch with
  | true => exact .inl rfl
  | false => right; simpa [hq] using h

/-- What waiting for a slot means. -/
theorem waits_spec {s : State} {die cls vf k : Nat} {q : SwQueue} (h : s.waits die cls vf k q = true) :
    q.en = true ∧ q.die = die ∧ q.cls = cls ∧ (∀ n h, (n, h) ∈ s.slots → n / 64 = die → h.vf = vf → h.queue ≠ k) ∧
      (q.watch = true ∨ q.rd < q.wr) ∧ (s.vf vf).partition < 20 := by
  simp only [State.waits, Bool.and_eq_true, beq_iff_eq, Bool.not_eq_true', decide_eq_true_eq] at h
  obtain ⟨⟨⟨⟨⟨⟨⟨hen, -⟩, hdie⟩, hcls⟩, -⟩, hpart⟩, hslots⟩, hwork⟩ := h
  refine ⟨hen, hdie, hcls, fun n x hx hn hv hk => ?_, hasWork_iff_watch_or_lt hwork, hpart⟩
  have : ¬ _ := List.any_eq_false.mp hslots (n, x) hx
  simp [hn, hv, hk] at this

/-! ### The statement -/

theorem mapSlot_of_not_watch (s : State) (n vf k : Nat) {q : SwQueue} (h : q.watch = false) : s.mapSlot n vf k q =
    { s with slots := s.slots.put n { vf := vf, part := (s.vf vf).partition, queue := k, since := s.nextId },
             nextId := s.nextId + 1 } := by
  simp [State.mapSlot, h]
theorem rotate_of_free {s : State} {die i : Nat} (now : Nat) (h : s.slots.find? (die * 64 + i) = none) :
    s.rotate die i now = s.giveSlot die i := by
  simp [State.rotate, h]
theorem giveSlot_own {s : State} {die i c vf k : Nat} {q : SwQueue} (hc : s.dev.slotClass die i = some c)
    (hl : s.longest die c = some (vf, k, q)) : s.giveSlot die i = s.mapSlot (die * 64 + i) vf k q := by
  simp [State.giveSlot, hc, hl]
theorem giveSlot_spare {s : State} {die i c vf k : Nat} {q : SwQueue} (hn : ∀ d, s.dev.slotClass die i = some d → s.longest die d = none)
    (hc : s.spareClass die = some c) (hl : s.longest die c = some (vf, k, q)) :
    s.giveSlot die i = { s with dev := { s.dev with spareTurn := (c + 1) % 4 } }.mapSlot (die * 64 + i) vf k q := by
  have hown : (s.dev.slotClass die i).bind (s.longest die) = none := by
    cases h : s.dev.slotClass die i with
    | none => rfl
    | some d => exact hn d h
  simp [State.giveSlot, hown, hc, hl]

theorem slotRotation : Claim.SlotRotation := by
  intro s
  refine ⟨fun hf => ?_, fun hf => ?_, fun die i now vf k q hn hc hl hw => ?_, fun die i now c vf k q hn ho hc hl hw => ?_,
    fun die cls vf k q hl => waits_spec (longest_waits hl)⟩
  · exact if_pos hf
  · have h := rotations_move s.cur.ev.die s.nextId 64 (Nat.le_refl 64) s rfl
    exact ⟨_, if_neg (not_not_intro hf), h.cores, h.dram, h.parts, h.others, h.held⟩
  · obtain ⟨c, hc⟩ := Option.ne_none_iff_exists'.mp hc
    rw [hc, Option.getD_some] at hl
    rw [rotate_of_free now hn, giveSlot_own hc hl, mapSlot_of_not_watch _ _ _ _ hw]
  · rw [rotate_of_free now hn, giveSlot_spare ho hc hl, mapSlot_of_not_watch _ _ _ _ hw]
    rfl

/-- Settles O50: a placed launch's bank is loaded from its record, a graph's nodes advance by what the attempted node is, and the slots of
a die rotate one by one, each change confined to its own slot. -/
theorem jobsAndGraphs : Obligations.JobsAndGraphs := ⟨bankLoading, graphProgress, slotRotation⟩

end Sys2Proof.Machine
end
